-- ==== Sys2Proof/Word.lean ====
section
/-! DEFINITION. The word types of the Ifholt 7420 (spec 00 section 1.7 and the Terms table): what the manual treats as bits. -/

namespace Sys2Proof

/-- A 32-bit bus word, little-endian within the word (spec 00 section 1.7). -/
abbrev Word := BitVec 32

/-- A 24-bit byte address (spec 00 section 1.7). -/
abbrev Addr := BitVec 24

/-- One byte of the RAM as it is stored: bits 7..0 the byte, bit 8 its odd-parity bit (spec 00 section 1.7, R136). -/
abbrev RamByte := BitVec 9

/-- A time value: seconds (32 bits) in the upper bits and tick 0..1023 in the low ten, so that it counts ticks (R131). -/
abbrev Time := BitVec 42

/-- An elapsed count of ticks, 48 bits, wrapping (R131). -/
abbrev Elapsed := BitVec 48

/-- The seconds field of a time value (R131). -/
def Time.seconds (t : Time) : Nat := t.toNat / 1024

/-- The tick field of a time value, 0..1023 (R131). -/
def Time.tick (t : Time) : Nat := t.toNat % 1024

end Sys2Proof
end

