-- ==== Sys2Proof/Config.lean ====
section
/-! DEFINITION. The values the spec leaves open, as constants without a body: no proof can see what they are. -/

namespace Sys2Proof

/-- The time value that stands for a sum of ticks beyond 4,294,967,295 seconds and tick 1023. The spec gives a time value
32 bits of seconds (R131) and does not say what a due time or deadline beyond them is (L8, DESIGN CHOICE: a free value). -/
opaque Config.timeBeyondRange : Nat → Time

/-- How many words of an engine burst in progress have been transferred when a reset ends it (R159, R160), for the n-th
such reset (L9, DESIGN CHOICE: a free value; it is used limited to the length of the burst). -/
opaque Config.wordsTransferred : Nat → Nat

end Sys2Proof
end

