-- ==== Sys2Proof/Syntax.lean ====
section
/-! DEFINITION. The commands of the block: one constructor of `Instr` for each row of spec/opcode_table.json. -/

namespace Sys2Proof

/-- One word as a bus port carries it: data, one byte enable and one parity bit a byte (spec 00 section 1.7). -/
structure BusWord where
  data    : Word
  enables : BitVec 4
  parity  : BitVec 4
  deriving DecidableEq, Repr, Inhabited

/-- What a transaction does: a read of 1, 2, 4 or 8 words, or a write of the words given (spec 00 section 1.7). -/
inductive Transfer where
  | read  (length : Nat)
  | write (words : List BusWord)
  deriving DecidableEq, Repr, Inhabited

/-- A transaction of the camera controller (spec 00 section 1.7, R136). -/
structure Transaction where
  addr     : Addr
  transfer : Transfer
  deriving DecidableEq, Repr, Inhabited

/-- Which of the three argument words of the command slot (R138). -/
inductive ArgIndex where
  | first | second | third
  deriving DecidableEq, Repr, Inhabited

/-- The pin levels a power-on reset finds, and whether the reset ends with this event (R124, R126, R132, R138, R147; L6, L7). -/
structure PowerPins where
  straps  : BitVec 3
  battery : Nat
  crystal : Bool
  ended   : Bool
  deriving DecidableEq, Repr, Inhabited

/-- The commands assigned a code in the command word, and an unassigned code (R180, "Command word"). -/
inductive CommandName where
  | configure | setTime | trimTime | loadPlan | setEv | start | stop | arm | sleep | clear | resetPart
  | unassigned (code : BitVec 8)
  deriving DecidableEq, Repr, Inhabited

/-- The commands of the block (spec/opcode_table.json). A command word's row carries its sequence number; its arguments are
the argument latches (R141). A row whose event takes a supply sample carries the reading of the battery sense input in mV
(R127). -/
inductive Instr where
  | configure (seq : BitVec 8)
  | configReadComplete
  | setTime (seq : BitVec 8)
  | trimTime (seq : BitVec 8)
  | loadPlan (seq : BitVec 8)
  | setEv (seq : BitVec 8)
  | start (seq : BitVec 8)
  | stop (seq : BitVec 8)
  | arm (seq : BitVec 8)
  | sleep (seq : BitVec 8)
  | clear (seq : BitVec 8)
  | clearPlanBit
  | clearStatisticsBit
  | clearEventBit
  | clearTimeBit
  | resetPart (seq : BitVec 8) (straps : BitVec 3)
  | unassignedCommandCode (code seq : BitVec 8)
  | commandWordDamaged (word : BusWord)
  | argumentWordWrite (index : ArgIndex) (word : BusWord)
  | consumerIndexWrite (word : BusWord)
  | planWordWrite (addr : Addr) (enables : BitVec 4)
  | statHeaderWord (word : BusWord)
  | statZoneWord (zone : Fin 32) (word : BusWord)
  | statClosingWord (word : BusWord)
  | dueTime
  | statisticsDeadline
  | planFetchComplete
  | scheduledWake
  | idleWake
  | resetHoldExpiry (battery : Nat)
  | sessionTimerExpiry (battery : Nat)
  | alertHoldoffExpiry
  | recheckTimerExpiry (battery : Nat)
  | crystalStop
  | crystalRunning
  | powerOnReset (pins : PowerPins)
  | passThroughArrival (tx : Transaction)
  | passThroughCompletion
  | engineAccessComplete
  | retentionEntryComplete (battery : Nat)
  | retentionExitComplete
  | wakePulseEnd (battery : Nat)
  | triggerPulseEnd
  deriving DecidableEq, Repr

end Sys2Proof
end

