-- ==== Sys2Proof/Decode.lean ====
section
/-! DEFINITION. Words to commands. The opcode table gives no row any bits, so `decodeTableWord` answers none. The command
word's own layout (R180) is decoded and encoded here, with the bit-field helpers every layout uses. -/

namespace Sys2Proof

/-- The command that a word of the opcode table spells: the table gives its rows no bits (L3). -/
def decodeTableWord (_nbits _w : Nat) : Option Instr := none

/-- The unsigned field that occupies bits `lo` to `lo + width - 1` of a word (R180). -/
def field (w : Word) (lo width : Nat) : Nat := w.toNat / 2 ^ lo % 2 ^ width

/-- The two's complement field that occupies bits `lo` to `lo + width - 1` of a word (R180). -/
def signedField (w : Word) (lo width : Nat) : Int :=
  let v := field w lo width
  if v < 2 ^ (width - 1) then (v : Int) else (v : Int) - (2 ^ width : Nat)

/-- The value `v` placed in bits `lo` to `lo + width - 1`, as a summand of a word (R180). -/
def place (v lo width : Nat) : Nat := v % 2 ^ width * 2 ^ lo

/-- The signed value `v` placed in bits `lo` to `lo + width - 1`, two's complement (R180). -/
def placeSigned (v : Int) (lo width : Nat) : Nat := (v % (2 ^ width : Nat)).toNat * 2 ^ lo

/-- One bit of a word as a truth value (R180). -/
def bitOf (w : Word) (i : Nat) : Bool := decide (field w i 1 = 1)

/-- A truth value placed at a bit (R180). -/
def placeBit (b : Bool) (i : Nat) : Nat := if b then 2 ^ i else 0

/-- The parity bit that makes byte `i` of a word odd over its bits and the parity bit (spec 00 section 1.7). -/
def oddParityBit (b : BitVec 8) : Bool :=
  !(b.getLsbD 0 ^^ b.getLsbD 1 ^^ b.getLsbD 2 ^^ b.getLsbD 3 ^^ b.getLsbD 4 ^^ b.getLsbD 5 ^^ b.getLsbD 6 ^^ b.getLsbD 7)

/-- Byte `i` of a word, byte 0 the least significant (spec 00 section 1.7: little-endian within the word). -/
def byteOf (w : Word) (i : Nat) : BitVec 8 := (w >>> (8 * i)).setWidth 8

/-- Byte `i` has good parity: the ones of the byte and its parity bit are odd in number (R139). -/
def byteGood (w : BusWord) (i : Nat) : Bool := w.parity.getLsbD i == oddParityBit (byteOf w.data i)

/-- A word is whole when all four byte enables are set (R139). -/
def BusWord.whole (w : BusWord) : Bool := w.enables == 15

/-- A word none of whose byte enables is set is handed to no owner (R139, R70 "empty"). -/
def BusWord.empty (w : BusWord) : Bool := w.enables == 0

/-- A word has good parity when each enabled byte has good parity (R139). -/
def BusWord.good (w : BusWord) : Bool :=
  (!w.enables.getLsbD 0 || byteGood w 0) && (!w.enables.getLsbD 1 || byteGood w 1) &&
  (!w.enables.getLsbD 2 || byteGood w 2) && (!w.enables.getLsbD 3 || byteGood w 3)

/-- The command a code names (R180: 0x01 CONFIGURE to 0x0B RESET_PART; every other code is unassigned). -/
def commandOfCode (code : BitVec 8) : CommandName :=
  if code = 0x01 then .configure
  else if code = 0x02 then .setTime
  else if code = 0x03 then .trimTime
  else if code = 0x04 then .loadPlan
  else if code = 0x05 then .setEv
  else if code = 0x06 then .start
  else if code = 0x07 then .stop
  else if code = 0x08 then .arm
  else if code = 0x09 then .sleep
  else if code = 0x0A then .clear
  else if code = 0x0B then .resetPart
  else .unassigned code

/-- The code of a command (R180). -/
def codeOfCommand : CommandName → BitVec 8
  | .configure => 0x01
  | .setTime => 0x02
  | .trimTime => 0x03
  | .loadPlan => 0x04
  | .setEv => 0x05
  | .start => 0x06
  | .stop => 0x07
  | .arm => 0x08
  | .sleep => 0x09
  | .clear => 0x0A
  | .resetPart => 0x0B
  | .unassigned code => code

/-- A command word: bits 7..0 the code, bits 15..8 the sequence number, bits 31..16 not read (R180). -/
def decodeCommandWord (w : Word) : CommandName × BitVec 8 :=
  (commandOfCode (BitVec.ofNat 8 (field w 0 8)), BitVec.ofNat 8 (field w 8 8))

/-- The command word of a command and a sequence number, with `high` in the bits that are not read (R180). -/
def encodeCommandWord (high : BitVec 16) (c : CommandName) (seq : BitVec 8) : Word :=
  high ++ seq ++ codeOfCommand c

/-- The row of the opcode table that a command word's command is, with the strap pins as a RESET_PART finds them. -/
def rowOfCommand (straps : BitVec 3) (seq : BitVec 8) : CommandName → Instr
  | .configure => .configure seq
  | .setTime => .setTime seq
  | .trimTime => .trimTime seq
  | .loadPlan => .loadPlan seq
  | .setEv => .setEv seq
  | .start => .start seq
  | .stop => .stop seq
  | .arm => .arm seq
  | .sleep => .sleep seq
  | .clear => .clear seq
  | .resetPart => .resetPart seq straps
  | .unassigned code => .unassignedCommandCode code seq

end Sys2Proof
end

