-- ==== Sys2Proof/WellFormed.lean ====
section
/-! DEFINITION. Which commands are well formed: the form the spec gives each operand. `exec` is total and does not ask for it. -/

namespace Sys2Proof

/-- A transaction starts at a word-aligned address, has 1, 2, 4 or 8 words and stays in the 16 MiB address space
(spec 00 sections 1.4 and 1.7). -/
def Transaction.wellFormed (tx : Transaction) : Bool :=
  let n := match tx.transfer with
    | .read k => k
    | .write ws => ws.length
  decide (tx.addr.toNat % 4 = 0) && (n == 1 || n == 2 || n == 4 || n == 8) && decide (tx.addr.toNat + 4 * n ≤ 2 ^ 24)

/-- Whether a code is one assigned to a command (R180). -/
def codeAssigned (code : BitVec 8) : Bool := decide (1 ≤ code.toNat) && decide (code.toNat ≤ 11)

/-- The check of each command's operands. -/
def Instr.wellFormed : Instr → Bool
  | .configure _ => true
  | .configReadComplete => true
  | .setTime _ => true
  | .trimTime _ => true
  | .loadPlan _ => true
  | .setEv _ => true
  | .start _ => true
  | .stop _ => true
  | .arm _ => true
  | .sleep _ => true
  | .clear _ => true
  | .clearPlanBit => true
  | .clearStatisticsBit => true
  | .clearEventBit => true
  | .clearTimeBit => true
  | .resetPart _ _ => true
  | .unassignedCommandCode code _ => !codeAssigned code
  | .commandWordDamaged w => !w.empty && !(w.whole && w.good)
  | .argumentWordWrite _ w => !w.empty
  | .consumerIndexWrite w => !w.empty
  | .planWordWrite a en => decide (a.toNat % 4 = 0) && en != 0
  | .statHeaderWord w => !w.empty
  | .statZoneWord _ w => !w.empty
  | .statClosingWord w => !w.empty
  | .dueTime => true
  | .statisticsDeadline => true
  | .planFetchComplete => true
  | .scheduledWake => true
  | .idleWake => true
  | .resetHoldExpiry _ => true
  | .sessionTimerExpiry _ => true
  | .alertHoldoffExpiry => true
  | .recheckTimerExpiry _ => true
  | .crystalStop => true
  | .crystalRunning => true
  | .powerOnReset _ => true
  | .passThroughArrival tx => tx.wellFormed
  | .passThroughCompletion => true
  | .engineAccessComplete => true
  | .retentionEntryComplete _ => true
  | .retentionExitComplete => true
  | .wakePulseEnd _ => true
  | .triggerPulseEnd => true

end Sys2Proof
end

