-- ==== Sys2Proof/Machine/State.lean ====
section
/-! DEFINITION. The state of the Ifholt 7420, block by block (spec 00 section 1.3), and the state after a power-on reset.
Plain data throughout. INVENTORY.md lists every field with its rule and reset value. -/

namespace Sys2Proof.Machine

/-! ### Named values (R181) -/

/-- The run state (R1). -/
inductive RunState where
  | unconfigured | stopped | running | faultHold | suspended
  deriving DecidableEq, Repr, Inhabited

/-- The finish reason (R1). -/
inductive FinishReason where
  | noReason | command | finished
  deriving DecidableEq, Repr, Inhabited

/-- The session state (R107). -/
inductive SessionState where
  | asleepOff | asleepStandby | waking | open | closing
  deriving DecidableEq, Repr, Inhabited

/-- The wake cause (R107). -/
inductive WakeCause where
  | cold | scheduled | idle | alert | forcedRecovery
  deriving DecidableEq, Repr, Inhabited

/-- The sleep kind (R107). -/
inductive SleepKind where
  | noSleep | off | standby
  deriving DecidableEq, Repr, Inhabited

/-- The phase of the wake in progress (R112): waiting for the port, in the reset hold, in the WAKE pulse, or with the
waking status write requested. -/
inductive WakePhase where
  | noWake | memory | resetHold | wakePulse | status
  deriving DecidableEq, Repr, Inhabited

/-- The supply state (R126). -/
inductive SupplyState where
  | normal | low | critical
  deriving DecidableEq, Repr, Inhabited

/-- The oscillator source (R131). -/
inductive OscSource where
  | crystal | rc
  deriving DecidableEq, Repr, Inhabited

/-- The event classes, in the order of their numbers 0 to 7 (R180). -/
inductive EventClass where
  | battLow | battCrit | planFault | statsError | timeDegraded | logLost | forcedSleep | busAnomaly
  deriving DecidableEq, Repr, Inhabited

/-- The outcome of a retirement (R23). -/
inductive FrameOutcome where
  | metered | unmetered | missed | voided | abandoned
  deriving DecidableEq, Repr, Inhabited

/-- The cause of a retirement (R20, R23). -/
inductive Cause where
  | noCause | timeout | parity | superseded | settling | noWeight | notArmed | asleep | suspended
  deriving DecidableEq, Repr, Inhabited

/-- The limit indication of an issue (R60, R101). -/
inductive Limit where
  | noLimit | high | low
  deriving DecidableEq, Repr, Inhabited

/-- The mode of a segment (R28). -/
inductive Mode where
  | hold | ramp | track
  deriving DecidableEq, Repr, Inhabited

/-- The settle kind of a segment (R29). -/
inductive Settle where
  | keep | void
  deriving DecidableEq, Repr, Inhabited

/-- The exit kind of a segment (R29). -/
inductive ExitKind where
  | frames | clock | above | below | limit | never
  deriving DecidableEq, Repr, Inhabited

/-- The fault reasons of a segment record and of a load (R30, R37). -/
inductive FaultReason where
  | format | range | bounds | rate | link | tooLong
  deriving DecidableEq, Repr, Inhabited

/-- The result codes of a command (R172). -/
inductive Result where
  | ok | okClamped | busy | state | range | invalid | overlap | noPlan | tooSoon | unknown
  deriving DecidableEq, Repr, Inhabited

/-- The long commands (R173). -/
inductive LongKind where
  | configure | loadPlan
  deriving DecidableEq, Repr, Inhabited

/-- The cause of the latest reset (R172). -/
inductive ResetCause where
  | powerOn | soft
  deriving DecidableEq, Repr, Inhabited

/-- The retention states of the Memory Port (R149). -/
inductive Retention where
  | active | entering | retained | exiting
  deriving DecidableEq, Repr, Inhabited

/-- The states of a cache entry (R33). -/
inductive EntryState where
  | fetching | valid | stale | invalid | fault
  deriving DecidableEq, Repr, Inhabited

/-! ### Records -/

/-- One value of each of the eight event classes. -/
structure PerClass where
  battLow      : Nat
  battCrit     : Nat
  planFault    : Nat
  statsError   : Nat
  timeDegraded : Nat
  logLost      : Nat
  forcedSleep  : Nat
  busAnomaly   : Nat
  deriving DecidableEq, Repr, Inhabited

/-- A decoded segment record (R28, R29). `next = none` is "no slot". -/
structure Segment where
  mode          : Mode
  settle        : Settle
  exitKind      : ExitKind
  exitParam     : Nat
  holdCount     : Nat
  minDwell      : Nat
  next          : Option Nat
  interval      : Nat
  stretch       : Nat
  readoutMargin : Nat
  elMin         : Nat
  elMax         : Nat
  shutterMax    : Nat
  gainMax       : Nat
  target        : Nat
  weightSet     : Nat
  gainNum       : Nat
  deadband      : Nat
  slew          : Nat
  rampRate      : Int
  biasStart     : Int
  biasRate      : Int
  guardZones    : Nat
  guardStep     : Nat
  deriving DecidableEq, Repr, Inhabited

/-- An entry of the order queue (R9), with its limit indication (R60). -/
structure Entry where
  frame      : Word
  due        : Time
  el         : Nat
  s          : Nat
  g          : Nat
  shutterUs  : Nat
  gainCode   : Nat
  slot       : Nat
  first      : Bool
  stretched  : Bool
  deferred   : Bool
  skipped    : Nat
  armed      : Bool
  triggered  : Bool
  deadline   : Option Time
  discounted : Bool
  limit      : Limit
  deriving DecidableEq, Repr, Inhabited

/-- The origin of an owed issue (R12). The mark of START and of resumption is on the first of the issues they add. -/
inductive Origin where
  | start (first : Bool)
  | resumption (first : Bool)
  | retirement (frame : Word) (metered : Bool)
  deriving DecidableEq, Repr, Inhabited

/-- The held metering results (R86). -/
structure Metering where
  frame : Word
  el    : Nat
  bl    : Nat
  clip  : Nat
  deriving DecidableEq, Repr, Inhabited

/-- The record being assembled (R71). `presence` bit i is the mark of zone word i + 1. -/
structure Assembling where
  stream   : Nat
  tag      : BitVec 16
  values   : List Nat
  presence : BitVec 32
  poisoned : Bool
  deriving DecidableEq, Repr, Inhabited

/-- The assembler state with the open record (R71). -/
inductive Assembler where
  | idle
  | assembling (record : Assembling)
  | skipping
  deriving DecidableEq, Repr, Inhabited

/-- The latched record (R71, R80). -/
structure Latched where
  stream   : Nat
  tag      : BitVec 16
  values   : List Nat
  presence : BitVec 32
  gap      : Bool
  deriving DecidableEq, Repr, Inhabited

/-- The sticky statistics flags (R83). -/
structure StickyFlags where
  overrun  : Bool
  gap      : Bool
  mismatch : Bool
  parity   : Bool
  late     : Bool
  unknown  : Bool
  restart  : Bool
  deriving DecidableEq, Repr, Inhabited

/-- An entry of the Plan Cache (R33, and the awaiting-refetch mark of R47). -/
structure CacheEntry where
  slot               : Nat
  state              : EntryState
  record             : Option Segment
  writtenDuringFetch : Bool
  reason             : Option FaultReason
  awaiting           : Bool
  deriving DecidableEq, Repr, Inhabited

/-- The fetch in flight (R39): its slot, and whether the entry that requested it has left the cache since. -/
structure Fetch where
  slot   : Nat
  orphan : Bool
  deriving DecidableEq, Repr, Inhabited

/-- The load walk (R36): its entry slot, and whether it has begun (it begins once no fetch is in flight, R39). -/
structure Walk where
  entrySlot : Nat
  started   : Bool
  deriving DecidableEq, Repr, Inhabited

/-- A window: base and inclusive limit (R137). -/
structure Window where
  base  : Nat
  limit : Nat
  deriving DecidableEq, Repr, Inhabited

/-- The address range of one record under write (R144): first byte and length in bytes. -/
structure RecordRange where
  base : Nat
  size : Nat
  deriving DecidableEq, Repr, Inhabited

/-- One burst of the Record Engine (R150): direction, place, words, the record it belongs to, whether it is that record's
commit access, and for a status record which group of 8 words it writes (R164, R165, R167). -/
structure EngineAccess where
  write  : Bool
  addr   : Nat
  words  : List BusWord
  length : Nat
  record : Option RecordRange
  commit : Bool
  group  : Option Nat
  deriving DecidableEq, Repr, Inhabited

/-- The access in progress on the memory side (R149). -/
inductive PortAccess where
  | noAccess
  | pass (tx : Transaction)
  | engine (a : EngineAccess)
  deriving DecidableEq, Repr, Inhabited

/-- The content of an ORDER_WRITE (R161), with the VOID flag of a rewrite (R65). -/
structure OrderContent where
  frame     : Word
  due       : Time
  el        : Nat
  shutterUs : Nat
  gainCode  : Nat
  slot      : Nat
  first     : Bool
  stretched : Bool
  deferred  : Bool
  skipped   : Nat
  void      : Bool
  deriving DecidableEq, Repr, Inhabited

/-- The content of a LOG_WRITE, fixed at the retirement (R23, R180). `bl = none` is "none" (R182). -/
structure LogContent where
  entry    : Entry
  outcome  : FrameOutcome
  cause    : Cause
  bl       : Option Nat
  error    : Int
  gap      : Bool
  degraded : Bool
  sample   : Nat
  deriving DecidableEq, Repr, Inhabited

/-- The requests of the Record Engine's queue (R161). -/
inductive Request where
  | order (content : OrderContent)
  | status
  | log (content : LogContent)
  | planFetch (slot addr : Nat)
  | configRead
  deriving DecidableEq, Repr, Inhabited

/-- The request in service (R161 to R167): the accesses still to make, the first of them asked for or in progress, the
rewrite mark (R162), whether its service has been ended (R162), the words its reads have returned (R167), and for a status
write whether its content was taken after a wake's step 4 and the pending marks it shows (R113). -/
structure Service where
  request : Request
  todo    : List EngineAccess
  rewrite : Bool
  ended   : Bool
  got     : List BusWord
  opens   : Bool
  shown   : BitVec 8
  deriving DecidableEq, Repr, Inhabited

/-- The session and supply parameters in force (R109, R128, R129). Periods are in seconds, thresholds in mV. -/
structure Settings where
  wakeLead      : Nat
  sessionLimit  : Nat
  minSleep      : Nat
  offGap        : Nat
  idleWake      : Nat
  alertHoldoff  : Nat
  wakeThreshold : Nat
  wakeLevels    : PerClass
  low           : Nat
  crit          : Nat
  hyst          : Nat
  recheckPeriod : Nat
  deriving DecidableEq, Repr, Inhabited

/-- What a successful CONFIGURE puts in force beside the settings and the windows (R10, R22, R71, R90, R18). The weights
are the 32 words of the four weight sets (R180). -/
structure Tuning where
  depth        : Nat
  statWait     : Nat
  streamSelect : Nat
  clipLevel    : Nat
  dailyFrom    : Nat
  dailyTo      : Nat
  weights      : List Word
  deriving DecidableEq, Repr, Inhabited

/-! ### Blocks -/

/-- The pins (spec 00 section 1.7, R108) and whether the part is still held in power-on reset (R147). -/
structure Pins where
  straps       : BitVec 3
  batterySense : Nat
  pwrEn        : Bool
  wake         : Bool
  ctrlReset    : Bool
  trigger      : Bool
  inReset      : Bool
  deriving DecidableEq, Repr, Inhabited

/-- The Time Base (R131). `sinceStop` counts the RC oscillator's ticks since the crystal was last judged stopped, up to the 1,024
that a crystal judged running has behind it (R132; L42). -/
structure TimeBase where
  time           : Time
  elapsed        : Elapsed
  source         : OscSource
  unset          : Bool
  degraded       : Bool
  crystalRunning : Bool
  sinceStop      : Nat
  deriving DecidableEq, Repr, Inhabited

/-- The Supply Monitor (R126). -/
structure Supply where
  state      : SupplyState
  lastSample : Nat
  recheck    : Option Elapsed
  deriving DecidableEq, Repr, Inhabited

/-- The Session Controller (R107), the COLD flag (R124) and the phase of a wake (R112). -/
structure Session where
  state          : SessionState
  cause          : WakeCause
  late           : Bool
  sleepKind      : SleepKind
  forcedRecovery : Bool
  timer          : Option Elapsed
  sleepTime      : Option Elapsed
  counts         : PerClass
  pendingSet     : BitVec 8
  holdoff        : Option Elapsed
  deferredAlert  : Bool
  cold           : Bool
  phase          : WakePhase
  deriving DecidableEq, Repr, Inhabited

/-- The Frame Scheduler (R1 to R26). `heldCopy` is the copy kept by an issue that waits before step 3 (R14, R34);
`latestKept` is the due time and EL of the latest issued order already retired and not voided (R15, R65); `startState` is the run
state that the latest START chose, the one a suspension put off until its issues are made records (R7, R130). -/
structure Scheduler where
  runState     : RunState
  finish       : FinishReason
  resumeState  : Option RunState
  queue        : List Entry
  nextFrame    : Word
  lastRetired  : Option Word
  depth        : Nat
  dailyFrom    : Nat
  dailyTo      : Nat
  owed         : List Origin
  heldCopy     : Option Segment
  startRequest : Option Time
  startState   : Option RunState
  chainBase    : Option Time
  latestKept   : Option (Time × Nat)
  triggers     : Nat
  misses       : Nat
  voids        : Nat
  unmetered    : Nat
  skips        : Nat
  deriving DecidableEq, Repr, Inhabited

/-- The Segment Controller (R51). `copyRead` is the latest decoded copy of the current segment that an issue has read: the
exit fields in use (R51) and the metering copy (R90) are views of it. -/
structure SegmentControl where
  current   : Option Nat
  frames    : Nat
  hold      : Nat
  bias      : Int
  entryTime : Option Time
  copyRead  : Option Segment
  decided   : Option Nat
  deriving DecidableEq, Repr, Inhabited

/-- The Exposure Computer (R86). -/
structure Exposure where
  el   : Nat
  held : Option Metering
  deriving DecidableEq, Repr, Inhabited

/-- The Statistics Intake (R71). -/
structure Intake where
  assembler : Assembler
  latched   : Option Latched
  flags     : StickyFlags
  deriving DecidableEq, Repr, Inhabited

/-- The Plan Cache (R33), entries in recency order from the least recent, and the PLAN_FAULT fields (R37, R43). -/
structure PlanCache where
  entries : List CacheEntry
  loaded  : Option Nat
  fetch   : Option Fetch
  walk    : Option Walk
  fault   : Option (Nat × FaultReason)
  deriving DecidableEq, Repr, Inhabited

/-- The Pass-Through Path (R137 to R148). `returned` is what the last pass-through read gave the controller-side port (R136);
`following` is the transaction that the controller makes the moment the one outstanding completes (R136, R156; L43). -/
structure Path where
  controlBase : Nat
  plan        : Option Window
  stat        : Option Window
  log         : Option Window
  underWrite  : List RecordRange
  held        : Option Transaction
  arg1        : Word
  arg2        : Word
  arg3        : Word
  consumer    : Option Nat
  returned    : List BusWord
  following   : Option Transaction
  deriving DecidableEq, Repr, Inhabited

/-- The Memory Port (R149), and whether a soft reset found it ENTERING (R160). -/
structure Port where
  retention      : Retention
  access         : PortAccess
  waitPass       : Option Transaction
  waitEngine     : Option EngineAccess
  waitWake       : Bool
  starvation     : Nat
  exitAfterEntry : Bool
  deriving DecidableEq, Repr, Inhabited

/-- The Record Engine (R161 to R170). -/
structure Engine where
  waiting     : List Request
  service     : Option Service
  updateCount : Word
  copies      : List (Option (List Word))
  dirty       : List Bool
  producer    : Nat
  lost        : Nat
  deriving DecidableEq, Repr, Inhabited

/-- The command interpreter (R172). -/
structure Interpreter where
  lastDecided : Option (BitVec 8 × Result)
  busy        : Option (BitVec 8 × LongKind)
  resetCause  : ResetCause
  deriving DecidableEq, Repr, Inhabited

/-- The configuration in force (R176 to R179). -/
structure Configuration where
  settings : Settings
  tuning   : Option Tuning
  deriving DecidableEq, Repr, Inhabited

/-- The whole machine. `ram` is the camera's RAM as the part's memory-side port sees it (L1): addresses strictly rising,
no entry equal to what an unlisted address reads as. `freeCount` is the model's own counter of free values (L9).
`pending` is the queue of commands, first in first out. -/
structure State where
  pins      : Pins
  tb        : TimeBase
  supply    : Supply
  session   : Session
  sched     : Scheduler
  seg       : SegmentControl
  expo      : Exposure
  stats     : Intake
  cache     : PlanCache
  path      : Path
  port      : Port
  engine    : Engine
  cmd       : Interpreter
  config    : Configuration
  ram       : List (Nat × RamByte)
  freeCount : Nat
  pending   : List Instr
  deriving DecidableEq, Repr, Inhabited

/-- Reasons to stop with a fault. No command of this block raises one: what the spec calls faults is state
(PLAN_FAULT, FAULT_HOLD, sticky flags). -/
inductive Fault where
  /-- Raised by nothing: the block has no fault that stops it. Safe. -/
  | unreachable
  deriving DecidableEq, Repr

/-- Reasons to refuse a command. -/
inductive Refusal where
  /-- Raised only by an arm of `exec` for a row that has no meaning yet; no arm does. Safe. -/
  | notModelled (mnemonic : String)
  deriving DecidableEq, Repr

/-! ### Updates, one for each block -/

def State.modPins (f : Pins → Pins) (s : State) : State := { s with pins := f s.pins }
def State.modTb (f : TimeBase → TimeBase) (s : State) : State := { s with tb := f s.tb }
def State.modSupply (f : Supply → Supply) (s : State) : State := { s with supply := f s.supply }
def State.modSession (f : Session → Session) (s : State) : State := { s with session := f s.session }
def State.modSched (f : Scheduler → Scheduler) (s : State) : State := { s with sched := f s.sched }
def State.modSeg (f : SegmentControl → SegmentControl) (s : State) : State := { s with seg := f s.seg }
def State.modExpo (f : Exposure → Exposure) (s : State) : State := { s with expo := f s.expo }
def State.modStats (f : Intake → Intake) (s : State) : State := { s with stats := f s.stats }
def State.modCache (f : PlanCache → PlanCache) (s : State) : State := { s with cache := f s.cache }
def State.modPath (f : Path → Path) (s : State) : State := { s with path := f s.path }
def State.modPort (f : Port → Port) (s : State) : State := { s with port := f s.port }
def State.modEngine (f : Engine → Engine) (s : State) : State := { s with engine := f s.engine }
def State.modCmd (f : Interpreter → Interpreter) (s : State) : State := { s with cmd := f s.cmd }
def State.modConfig (f : Configuration → Configuration) (s : State) : State := { s with config := f s.config }
def State.modRam (f : List (Nat × RamByte) → List (Nat × RamByte)) (s : State) : State := { s with ram := f s.ram }
def State.modFreeCount (f : Nat → Nat) (s : State) : State := { s with freeCount := f s.freeCount }
def State.setPending (q : List Instr) (s : State) : State := { s with pending := q }

/-! ### The state after a power-on reset -/

/-- The session and supply defaults (R109, R128, R129). -/
def Settings.default : Settings :=
  { wakeLead := 30, sessionLimit := 600, minSleep := 5, offGap := 60, idleWake := 3600, alertHoldoff := 3600,
    wakeThreshold := 7, wakeLevels := ⟨0, 0, 0, 0, 0, 0, 0, 0⟩, low := 3400, crit := 3100, hyst := 100,
    recheckPeriod := 600 }

/-- The configuration after either reset: the defaults, and no tuning in force (R109, R128, R10, R71). -/
def Configuration.default : Configuration := { settings := .default, tuning := none }

/-- The Frame Scheduler after either reset (R1, R4, R12, R15, R25, R26; depth and daily window L27). -/
def Scheduler.reset : Scheduler :=
  { runState := .unconfigured, finish := .noReason, resumeState := none, queue := [], nextFrame := 0,
    lastRetired := none, depth := 0, dailyFrom := 0, dailyTo := 0, owed := [], heldCopy := none,
    startRequest := none, startState := none, chainBase := none, latestKept := none, triggers := 0, misses := 0, voids := 0,
    unmetered := 0, skips := 0 }

/-- The Segment Controller after either reset (R51). -/
def SegmentControl.reset : SegmentControl :=
  { current := none, frames := 0, hold := 0, bias := 0, entryTime := none, copyRead := none, decided := none }

/-- The Exposure Computer after either reset (R86). -/
def Exposure.reset : Exposure := { el := 0, held := none }

/-- The sticky flags all clear (R71). -/
def StickyFlags.clear : StickyFlags := ⟨false, false, false, false, false, false, false⟩

/-- The Statistics Intake after either reset (R71, R85). -/
def Intake.reset : Intake := { assembler := .idle, latched := none, flags := .clear }

/-- The Plan Cache after either reset (R33, R50). -/
def PlanCache.reset : PlanCache := { entries := [], loaded := none, fetch := none, walk := none, fault := none }

/-- The Record Engine after either reset (R170). -/
def Engine.reset : Engine :=
  { waiting := [], service := none, updateCount := 0, copies := [none, none, none, none],
    dirty := [false, false, false, false], producer := 0, lost := 0 }

/-- The Pass-Through Path after either reset, with CONTROL at the base of the strap value (R138, R148). -/
def Path.reset (straps : BitVec 3) : Path :=
  { controlBase := straps.toNat * 0x200000 + 0x1FF000, plan := none, stat := none, log := none, underWrite := [],
    held := none, arg1 := 0, arg2 := 0, arg3 := 0, consumer := none, returned := [],
    following := none }

/-- The Memory Port after a power-on reset with nothing outstanding (R159). -/
def Port.reset : Port :=
  { retention := .exiting, access := .noAccess, waitPass := none, waitEngine := none, waitWake := false,
    starvation := 0, exitAfterEntry := false }

/-- The Session Controller after a power-on reset (R107, R124): the timer expires one default session limit after it. -/
def Session.reset : Session :=
  { state := .open, cause := .cold, late := false, sleepKind := .noSleep, forcedRecovery := false,
    timer := some 614400, sleepTime := none, counts := ⟨0, 0, 0, 0, 0, 0, 0, 0⟩, pendingSet := 0, holdoff := none,
    deferredAlert := false, cold := true, phase := .noWake }

/-- The state a power-on reset leaves with the pins given, before the power-on sample is judged (R107, R124, R126, R131,
R137, R149, R159, R170, R172), the RAM, the free-value counter and the command queue empty. -/
def State.poweredOn (pins : PowerPins) : State :=
  { pins := { straps := pins.straps, batterySense := pins.battery, pwrEn := true, wake := false, ctrlReset := false,
              trigger := false, inReset := !pins.ended }
    tb := { time := 0, elapsed := 0, source := .crystal, unset := true, degraded := false,
            crystalRunning := pins.crystal, sinceStop := 0 }
    supply := { state := .normal, lastSample := min pins.battery 8191, recheck := none }
    session := .reset
    sched := .reset
    seg := .reset
    expo := .reset
    stats := .reset
    cache := .reset
    path := .reset pins.straps
    port := .reset
    engine := .reset
    cmd := { lastDecided := none, busy := none, resetCause := .powerOn }
    config := .default
    ram := []
    freeCount := 0
    pending := [] }

/-- The machine right after a power-on reset (R124) with the strap pins at 0, a battery reading of 3,650 mV and the crystal
running (L2, DESIGN CHOICE: the spec leaves the pins' levels to the board). 3,650 mV is not below the default low threshold,
so the power-on sample leaves the supply state NORMAL (R128). -/
def State.reset : State := State.poweredOn { straps := 0, battery := 3650, crystal := true, ended := true }

end Sys2Proof.Machine
end

