-- ==== Sys2Proof/Machine/Exposure.lean ====
section
/-! DEFINITION. Exposure arithmetic (spec 05): brightness levels, metering, error and correction, bounds, the split into
shutter time and gain. All of it is pure; the issue of an order and the retirement of a frame call it. -/

namespace Sys2Proof.Machine

/-- The brightness level of a non-negative integer (R89): 64 steps a doubling, linear within the stop. -/
def brightness (x : Nat) : Nat :=
  let y := max x 1
  let k := Nat.log2 y
  64 * k + (y - 2 ^ k) * 64 / 2 ^ k

/-- An interval of ticks in microseconds, floored (R31, R94). -/
def intervalUs (ticks : Nat) : Nat := ticks * 15625 / 16

/-- BLu: the brightness level of a duration in microseconds (R32, R94). -/
def durationLevel (us : Nat) : Nat := if us < 32 then 0 else brightness (min (us / 32) 1048575)

/-- The usable exposure time of a segment copy: its interval less its readout margin, in microseconds (R94). -/
def Segment.usableUs (c : Segment) : Nat := intervalUs c.interval - 1000 * c.readoutMargin

/-- The shutter ceiling of a segment copy (R94). -/
def Segment.shutterCeiling (c : Segment) : Nat := min c.shutterMax (durationLevel c.usableUs)

/-- The lower exposure bound (R95). -/
def Segment.lo (c : Segment) : Nat := c.elMin

/-- The upper exposure bound (R32, R95). -/
def Segment.hi (c : Segment) : Nat := min c.elMax (c.shutterCeiling + c.gainMax)

/-- A level clamped into a range (spec 00 section 1.7). -/
def clampInt (lo hi x : Int) : Int := if x < lo then lo else if hi < x then hi else x

/-- A level clamped into the bounds of a segment copy (R95, R101 to R103). -/
def Segment.clampLevel (c : Segment) (x : Int) : Nat := (clampInt c.lo c.hi x).toNat

/-- The shutter time of a shutter part (R105). -/
def shutterTime (s : Nat) : Nat := (64 + s % 64) * 2 ^ (s / 64) / 2

/-- The gain code of a gain part (R105). -/
def gainCode (g : Nat) : Nat := (64 + g % 64) * 2 ^ (g / 64) / 4

/-- The shutter part of a level under a segment copy (R104). -/
def Segment.shutterPart (c : Segment) (el : Nat) : Nat := min el c.shutterCeiling

/-- The gain part of a level under a segment copy (R104). -/
def Segment.gainPart (c : Segment) (el : Nat) : Nat := el - c.shutterPart el

/-- The bias accumulator of an issue (R54). -/
def Segment.biasAt (c : Segment) (frames : Nat) : Int := clampInt (-512) 512 (c.biasStart + c.biasRate * frames)

/-! ### Metering (R90, R91) -/

/-- The weight of a zone in a weight set (R180). -/
def Tuning.weight (t : Tuning) (set zone : Nat) : Nat := field (t.weights.getD (8 * set + zone / 8) 0) (4 * (zone % 8)) 4

/-- A zone is present when the presence mark of its zone word is set (R71). -/
def zonePresent (presence : BitVec 32) (zone : Nat) : Bool := presence.getLsbD (zone / 2)

/-- What metering a record gathers over its present zones: the sum of weights, the weighted sum and the clip count. -/
structure MeterSums where
  wsum  : Nat
  total : Nat
  clip  : Nat
  deriving DecidableEq, Repr, Inhabited

/-- The sums over the present zones of a record, zones numbered from `zone` on (R90, R91). -/
def meterFrom (t : Tuning) (set : Nat) (presence : BitVec 32) : Nat → List Nat → MeterSums
  | _, [] => ⟨0, 0, 0⟩
  | zone, z :: zs =>
    let r := meterFrom t set presence (zone + 1) zs
    if zonePresent presence zone then
      let w := t.weight set zone
      ⟨r.wsum + w, r.total + w * z, r.clip + (if t.clipLevel ≤ z then 1 else 0)⟩
    else r

/-- The metering sums of a latched record (R90). -/
def meterRecord (t : Tuning) (set : Nat) (r : Latched) : MeterSums := meterFrom t set r.presence 0 r.values

/-- The exposure error (R97). -/
def exposureError (c : Segment) (bias : Int) (bl : Nat) : Int := (brightness c.target : Int) + bias - bl

/-- The highlight guard (R98). -/
def guardError (c : Segment) (clip : Nat) (e : Int) : Int :=
  if 0 < c.guardZones ∧ c.guardZones ≤ clip then min e (-(c.guardStep : Int)) else e

/-- The correction from the compensated error: deadband, gain truncated toward zero, slew (R100). -/
def correction (c : Segment) (e : Int) : Int :=
  if e.natAbs ≤ c.deadband then 0
  else clampInt (-(c.slew : Int)) c.slew (Int.tdiv (e * c.gainNum) 16)

/-- The correction of a TRACK issue owed by a METERED retirement with these held results (R97 to R100). -/
def trackCorrection (c : Segment) (bias base : Int) (h : Metering) : Int :=
  correction c (guardError c h.clip (exposureError c bias h.bl) - (base - h.el))

/-- The retirement error of a METERED retirement: error and guard, not compensated (R91). -/
def retirementError (c : Segment) (bias : Int) (bl clip : Nat) : Int := guardError c clip (exposureError c bias bl)

/-- How an issue obtains its level: a START, FAULT_HOLD or first resumption issue carries the base (R103); an ordinary issue
applies the segment's mode (R101, R102), with the held results of the METERED retirement that owes it, if one does. -/
inductive LevelKind where
  | carry
  | mode (metering : Option Metering)
  deriving DecidableEq, Repr, Inhabited

/-- The new exposure level and limit indication of an issue from its base B (R101 to R103). -/
def newLevel (c : Segment) (kind : LevelKind) (bias base : Int) : Nat × Limit :=
  match kind with
  | .carry => (c.clampLevel base, .noLimit)
  | .mode m =>
    match c.mode with
    | .hold => (c.clampLevel base, .noLimit)
    | .ramp => (c.clampLevel (base + c.rampRate), .noLimit)
    | .track =>
      match m with
      | none => (c.clampLevel base, .noLimit)
      | some h =>
        let x := base + trackCorrection c bias base h
        (c.clampLevel x, if (c.hi : Int) < x then .high else if x < c.lo then .low else .noLimit)

end Sys2Proof.Machine
end

