-- ==== Sys2Proof/Machine/Flags.lean ====
section
/-! DEFINITION. Flags and per-class values: the event counts and the pending set, the sticky statistics flags, and the flag
fields of the records (R180). -/

namespace Sys2Proof.Machine

/-- The number of an event class (R180). -/
def EventClass.index : EventClass → Nat
  | .battLow => 0
  | .battCrit => 1
  | .planFault => 2
  | .statsError => 3
  | .timeDegraded => 4
  | .logLost => 5
  | .forcedSleep => 6
  | .busAnomaly => 7

/-- The value of one class. -/
def PerClass.get (p : PerClass) : EventClass → Nat
  | .battLow => p.battLow
  | .battCrit => p.battCrit
  | .planFault => p.planFault
  | .statsError => p.statsError
  | .timeDegraded => p.timeDegraded
  | .logLost => p.logLost
  | .forcedSleep => p.forcedSleep
  | .busAnomaly => p.busAnomaly

/-- The value of one class replaced. -/
def PerClass.set (p : PerClass) (c : EventClass) (v : Nat) : PerClass :=
  match c with
  | .battLow => { p with battLow := v }
  | .battCrit => { p with battCrit := v }
  | .planFault => { p with planFault := v }
  | .statsError => { p with statsError := v }
  | .timeDegraded => { p with timeDegraded := v }
  | .logLost => { p with logLost := v }
  | .forcedSleep => { p with forcedSleep := v }
  | .busAnomaly => { p with busAnomaly := v }

/-- All eight values 0. -/
def PerClass.zero : PerClass := ⟨0, 0, 0, 0, 0, 0, 0, 0⟩

/-- A count increased by `n`, saturating at `top` (spec 00 section 1.7). -/
def saturatingAdd (top count n : Nat) : Nat := min top (count + n)

/-- The largest 16-bit count (spec 00 section 1.7). -/
def max16 : Nat := 65535

/-- The largest 32-bit count (spec 00 section 1.7). -/
def max32 : Nat := 4294967295

/-- The mark of a class in a pending set (R180: bit c for class c). -/
def EventClass.mark (c : EventClass) : BitVec 8 := 1#8 <<< c.index

/-- The sticky statistics flags (R83). -/
inductive StickyFlag where
  | overrun | gap | mismatch | parity | late | unknown | restart
  deriving DecidableEq, Repr, Inhabited

/-- A sticky flag set (R83). -/
def StickyFlags.raise (f : StickyFlags) : StickyFlag → StickyFlags
  | .overrun => { f with overrun := true }
  | .gap => { f with gap := true }
  | .mismatch => { f with mismatch := true }
  | .parity => { f with parity := true }
  | .late => { f with late := true }
  | .unknown => { f with unknown := true }
  | .restart => { f with restart := true }

/-- Whether a sticky flag is set. -/
def StickyFlags.get (f : StickyFlags) : StickyFlag → Bool
  | .overrun => f.overrun
  | .gap => f.gap
  | .mismatch => f.mismatch
  | .parity => f.parity
  | .late => f.late
  | .unknown => f.unknown
  | .restart => f.restart

/-- The sticky flags in bits 8 to 14 of status word 2 (R180). -/
def StickyFlags.bits (f : StickyFlags) : Nat :=
  placeBit f.overrun 8 + placeBit f.gap 9 + placeBit f.mismatch 10 + placeBit f.parity 11 + placeBit f.late 12 +
    placeBit f.unknown 13 + placeBit f.restart 14

/-! ### Codes (R181) -/

def RunState.code : RunState → Nat
  | .unconfigured => 0
  | .stopped => 1
  | .running => 2
  | .faultHold => 3
  | .suspended => 4

def FinishReason.code : FinishReason → Nat
  | .noReason => 0
  | .command => 1
  | .finished => 2

def SessionState.code : SessionState → Nat
  | .asleepOff => 0
  | .asleepStandby => 1
  | .waking => 2
  | .open => 3
  | .closing => 4

def WakeCause.code : WakeCause → Nat
  | .cold => 0
  | .scheduled => 1
  | .idle => 2
  | .alert => 3
  | .forcedRecovery => 4

def SleepKind.code : SleepKind → Nat
  | .noSleep => 0
  | .off => 1
  | .standby => 2

def SupplyState.code : SupplyState → Nat
  | .normal => 0
  | .low => 1
  | .critical => 2

def Result.code : Result → Nat
  | .ok => 0
  | .okClamped => 1
  | .busy => 2
  | .state => 3
  | .range => 4
  | .invalid => 5
  | .overlap => 6
  | .noPlan => 7
  | .tooSoon => 8
  | .unknown => 9

def FaultReason.code : FaultReason → Nat
  | .format => 1
  | .range => 2
  | .bounds => 3
  | .rate => 4
  | .link => 5
  | .tooLong => 6

def FrameOutcome.code : FrameOutcome → Nat
  | .metered => 0
  | .unmetered => 1
  | .missed => 2
  | .voided => 3
  | .abandoned => 4

def Cause.code : Cause → Nat
  | .noCause => 0
  | .timeout => 1
  | .parity => 2
  | .superseded => 3
  | .settling => 4
  | .noWeight => 5
  | .notArmed => 1
  | .asleep => 2
  | .suspended => 3

def LongKind.code : LongKind → Nat
  | .configure => 1
  | .loadPlan => 2

def OscSource.code : OscSource → Nat
  | .crystal => 0
  | .rc => 1

def ResetCause.code : ResetCause → Nat
  | .powerOn => 0
  | .soft => 1

def Mode.code : Mode → Nat
  | .hold => 0
  | .ramp => 1
  | .track => 2

def Settle.code : Settle → Nat
  | .keep => 0
  | .void => 1

def ExitKind.code : ExitKind → Nat
  | .frames => 0
  | .clock => 1
  | .above => 2
  | .below => 3
  | .limit => 4
  | .never => 5

/-- The slot number shown for a slot or "no slot" (127, Terms; R182). -/
def slotCode : Option Nat → Nat
  | none => 127
  | some n => n

/-! ### Flag fields of the records (R180) -/

/-- Word 2 of the status record: flags, sticky flags, pending set, last retired absent mark, PLAN_FAULT reason. -/
def statusFlagWord (s : State) : Nat :=
  placeBit s.session.cold 0 + placeBit s.tb.unset 1 + placeBit s.tb.degraded 2 + placeBit s.cache.loaded.isSome 3 +
    placeBit s.cache.fault.isSome 4 + s.stats.flags.bits + place s.session.pendingSet.toNat 16 8 +
    placeBit s.sched.lastRetired.isNone 24 +
    place (match s.cache.fault with
      | none => 0
      | some f => f.2.code) 28 3

/-- The flags of an order slot, bits 16 to 19 of word 2: VOID, FIRST_OF_SEGMENT, STRETCHED, DEFERRED. -/
def OrderContent.flagBits (o : OrderContent) : Nat :=
  placeBit o.void 16 + placeBit o.first 17 + placeBit o.stretched 18 + placeBit o.deferred 19

/-- The flags of a log record, bits 0 to 7 of word 6. SETTLING is set exactly when the cause is SETTLING (R23). -/
def LogContent.flagBits (l : LogContent) : Nat :=
  placeBit (l.entry.limit == .high) 0 + placeBit (l.entry.limit == .low) 1 + placeBit (l.cause == .settling) 2 +
    placeBit l.degraded 3 + placeBit l.entry.stretched 4 + placeBit l.entry.deferred 5 + placeBit l.gap 6 +
    placeBit l.entry.first 7

end Sys2Proof.Machine
end

