-- ==== Sys2Proof/Machine/Operands.lean ====
section
/-! DEFINITION. The record layouts of spec 11 section 11.5: what the part reads from and writes to memory, word by word, with
the validation of a segment record (R30) and of the configuration block (R177, R178). -/

namespace Sys2Proof.Machine

/-! ### Words the part writes -/

/-- A 32-bit word from a sum of placed fields. -/
def wordOf (n : Nat) : Word := BitVec.ofNat 32 n

/-- The parity bits that give every byte of a word good parity (R164, R180). -/
def goodParity (w : Word) : BitVec 4 :=
  BitVec.ofBool (oddParityBit (byteOf w 3)) ++ BitVec.ofBool (oddParityBit (byteOf w 2)) ++
    BitVec.ofBool (oddParityBit (byteOf w 1)) ++ BitVec.ofBool (oddParityBit (byteOf w 0))

/-- A whole word written with good parity (R164). -/
def goodWord (w : Word) : BusWord := { data := w, enables := 15, parity := goodParity w }

/-- A word of a data burst whose byte enables are all clear (R164, R165: word 0). -/
def maskedWord (w : Word) : BusWord := { data := w, enables := 0, parity := goodParity w }

/-- The words of a data burst: word 0 with its byte enables clear, the others whole (R164). -/
def dataBurst : List Word → List BusWord
  | [] => []
  | w :: ws => maskedWord w :: ws.map goodWord

/-- An order slot's eight words (R180). -/
def OrderContent.words (o : OrderContent) : List Word :=
  [o.frame,
   wordOf o.due.seconds,
   wordOf (place o.due.tick 0 10 + o.flagBits + place o.slot 24 7),
   wordOf (place o.el 0 11 + place o.gainCode 16 11),
   wordOf o.shutterUs,
   wordOf (place o.skipped 0 16),
   0, 0]

/-- A log record's eight words (R180, R182). -/
def LogContent.words (l : LogContent) : List Word :=
  [l.entry.frame,
   wordOf l.entry.due.seconds,
   wordOf (place l.entry.due.tick 0 10 + place l.outcome.code 12 3 + place l.cause.code 16 3 + place l.entry.slot 24 7),
   wordOf (place l.entry.el 0 11 + place l.entry.gainCode 16 11),
   wordOf l.entry.shutterUs,
   wordOf (place (l.bl.getD 1023) 0 10 + placeSigned l.error 16 12),
   wordOf (l.flagBits + place l.sample 16 13),
   wordOf (place l.entry.skipped 0 16)]

/-- The frame number of the queue's head, 0 when it is empty (R182). -/
def headFrame : List Entry → Word
  | [] => 0
  | e :: _ => e.frame

/-- The frame number of the queue's tail, 0 when it is empty (R182). -/
def tailFrame (q : List Entry) : Word := headFrame q.reverse

/-- Word 1 of the status record (R180). -/
def statusWord1 (s : State) : Nat :=
  place s.sched.runState.code 0 3 + place s.sched.finish.code 4 2 + place s.session.state.code 8 3 +
    place s.session.cause.code 12 3 + placeBit s.session.late 15 + place s.session.sleepKind.code 16 2 +
    place s.supply.state.code 18 2 + place s.tb.source.code 20 1 + place s.cmd.resetCause.code 21 1

/-- Word 5 of the status record (R180, R182). -/
def statusWord5 (s : State) : Nat :=
  (match s.cmd.lastDecided with
    | none => 0
    | some d => place d.1.toNat 0 8 + place d.2.code 8 4 + placeBit true 25) +
  (match s.cmd.busy with
    | none => 0
    | some b => place b.1.toNat 16 8 + placeBit true 24 + place b.2.code 26 2)

/-- Word 6 of the status record (R180, R182). Its segment slot is the current segment's as R52 sets it at entry: while a START's
first issue is pending it already shows the slot the START names, although R11 and R51 speak of the shown slot at the append.
DESIGN CHOICE (L44). -/
def statusWord6 (s : State) : Nat :=
  place s.expo.el 0 11 + place s.sched.queue.length 12 2 + place (slotCode s.seg.current) 16 7 +
    place (match s.cache.fault with
      | none => 127
      | some f => f.1) 24 7

/-- The 32 words of the status record with the update count given as its commit word (R165, R180, R182). -/
def statusWords (s : State) (count : Word) : List Word :=
  [count,
   wordOf (statusWord1 s),
   wordOf (statusFlagWord s),
   wordOf s.tb.time.seconds,
   wordOf (place s.tb.time.tick 0 10 + place s.supply.lastSample 16 13),
   wordOf (statusWord5 s),
   wordOf (statusWord6 s),
   headFrame s.sched.queue,
   tailFrame s.sched.queue,
   s.sched.lastRetired.getD 4294967295,
   wordOf (place s.engine.producer 0 12),
   wordOf s.engine.lost,
   wordOf (place s.session.counts.battLow 0 16 + place s.session.counts.battCrit 16 16),
   wordOf (place s.session.counts.planFault 0 16 + place s.session.counts.statsError 16 16),
   wordOf (place s.session.counts.timeDegraded 0 16 + place s.session.counts.logLost 16 16),
   wordOf (place s.session.counts.forcedSleep 0 16 + place s.session.counts.busAnomaly 16 16),
   wordOf s.sched.triggers,
   wordOf s.sched.misses,
   wordOf s.sched.voids,
   wordOf s.sched.unmetered,
   wordOf s.sched.skips,
   0, 0, 0, 0, 0, 0, 0, 0, 0, 0, 0]

/-! ### Record places (R138, R144, R168) -/

/-- The status record (R144). -/
def Path.statusRange (p : Path) : RecordRange := { base := p.controlBase + 0x200, size := 128 }

/-- Order slot n (R144). -/
def Path.orderRange (p : Path) (n : Nat) : RecordRange := { base := p.controlBase + 0x280 + 32 * n, size := 32 }

/-- Log slot i of a LOG window (R144, R168). -/
def logRange (w : Window) (i : Nat) : RecordRange := { base := w.base + 32 * i, size := 32 }

/-- The log capacity of a LOG window (R168). -/
def Window.logCapacity (w : Window) : Nat := min ((w.limit - w.base + 1) / 32) 4096

/-- The log capacity in force, if a LOG window is (R142, R168). -/
def Path.capacity (p : Path) : Option Nat := p.log.map Window.logCapacity

/-- The plan slot count of a PLAN window (R27). -/
def Window.planSlots (w : Window) : Nat := min ((w.limit - w.base + 1) / 32) 64

/-- The plan slot count in force (R27); 0 without a PLAN window. -/
def Path.planSlots (p : Path) : Nat :=
  match p.plan with
  | none => 0
  | some w => w.planSlots

/-- An address lies in a window (R137). -/
def Window.holds (w : Window) (a : Nat) : Bool := decide (w.base ≤ a) && decide (a ≤ w.limit)

/-- An address lies in an optional window. -/
def inWindow (w : Option Window) (a : Nat) : Bool :=
  match w with
  | none => false
  | some w => w.holds a

/-- An address lies in a record's range (R144). -/
def RecordRange.holds (r : RecordRange) (a : Nat) : Bool := decide (r.base ≤ a) && decide (a < r.base + r.size)

/-- The order slot of a frame number (R11, R164). -/
def orderSlot (frame : Word) : Nat := frame.toNat % 4

/-! ### Transactions -/

/-- The number of words of a transaction. -/
def txLength (tx : Transaction) : Nat :=
  match tx.transfer with
  | .read n => n
  | .write ws => ws.length

/-- A transaction that reads. -/
def txIsRead (tx : Transaction) : Bool :=
  match tx.transfer with
  | .read _ => true
  | .write _ => false

/-- The addresses of `n` words from an address on, wrapping in the 24-bit address space. -/
def wordAddrs (a : Addr) : Nat → List Nat
  | 0 => []
  | n + 1 => a.toNat :: wordAddrs (a + 4) n

/-- A read touches a record on a list (R145). -/
def txTouches (tx : Transaction) (rs : List RecordRange) : Bool :=
  (wordAddrs tx.addr (txLength tx)).any fun a => rs.any fun r => r.holds a

/-! ### The segment record (R28 to R32, R180) -/

/-- The mode of a code; 3 is unassigned (R181). -/
def modeOfCode : Nat → Option Mode
  | 0 => some .hold
  | 1 => some .ramp
  | 2 => some .track
  | _ => none

/-- The settle kind of a code; 2 and 3 are unassigned (R181). -/
def settleOfCode : Nat → Option Settle
  | 0 => some .keep
  | 1 => some .void
  | _ => none

/-- The exit kind of a code; 6 and 7 are unassigned (R181). -/
def exitOfCode : Nat → Option ExitKind
  | 0 => some .frames
  | 1 => some .clock
  | 2 => some .above
  | 3 => some .below
  | 4 => some .limit
  | 5 => some .never
  | _ => none

/-- The slot a next-slot field names; 127 is "no slot" (R29). -/
def slotOfCode (n : Nat) : Option Nat := if n = 127 then none else some n

/-- The fields of a segment record from its eight words, absent when the format code or a coded field is not assigned
(R30 test 1, R180). -/
def decodeSegment (ws : List Word) : Option Segment :=
  let w := fun i => ws.getD i 0
  if field (w 0) 0 8 = 3 then
    match modeOfCode (field (w 0) 8 2), settleOfCode (field (w 0) 10 2), exitOfCode (field (w 0) 12 3) with
    | some mode, some settle, some exitKind =>
      some
        { mode := mode, settle := settle, exitKind := exitKind,
          exitParam := field (w 1) 0 17, holdCount := field (w 1) 24 8, minDwell := field (w 3) 16 8,
          next := slotOfCode (field (w 0) 16 7), interval := field (w 2) 0 32, stretch := field (w 0) 24 5,
          readoutMargin := field (w 3) 0 16, elMin := field (w 4) 0 11, elMax := field (w 4) 16 11,
          shutterMax := field (w 5) 0 11, gainMax := field (w 5) 16 9, target := field (w 6) 0 12,
          weightSet := field (w 3) 29 2, gainNum := field (w 3) 24 5, deadband := field (w 6) 12 6,
          slew := field (w 6) 18 8, rampRate := signedField (w 7) 0 9, biasStart := signedField (w 7) 10 11,
          biasRate := signedField (w 7) 21 8, guardZones := field (w 1) 17 7, guardStep := field (w 5) 25 7 }
    | _, _, _ => none
  else none

/-- The eight words of a segment record (R180); what firmware writes into a plan slot. -/
def encodeSegment (c : Segment) : List Word :=
  [wordOf (3 + place c.mode.code 8 2 + place c.settle.code 10 2 + place c.exitKind.code 12 3 +
      place (slotCode c.next) 16 7 + place c.stretch 24 5),
   wordOf (place c.exitParam 0 17 + place c.guardZones 17 7 + place c.holdCount 24 8),
   wordOf (place c.interval 0 32),
   wordOf (place c.readoutMargin 0 16 + place c.minDwell 16 8 + place c.gainNum 24 5 + place c.weightSet 29 2),
   wordOf (place c.elMin 0 11 + place c.elMax 16 11),
   wordOf (place c.shutterMax 0 11 + place c.gainMax 16 9 + place c.guardStep 25 7),
   wordOf (place c.target 0 12 + place c.deadband 12 6 + place c.slew 18 8),
   wordOf (placeSigned c.rampRate 0 9 + placeSigned c.biasStart 10 11 + placeSigned c.biasRate 21 8)]

/-- A value lies in a range that includes both ends (spec 00 section 1.7). -/
def within (lo hi x : Nat) : Bool := decide (lo ≤ x) && decide (x ≤ hi)

/-- A signed value lies in a range that includes both ends. -/
def withinInt (lo hi x : Int) : Bool := decide (lo ≤ x) && decide (x ≤ hi)

/-- The exit parameter lies in the range of its exit kind; LIMIT and NEVER do not judge it (R29, R30). -/
def Segment.exitParamInRange (c : Segment) : Bool :=
  match c.exitKind with
  | .frames => within 1 65535 c.exitParam
  | .clock => within 0 86399 c.exitParam
  | .above => within 0 1663 c.exitParam
  | .below => within 0 1663 c.exitParam
  | .limit => true
  | .never => true

/-- The RANGE test passes: every field in its range of R28 or R29, and the readout margin below the interval (R30, R31). -/
def Segment.inRange (c : Segment) : Bool :=
  c.exitParamInRange && within 1 255 c.holdCount && within 1 255 c.minDwell && within 1024 88473600 c.interval &&
    within 1 16 c.stretch && within 0 65535 c.readoutMargin && within 0 1663 c.elMin && within 0 1663 c.elMax &&
    within 0 1279 c.shutterMax && within 0 384 c.gainMax && within 1 4095 c.target && within 0 3 c.weightSet &&
    within 1 16 c.gainNum && within 0 63 c.deadband && within 1 255 c.slew && withinInt (-255) 255 c.rampRate &&
    withinInt (-512) 512 c.biasStart && withinInt (-64) 64 c.biasRate && within 0 64 c.guardZones &&
    within 0 127 c.guardStep && decide (1000 * c.readoutMargin < intervalUs c.interval)

/-- The LINK test passes: the next slot is "no slot" or below the plan slot count (R30). -/
def Segment.linkIn (c : Segment) (slots : Nat) : Bool :=
  match c.next with
  | none => true
  | some n => decide (n < slots)

/-- The check of a fetched record (R30): its first failed test, or the decoded record. -/
def checkSegment (slots : Nat) (ws : List BusWord) : Except FaultReason Segment :=
  if ws.all BusWord.good then
    match decodeSegment (ws.map BusWord.data) with
    | none => .error .format
    | some c =>
      if !c.inRange then .error .range
      else if c.hi < c.elMin then .error .bounds
      else if c.slew < c.rampRate.natAbs then .error .rate
      else if !c.linkIn slots then .error .link
      else .ok c
  else .error .format

/-! ### The configuration block (R176 to R179, R180) -/

/-- What an accepted configuration block puts in force. -/
structure ConfigBlock where
  plan     : Window
  stat     : Window
  log      : Window
  settings : Settings
  tuning   : Tuning
  deriving DecidableEq, Repr, Inhabited

/-- The configuration block as read (R180). -/
def decodeConfig (ws : List Word) : ConfigBlock :=
  let w := fun i => ws.getD i 0
  let window := fun i => ({ base := field (w i) 0 24, limit := field (w (i + 1)) 0 24 } : Window)
  let level := fun c => field (w 12) (4 * c) 3
  { plan := window 0, stat := window 2, log := window 4,
    settings :=
      { wakeLead := field (w 7) 0 16, sessionLimit := field (w 8) 16 16, minSleep := field (w 7) 16 16,
        offGap := field (w 9) 0 16, idleWake := field (w 10) 0 32, alertHoldoff := field (w 11) 0 32,
        wakeThreshold := field (w 13) 0 3,
        wakeLevels := ⟨level 0, level 1, level 2, level 3, level 4, level 5, level 6, level 7⟩,
        low := field (w 14) 0 13, crit := field (w 14) 16 13, hyst := field (w 15) 0 16,
        recheckPeriod := field (w 9) 16 16 },
    tuning :=
      { depth := field (w 6) 0 2, statWait := field (w 8) 0 16, streamSelect := field (w 6) 8 4,
        clipLevel := field (w 6) 16 12, dailyFrom := field (w 16) 0 17, dailyTo := field (w 17) 0 17,
        weights := (ws.drop 32).take 32 } }

/-- A number clamped into a range (R178). -/
def clampNat (lo hi x : Nat) : Nat := max lo (min hi x)

/-- The idle wake period: 0 stays 0, others are clamped into 60..86,400 (R178). -/
def clampIdle (x : Nat) : Nat := if x = 0 then 0 else clampNat 60 86400 x

/-- The timing numbers clamped (R178). -/
def ConfigBlock.clamped (b : ConfigBlock) : ConfigBlock :=
  { b with
    settings :=
      { b.settings with
        wakeLead := clampNat 1 600 b.settings.wakeLead
        sessionLimit := clampNat 10 3600 b.settings.sessionLimit
        minSleep := clampNat 1 60 b.settings.minSleep
        offGap := clampNat 5 3600 b.settings.offGap
        idleWake := clampIdle b.settings.idleWake
        alertHoldoff := clampNat 60 86400 b.settings.alertHoldoff
        recheckPeriod := clampNat 60 3600 b.settings.recheckPeriod
        hyst := clampNat 0 500 b.settings.hyst }
    tuning :=
      { b.tuning with
        statWait := clampNat 100 60000 b.tuning.statWait
        clipLevel := clampNat 1 4095 b.tuning.clipLevel
        dailyFrom := clampNat 0 86399 b.tuning.dailyFrom
        dailyTo := clampNat 0 86399 b.tuning.dailyTo } }

/-- A window has its base at a multiple of 256, its limit one below one, and is not empty (R177 test 2). -/
def Window.aligned (w : Window) : Bool :=
  decide (w.base % 256 = 0) && decide (w.limit % 256 = 255) && decide (w.base ≤ w.limit)

/-- Two windows share an address (R177 test 3). -/
def Window.overlaps (v w : Window) : Bool := decide (v.base ≤ w.limit) && decide (w.base ≤ v.limit)

/-- The CONTROL window (R138). -/
def controlWindow (base : Nat) : Window := { base := base, limit := base + 4095 }

/-- The tests of R177 in their order: the refusal of the first that fails, if one does. -/
def ConfigBlock.refusal (b : ConfigBlock) (controlBase : Nat) : Option Result :=
  let c := controlWindow controlBase
  if !(b.plan.aligned && b.stat.aligned && b.log.aligned) then some .invalid
  else if b.plan.overlaps b.stat || b.plan.overlaps b.log || b.stat.overlaps b.log || b.plan.overlaps c ||
      b.stat.overlaps c || b.log.overlaps c then some .overlap
  else if !(b.tuning.depth == 1 || b.tuning.depth == 2) then some .invalid
  else if b.settings.low ≤ b.settings.crit then some .invalid
  else none

/-- The judgement of the 64 words read: a refusal, or the block to put in force with OK or OK_CLAMPED (R177, R178). -/
def judgeConfig (controlBase : Nat) (ws : List BusWord) : Except Result (ConfigBlock × Result) :=
  if ws.all BusWord.good then
    let b := decodeConfig (ws.map BusWord.data)
    match b.refusal controlBase with
    | some r => .error r
    | none => .ok (b.clamped, if b.clamped = b then .ok else .okClamped)
  else .error .invalid

end Sys2Proof.Machine
end

