-- ==== Sys2Proof/Machine/Memory.lean ====
section
/-! DEFINITION. The camera's RAM as the memory-side port sees it (R150; L1): bytes with their parity bits, in one canonical
list. -/

namespace Sys2Proof.Machine

/-- What an unlisted address reads as: byte 0 with good parity (L1, DESIGN CHOICE). -/
def ramDefault : RamByte := 0x100

/-- The canonical form: addresses strictly rising from a bound on, and no entry equal to what an unlisted address reads as. -/
def ramWfFrom : Nat → List (Nat × RamByte) → Bool
  | _, [] => true
  | lo, (a, b) :: r => decide (lo ≤ a) && decide (b ≠ ramDefault) && ramWfFrom (a + 1) r

/-- The canonical form of the whole RAM. -/
def ramWf (m : List (Nat × RamByte)) : Bool := ramWfFrom 0 m

/-- The byte at an address. -/
def readRam : List (Nat × RamByte) → Nat → RamByte
  | [], _ => ramDefault
  | (x, b) :: r, a => if a = x then b else readRam r a

/-- The RAM with one byte written, in canonical form. -/
def writeRam : List (Nat × RamByte) → Nat → RamByte → List (Nat × RamByte)
  | [], a, b => if b = ramDefault then [] else [(a, b)]
  | (x, c) :: r, a, b =>
    if a < x then (if b = ramDefault then (x, c) :: r else (a, b) :: (x, c) :: r)
    else if a = x then (if b = ramDefault then r else (a, b) :: r)
    else (x, c) :: writeRam r a b

/-- Byte `i` of a bus word as the RAM stores it: its parity bit above its eight bits (R136: stored as written). -/
def storedByte (w : BusWord) (i : Nat) : RamByte := BitVec.ofBool (w.parity.getLsbD i) ++ byteOf w.data i

/-- One byte of a word written if its byte enable is set (spec 00 section 1.7). -/
def writeLane (m : List (Nat × RamByte)) (a : Nat) (w : BusWord) (i : Nat) : List (Nat × RamByte) :=
  if w.enables.getLsbD i then writeRam m (a + i) (storedByte w i) else m

/-- A bus word written at a byte address. -/
def writeWord (m : List (Nat × RamByte)) (a : Nat) (w : BusWord) : List (Nat × RamByte) :=
  writeLane (writeLane (writeLane (writeLane m a w 0) a w 1) a w 2) a w 3

/-- Words written at the addresses given, in order. -/
def writeWords : List (Nat × RamByte) → List Nat → List BusWord → List (Nat × RamByte)
  | m, a :: as, w :: ws => writeWords (writeWord m a w) as ws
  | m, _, _ => m

/-- The word read at a byte address, with its parity bits (R136, R150). -/
def readWord (m : List (Nat × RamByte)) (a : Nat) : BusWord :=
  let b := fun i => readRam m (a + i)
  { data := (b 3).setWidth 8 ++ (b 2).setWidth 8 ++ (b 1).setWidth 8 ++ (b 0).setWidth 8,
    enables := 15,
    parity := BitVec.ofBool ((b 3).getLsbD 8) ++ BitVec.ofBool ((b 2).getLsbD 8) ++
      BitVec.ofBool ((b 1).getLsbD 8) ++ BitVec.ofBool ((b 0).getLsbD 8) }

/-- The words read at the addresses given. -/
def readWords (m : List (Nat × RamByte)) (as : List Nat) : List BusWord := as.map (readWord m)

/-- The addresses of an engine access's words (R150). -/
def EngineAccess.addrs (a : EngineAccess) : List Nat := wordAddrs (BitVec.ofNat 24 a.addr) a.length

end Sys2Proof.Machine
end

