-- ==== Sys2Proof/Machine/Timing.lean ====
section
/-! DEFINITION. Time arithmetic: due times, skips, the daily window, clock marks, deadlines and expiries (R15 to R18, R22, R58,
R110, R131). -/

namespace Sys2Proof.Machine

/-- The time value of a count of ticks, a free value when the count is beyond 4,294,967,295 seconds (L8). -/
def timeOf (ticks : Nat) : Time := if ticks < 2 ^ 42 then BitVec.ofNat 42 ticks else Config.timeBeyondRange ticks

/-- A time value moved forward by a number of ticks (R15, R22). -/
def addTicks (t : Time) (n : Nat) : Time := timeOf (t.toNat + n)

/-- `a` is equal to or earlier than `b`, as time values (R19). -/
def notLater (a b : Time) : Bool := decide (a.toNat ≤ b.toNat)

/-- The number of advances by one interval that bring a candidate past the present time (R17). -/
def skipCount (candidate : Time) (interval : Nat) (now : Time) : Nat :=
  if notLater candidate now then (now.toNat - candidate.toNat) / interval + 1 else 0

/-- A candidate due time advanced past the present time (R17). -/
def advancePast (candidate : Time) (interval : Nat) (now : Time) : Time :=
  if notLater candidate now then addTicks candidate (skipCount candidate interval now * interval) else candidate

/-- The second of day of a time value (spec 00, Terms). -/
def secondOfDay (t : Time) : Nat := t.seconds % 86400

/-- The ticks of the first time value later than `t` whose second of day is `sod` and whose tick is 0 (R18, R58), for a `t`
that is not itself within that second before its end. -/
def nextSecondOfDay (sod : Nat) (t : Time) : Nat :=
  let d := secondOfDay t
  (if d < sod then t.seconds + (sod - d) else t.seconds + 86400 - (d - sod)) * 1024

/-- A second of day lies in the daily window (R18). -/
def inDailyWindow (dailyFrom dailyTo sod : Nat) : Bool :=
  if dailyFrom = dailyTo then true
  else if dailyFrom < dailyTo then decide (dailyFrom ≤ sod) && decide (sod < dailyTo)
  else decide (dailyFrom ≤ sod) || decide (sod < dailyTo)

/-- The due time after the daily window, and whether it was deferred (R18). -/
def deferDaily (dailyFrom dailyTo : Nat) (t : Time) : Time × Bool :=
  if inDailyWindow dailyFrom dailyTo (secondOfDay t) then (t, false) else (timeOf (nextSecondOfDay dailyFrom t), true)

/-- The ticks that cover the exposure and the statistics wait, rounded up (R22). -/
def deadlineTicks (shutterUs statWaitMs : Nat) : Nat := ((shutterUs + 1000 * statWaitMs) * 16 + 15624) / 15625

/-- The expiry of a timer started now for a number of seconds (R109, R131: reckoned modulo 2^48). -/
def expiryAfter (now : Elapsed) (seconds : Nat) : Elapsed := now + BitVec.ofNat 48 (seconds * 1024)

/-- The elapsed count has reached or passed an expiry, reckoned modulo 2^48 (R131; L21). -/
def expired (now expiry : Elapsed) : Bool := decide ((now - expiry).toNat < 2 ^ 47)

/-- A timer that runs has reached its expiry. -/
def timerDue (now : Elapsed) (timer : Option Elapsed) : Bool :=
  match timer with
  | none => false
  | some e => expired now e

end Sys2Proof.Machine
end

