-- ==== Sys2Proof/Machine/Ops.lean ====
section
/-! DEFINITION. Shared operations: requests to the Record Engine, events and wakes, the controller lines, the command
interpreter's decisions, the run state, the supply sample, retirement. -/

namespace Sys2Proof.Machine

/-! ### Power-on reset -/

/-- An operation that the part does not make while it is held in power-on reset: the path hands nothing to any owner then, and no
block acts (R147; L7). Windows other than CONTROL are absent then, so that words of theirs find no owner of themselves (R137,
R148). -/
def outsideReset (f : State → State) (s : State) : State := if s.pins.inReset then s else f s

/-! ### Requests that enter the engine's queue (R161, R162) -/

/-- A request is a STATUS_WRITE. -/
def Request.isStatus : Request → Bool
  | .status => true
  | _ => false

/-- A request is a LOG_WRITE. -/
def Request.isLog : Request → Bool
  | .log _ => true
  | _ => false

/-- The order content of an ORDER_WRITE. -/
def Request.orderContent? : Request → Option OrderContent
  | .order c => some c
  | _ => none

/-- The request in service, unless its service has been ended: an ended service has given up its place (R162; L23). -/
def Engine.inService (e : Engine) : Option Request :=
  match e.service with
  | none => none
  | some sv => if sv.ended then none else some sv.request

/-- The requests in the queue, the one in service first (R161: both conditions hold a place). -/
def Engine.queued (e : Engine) : List Request := e.inService.toList ++ e.waiting

/-- A STATUS_WRITE requested: it enters, merges, or sets the rewrite mark (R162). -/
def requestStatus (s : State) : State :=
  s.modEngine fun e =>
    match e.service with
    | some sv =>
      if sv.request.isStatus then { e with service := some { sv with rewrite := true } }
      else if e.waiting.any Request.isStatus then e else { e with waiting := e.waiting ++ [.status] }
    | none => if e.waiting.any Request.isStatus then e else { e with waiting := e.waiting ++ [.status] }

/-- A held read is released when it touches no record under write, and a waiting read that touches one is held again
(R145). -/
def judgeHolds (s : State) : State :=
  match s.path.held with
  | some tx =>
    if txTouches tx s.path.underWrite then s
    else (s.modPath fun p => { p with held := none }).modPort fun q => { q with waitPass := some tx }
  | none =>
    match s.port.waitPass with
    | none => s
    | some tx =>
      if txIsRead tx && txTouches tx s.path.underWrite then
        (s.modPath fun p => { p with held := some tx }).modPort fun q => { q with waitPass := none }
      else s

/-- A record leaves the list of records under write, and holds are judged again (R144, R145). -/
def leaveList (r : Option RecordRange) (s : State) : State :=
  match r with
  | none => s
  | some r => judgeHolds (s.modPath fun p => { p with underWrite := p.underWrite.filter (· ≠ r) })

/-- The record of the access a service is at. -/
def Service.recordRange (sv : Service) : Option RecordRange :=
  match sv.todo with
  | [] => none
  | a :: _ => a.record

/-- An engine access is in progress (R149). -/
def Port.engineBusy (p : Port) : Bool :=
  match p.access with
  | .engine _ => true
  | _ => false

/-- The service of an ORDER_WRITE is ended (R162): after its access in progress, or at once with its waiting engine request
withdrawn and the starvation count 0 (R155, R157). -/
def endOrderService (s : State) : State :=
  match s.engine.service with
  | none => s
  | some sv =>
    if s.port.engineBusy then s.modEngine fun e => { e with service := some { sv with ended := true } }
    else
      leaveList sv.recordRange
        ((s.modEngine fun e => { e with service := none }).modPort fun q =>
          { q with waitEngine := none, starvation := 0 })

/-- The order named is an ISSUED entry of the order queue (R162). -/
def orderIssued (q : List Entry) (c : OrderContent) : Bool := q.any fun e => e.frame == c.frame && !e.triggered

/-- The order issued earlier of two, reckoned back from the next frame number with its wrap (R4, R162). -/
def earlierOrder (next : Word) (a b : OrderContent) : OrderContent :=
  if (next - a.frame).toNat < (next - b.frame).toNat then b else a

/-- The order issued earliest of a list. -/
def earliestOrder (next : Word) : List OrderContent → Option OrderContent
  | [] => none
  | c :: cs => some (cs.foldl (earlierOrder next) c)

/-- The ORDER_WRITE that gives up its place: the one for the order issued earlier among those whose order is not an ISSUED
entry of the order queue (R162); in states no run reaches where none qualifies, the earliest of all (L34). Of two for the same order, a write and
its VOID rewrite, the one nearer the front gives up its place, the one in service first (L41). -/
def orderToEvict (s : State) : Option OrderContent :=
  let all := s.engine.queued.filterMap Request.orderContent?
  match earliestOrder s.sched.nextFrame (all.filter fun c => !orderIssued s.sched.queue c) with
  | some c => some c
  | none => earliestOrder s.sched.nextFrame all

/-- One ORDER_WRITE gives up its place (R162). -/
def evictOrder (s : State) : State :=
  match orderToEvict s with
  | none => s
  | some c =>
    if s.engine.inService = some (.order c) then endOrderService s
    else s.modEngine fun e => { e with waiting := e.waiting.erase (.order c) }

/-- The first waiting ORDER_WRITE of the same order slot has its content replaced (R162). -/
def replaceOrder (o : OrderContent) : List Request → List Request
  | [] => []
  | .order c :: rs => if orderSlot c.frame = orderSlot o.frame then .order o :: rs else .order c :: replaceOrder o rs
  | r :: rs => r :: replaceOrder o rs

/-- A waiting ORDER_WRITE is for the same order slot. -/
def sameSlotWaiting (o : OrderContent) (rs : List Request) : Bool :=
  rs.any fun r =>
    match r.orderContent? with
    | none => false
    | some c => orderSlot c.frame == orderSlot o.frame

/-- An ORDER_WRITE requested: it replaces, enters, or makes another give up its place (R162). -/
def requestOrder (o : OrderContent) (s : State) : State :=
  if sameSlotWaiting o s.engine.waiting then s.modEngine fun e => { e with waiting := replaceOrder o e.waiting }
  else
    let t := if (s.engine.queued.filterMap Request.orderContent?).length < 2 then s else evictOrder s
    t.modEngine fun e => { e with waiting := e.waiting ++ [.order o] }

/-! ### Lines, wakes and events (R108, R111, R112, R119, R120) -/

/-- The session is asleep (R107). -/
def Session.asleep (x : Session) : Bool :=
  match x.state with
  | .asleepOff => true
  | .asleepStandby => true
  | _ => false

/-- The controller lines driven (R108). -/
def driveLines (pwrEn ctrlReset wake : Bool) (s : State) : State :=
  s.modPins fun p => { p with pwrEn := pwrEn, ctrlReset := ctrlReset, wake := wake }

/-- Step 2 of a wake begins: a cold wake asserts PWR_EN with the controller held in reset, a standby wake pulses WAKE (R112). -/
def wakeControllerLines (s : State) : State :=
  if s.session.sleepKind = .off ∨ s.session.forcedRecovery = true then
    (driveLines true true false s).modSession fun x => { x with phase := .resetHold }
  else (s.modPins fun p => { p with wake := true }).modSession fun x => { x with phase := .wakePulse }

/-- Step 1 of a wake: the port is asked to leave retention; with the port ACTIVE the step ends at once (R112, R155). -/
def askPortForWake (s : State) : State :=
  if s.port.retention = .active then wakeControllerLines s
  else (s.modPort fun q => { q with waitWake := true }).modSession fun x => { x with phase := .memory }

/-- A wake begins with the cause and late mark of the condition taken; a set forced-recovery mark makes the cause
FORCED_RECOVERY (R111, R118). The status record shows the session state, the cause and the late mark, so that a STATUS_WRITE is
requested (R161; L26). -/
def beginWake (cause : WakeCause) (late : Bool) (s : State) : State :=
  requestStatus (askPortForWake (s.modSession fun x =>
    { x with state := .waking, cause := if x.forcedRecovery then .forcedRecovery else cause, late := late }))

/-- An alert wake begins and starts the alert holdoff timer (R112, R121). -/
def beginAlertWake (s : State) : State :=
  beginWake .alert false (s.modSession fun x =>
    { x with holdoff := some (expiryAfter s.tb.elapsed s.config.settings.alertHoldoff) })

/-- An alert whose level has been judged begins a wake when the session is asleep, the supply is not CRITICAL and the holdoff
timer is stopped (R120). -/
def judgeAlert (s : State) : State :=
  if s.session.asleep ∧ s.supply.state ≠ .critical ∧ s.session.holdoff = none then beginAlertWake s else s

/-- The wake level of a class exceeds the wake threshold (R120). -/
def Settings.alerts (c : Settings) (k : EventClass) : Bool := decide (c.wakeThreshold < c.wakeLevels.get k)

/-- A class raised after a status record's content was taken is not among the marks that record shows: its mark is kept when
the session opens (R113). -/
def keepMark (k : EventClass) (s : State) : State :=
  s.modEngine fun e => { e with service := e.service.map fun sv => { sv with shown := sv.shown &&& ~~~k.mark } }

/-- An event counted and its class put into the pending set (R119). -/
def countEvent (k : EventClass) (s : State) : State :=
  s.modSession fun x =>
    { x with counts := x.counts.set k (saturatingAdd max16 (x.counts.get k) 1), pendingSet := x.pendingSet ||| k.mark }

/-- An event raised: counted, marked pending, a STATUS_WRITE requested, and judged for an alert by the session state (R119). -/
def raiseEvent (k : EventClass) (s : State) : State :=
  let t := requestStatus (keepMark k (countEvent k s))
  if t.config.settings.alerts k then
    if t.session.asleep then judgeAlert t
    else if t.session.state = .closing then t.modSession fun x => { x with deferredAlert := true }
    else t
  else t

/-- A log record is lost: counted, LOG_LOST raised, a STATUS_WRITE requested (R169). -/
def loseLog (s : State) : State :=
  requestStatus (raiseEvent .logLost (s.modEngine fun e => { e with lost := saturatingAdd max32 e.lost 1 }))

/-- A LOG_WRITE requested: it enters, or is dropped when 3 are in the queue (R162, R169). -/
def requestLog (l : LogContent) (s : State) : State :=
  if (s.engine.queued.filter Request.isLog).length < 3 then
    s.modEngine fun e => { e with waiting := e.waiting ++ [.log l] }
  else loseLog s

/-! ### The session timer and command decisions (R116, R171, R173) -/

/-- The session timer restarted, in OPEN alone (R116). -/
def restartTimer (s : State) : State :=
  if s.session.state = .open then
    s.modSession fun x => { x with timer := some (expiryAfter s.tb.elapsed s.config.settings.sessionLimit) }
  else s

/-- A result that accepts. -/
def Result.accepts : Result → Bool
  | .ok => true
  | .okClamped => true
  | _ => false

/-- A command's decision recorded: last decided command, STATUS_WRITE, and the session timer restarted by an acceptance
(R116, R171). -/
def decideCommand (seq : BitVec 8) (r : Result) (s : State) : State :=
  let t := requestStatus (s.modCmd fun c => { c with lastDecided := some (seq, r) })
  if r.accepts then restartTimer t else t

/-- A long command accepted: it becomes the busy command, with a STATUS_WRITE and the session timer restarted (R116, R173). -/
def acceptLong (seq : BitVec 8) (k : LongKind) (s : State) : State :=
  restartTimer (requestStatus (s.modCmd fun c => { c with busy := some (seq, k) }))

/-- The long command running is decided (R173). -/
def decideLong (r : Result) (s : State) : State :=
  match s.cmd.busy with
  | none => s
  | some b => decideCommand b.1 r (s.modCmd fun c => { c with busy := none })

/-- The first test common to all commands but RESET_PART: BUSY while a long command runs (R171). -/
def unlessBusy (seq : BitVec 8) (judge : State → State) (s : State) : State :=
  if s.cmd.busy.isSome then decideCommand seq .busy s else judge s

/-! ### The cache as others read it (R34, R42, R44) -/

/-- The cache entry of a slot. -/
def PlanCache.entry? (c : PlanCache) (slot : Nat) : Option CacheEntry := c.entries.find? fun e => e.slot == slot

/-- The cache holds a FAULT entry (R48). -/
def PlanCache.hasFault (c : PlanCache) : Bool := c.entries.any fun e => e.state == .fault

/-- The slot's entry is FAULT. -/
def PlanCache.faultAt (c : PlanCache) (slot : Option Nat) : Bool :=
  match slot with
  | none => false
  | some n =>
    match c.entry? n with
    | none => false
    | some e => e.state == .fault

/-- The next slot that the slot's decoded record names. -/
def PlanCache.nextOf (c : PlanCache) (slot : Option Nat) : Option Nat :=
  match slot with
  | none => none
  | some n =>
    match c.entry? n with
    | none => none
    | some e =>
      match e.record with
      | none => none
      | some r => r.next

/-- A watched entry is FAULT: the current segment's, or its next slot's (R42, R44). -/
def watchedFault (s : State) : Bool :=
  s.cache.faultAt s.seg.current || s.cache.faultAt (s.cache.nextOf s.seg.current)

/-! ### The run state (R1, R7, R130) -/

/-- The run issues orders: RUNNING or FAULT_HOLD (R12, R19). -/
def RunState.capturing : RunState → Bool
  | .running => true
  | .faultHold => true
  | _ => false

/-- The run state changed, with the STATUS_WRITE every change requests (R1). -/
def setRunState (r : RunState) (s : State) : State :=
  if s.sched.runState = r then s else requestStatus (s.modSched fun q => { q with runState := r })

/-- The run state and finish reason set, with a STATUS_WRITE (R1). -/
def setRun (r : RunState) (f : FinishReason) (s : State) : State :=
  requestStatus (s.modSched fun q => { q with runState := r, finish := f })

/-- Owed and pending issues dropped, the decided transition with them, which ends the retirement processing and frees the
latched record (R5, R6, R7, R12, R63, R68, R82). -/
def dropIssues (s : State) : State :=
  ((s.modSched fun q => { q with owed := [], heldCopy := none, startRequest := none }).modSeg fun g =>
    { g with decided := none }).modStats fun x => { x with latched := none }

/-- The run is suspended with the run state to resume recorded (R7). -/
def suspendNow (resume : RunState) (s : State) : State :=
  setRunState .suspended (dropIssues (s.modSched fun q => { q with resumeState := some resume }))

/-- An issue owed by START. -/
def Origin.isStart : Origin → Bool
  | .start _ => true
  | _ => false

/-- The run state after START: the one a put-off suspension records (R130), the present one where no START has chosen (L34). -/
def Scheduler.startedAs (q : Scheduler) : RunState := q.startState.getD q.runState

/-- A capturing run that owes no START issue is suspended, to resume in the run state given (R7, R130). -/
def suspendCapturing (resume : RunState) (s : State) : State :=
  if s.sched.runState.capturing ∧ ¬ s.sched.owed.any Origin.isStart then suspendNow resume s else s

/-- The supply enters CRITICAL: a capturing run is suspended with its present run state recorded, unless START issues remain
(R7, R130). -/
def suspendRun (s : State) : State := suspendCapturing s.sched.runState s

/-- The issues a resumption owes (R7, R12). -/
def resumptionIssues : Nat → List Origin
  | 0 => []
  | n + 1 => .resumption true :: List.replicate n (.resumption false)

/-- The supply leaves CRITICAL: a suspended run returns to its recorded state judged against the cache and owes issues up to
D (R7, R130). -/
def resumeRun (s : State) : State :=
  if s.sched.runState = .suspended then
    let r : RunState :=
      if s.sched.resumeState = some .faultHold then (if s.cache.hasFault then .faultHold else .running)
      else if watchedFault s then .faultHold else .running
    setRunState r (s.modSched fun q =>
      { q with resumeState := none, owed := resumptionIssues (q.depth - q.queue.length) })
  else s

/-! ### The supply sample (R127 to R130) -/

/-- The row of R128 for a state and a sample: the new state and the event raised. -/
def judgeSample (c : Settings) (st : SupplyState) (mv : Nat) : SupplyState × Option EventClass :=
  match st with
  | .normal => if mv < c.crit then (.critical, some .battCrit) else if mv < c.low then (.low, some .battLow) else (.normal, none)
  | .low => if mv < c.crit then (.critical, some .battCrit) else if c.low + c.hyst ≤ mv then (.normal, none) else (.low, none)
  | .critical => if c.crit + c.hyst ≤ mv then (.low, some .battLow) else (.critical, none)

/-- An event that may be none. -/
def raiseOptional (k : Option EventClass) (s : State) : State :=
  match k with
  | none => s
  | some k => raiseEvent k s

/-- A change of the supply state: recheck timer, STATUS_WRITE, event, and the run's suspension or resumption (R128, R129,
R130; the order L19). -/
def changeSupply (st : SupplyState) (k : Option EventClass) (s : State) : State :=
  let was := s.supply.state
  let t := s.modSupply fun y =>
    { y with
      state := st
      recheck := if st = .critical then some (expiryAfter s.tb.elapsed s.config.settings.recheckPeriod) else none }
  let t := raiseOptional k (requestStatus t)
  if st = .critical then suspendRun t else if was = .critical then resumeRun t else t

/-- A supply sample of the battery sense reading given, limited to 8191 mV, and its judgement (R127, R128). -/
def sampleSupply (reading : Nat) (s : State) : State :=
  let mv := min reading 8191
  let t := (s.modPins fun p => { p with batterySense := reading }).modSupply fun y => { y with lastSample := mv }
  let j := judgeSample t.config.settings t.supply.state mv
  if j.1 = t.supply.state then t else changeSupply j.1 j.2 t

/-! ### Retirement (R23, R59) -/

/-- The hold counter after a retirement, by the exit kind in use (R59). -/
def holdAfter (copy : Option Segment) (hold el : Nat) (limit : Limit) (o : FrameOutcome) : Nat :=
  match copy with
  | none => hold
  | some c =>
    if o = .metered then
      match c.exitKind with
      | .above => if c.exitParam ≤ el then saturatingAdd 255 hold 1 else 0
      | .below => if el ≤ c.exitParam then saturatingAdd 255 hold 1 else 0
      | .limit => if limit = .noLimit then 0 else saturatingAdd 255 hold 1
      | .frames => hold
      | .clock => hold
      | .never => hold
    else hold

/-- The latest issued order not voided among those retired, after one more (R15, R65). -/
def laterKept (k : Option (Time × Nat)) (e : Entry) : Option (Time × Nat) :=
  match k with
  | none => some (e.due, e.el)
  | some x => if x.1.toNat < e.due.toNat then some (e.due, e.el) else some x

/-- The run counters after a retirement with an outcome (R25). -/
def Scheduler.countOutcome (q : Scheduler) : FrameOutcome → Scheduler
  | .metered => q
  | .unmetered => { q with unmetered := saturatingAdd max32 q.unmetered 1 }
  | .missed => { q with misses := saturatingAdd max32 q.misses 1 }
  | .voided => { q with voids := saturatingAdd max32 q.voids 1 }
  | .abandoned => q

/-- The log record of a retirement (R23 step 3). -/
def logContent (s : State) (e : Entry) (o : FrameOutcome) (c : Cause) (m : Option (Nat × Int)) (gap : Bool) : LogContent :=
  { entry := e, outcome := o, cause := c, bl := m.map Prod.fst, error := (m.map Prod.snd).getD 0, gap := gap,
    degraded := s.tb.degraded, sample := s.supply.lastSample }

/-- Steps 1 and 2 of a retirement: the entry leaves the queue, the last retired frame number and the counters are set. -/
def Scheduler.retireEntry (q : Scheduler) (e : Entry) (o : FrameOutcome) : Scheduler :=
  let r := q.countOutcome o
  { r with
    queue := r.queue.erase e
    lastRetired := some e.frame
    latestKept := if o = .voided then r.latestKept else laterKept r.latestKept e }

/-- Step 4 of a retirement: the hold counter, and one owed issue in a capturing run (R12, R23, R59). -/
def handOver (e : Entry) (o : FrameOutcome) (s : State) : State :=
  let t := s.modSeg fun g => { g with hold := holdAfter g.copyRead g.hold e.el e.limit o }
  if t.sched.runState.capturing then
    t.modSched fun q => { q with owed := q.owed ++ [.retirement e.frame (o == .metered)] }
  else t

/-- A retirement: last retired, counters, log, hand-over, status, in this order (R23). `m` holds BL(L) and the error of a
METERED retirement. -/
def retire (e : Entry) (o : FrameOutcome) (c : Cause) (m : Option (Nat × Int)) (gap : Bool) (s : State) : State :=
  let t := s.modSched fun q => q.retireEntry e o
  requestStatus (handOver e o (requestLog (logContent t e o c m gap) t))

/-- The cause of an UNMETERED retirement: SETTLING for a discounted entry (R23, R66). -/
def settledCause (e : Entry) (c : Cause) : Cause := if e.discounted then .settling else c

end Sys2Proof.Machine
end

