-- ==== Sys2Proof/Machine/Engine.lean ====
section
/-! DEFINITION. The Record Engine's choice of service and the accesses of each kind of request (R163 to R169). -/

namespace Sys2Proof.Machine

/-- A data burst and a commit access: how an order slot or a log record is written (R164). -/
def recordAccesses (r : RecordRange) (ws : List Word) : List EngineAccess :=
  [{ write := true, addr := r.base, words := dataBurst ws, length := 8, record := some r, commit := false, group := none },
   { write := true, addr := r.base, words := [goodWord (ws.headD 0)], length := 1, record := some r, commit := true,
     group := none }]

/-- A read of 8 words (R167). -/
def readAccess (addr : Nat) : EngineAccess :=
  { write := false, addr := addr, words := [], length := 8, record := none, commit := false, group := none }

/-- Group `i` of a status record's words (R165). -/
def statusGroup (ws : List Word) (i : Nat) : List Word := (ws.drop (8 * i)).take 8

/-- Group `i` is to be written: its copy is absent, its dirty mark is set, or its content differs from the copy, word 0
excepted (R165). -/
def Engine.groupNeeded (e : Engine) (ws : List Word) (i : Nat) : Bool :=
  e.dirty.getD i false ||
    match e.copies.getD i none with
    | none => true
    | some c => if i = 0 then c.tail ≠ (statusGroup ws 0).tail else c ≠ statusGroup ws i

/-- The write of group `i` of the status record (R165: word 0's byte enables are clear). -/
def statusGroupAccess (r : RecordRange) (ws : List Word) (i : Nat) : EngineAccess :=
  { write := true, addr := r.base + 32 * i,
    words := if i = 0 then dataBurst (statusGroup ws 0) else (statusGroup ws i).map goodWord,
    length := 8, record := some r, commit := false, group := some i }

/-- The accesses of a STATUS_WRITE: the groups to be written in increasing order, then the commit access (R165). -/
def statusAccesses (e : Engine) (r : RecordRange) (ws : List Word) : List EngineAccess :=
  (([0, 1, 2, 3].filter fun i => e.groupNeeded ws i).map (statusGroupAccess r ws)) ++
    [{ write := true, addr := r.base, words := [goodWord (ws.headD 0)], length := 1, record := some r, commit := true,
       group := none }]

/-- The eight reads of a CONFIG_READ (R167). -/
def configReads (controlBase : Nat) : List EngineAccess :=
  [0, 1, 2, 3, 4, 5, 6, 7].map fun i => readAccess (controlBase + 0x100 + 32 * i)

/-- The first waiting request of the most preferred kind (R163). -/
def chooseRequest (ws : List Request) : Option Request :=
  match ws.find? fun r => r.orderContent?.isSome with
  | some r => some r
  | none =>
    match ws.find? Request.isStatus with
    | some r => some r
    | none =>
      match ws.find? Request.isLog with
      | some r => some r
      | none =>
        match ws.find? fun r => decide (r ≠ .configRead) with
        | some r => some r
        | none => ws.head?

/-- The first access of the service in hand is asked of the Memory Port (R163). -/
def askForAccess (s : State) : State :=
  match s.engine.service with
  | none => s
  | some sv => s.modPort fun q => { q with waitEngine := sv.todo.head? }

/-- A request enters service with its accesses. -/
def serve (r : Request) (todo : List EngineAccess) (opens : Bool) (shown : BitVec 8) (s : State) : State :=
  askForAccess (s.modEngine fun e =>
    { e with
      service := some { request := r, todo := todo, rewrite := false, ended := false, got := [], opens := opens,
                        shown := shown } })

/-- The service of a STATUS_WRITE begins: the update count increases and the content is taken (R165, R113). -/
def serveStatus (s : State) : State :=
  let t := s.modEngine fun e => { e with updateCount := e.updateCount + 1 }
  serve .status (statusAccesses t.engine t.path.statusRange (statusWords t t.engine.updateCount))
    (decide (t.session.state = .waking) && decide (t.session.phase = .status)) t.session.pendingSet t

/-- The ring is full (R168): (producer + 1) mod capacity equals the consumer index, 0 while not written. -/
def ringFull (producer capacity : Nat) (consumer : Option Nat) : Bool :=
  decide ((producer + 1) % capacity = consumer.getD 0)

/-- The service of a LOG_WRITE begins: dropped when no LOG window is in force or the ring is full, else written into log
slot producer (R169). -/
def serveLog (l : LogContent) (s : State) : State :=
  match s.path.log with
  | none => loseLog s
  | some w =>
    if ringFull s.engine.producer w.logCapacity s.path.consumer then loseLog s
    else serve (.log l) (recordAccesses (logRange w s.engine.producer) l.words) false 0 s

/-- The service of a request chosen begins (R163 to R169). -/
def beginRequest (r : Request) (s : State) : State :=
  match r with
  | .order c => serve (.order c) (recordAccesses (s.path.orderRange (orderSlot c.frame)) c.words) false 0 s
  | .status => serveStatus s
  | .log l => serveLog l s
  | .planFetch slot addr => serve (.planFetch slot addr) [readAccess addr] false 0 s
  | .configRead => serve .configRead (configReads s.path.controlBase) false 0 s

/-- With no request in service, the waiting request chosen leaves the waiting list and its service begins (R163). -/
def beginOnce (s : State) : State :=
  if s.engine.service.isSome then s
  else
    match chooseRequest s.engine.waiting with
    | none => s
    | some r => beginRequest r (s.modEngine fun e => { e with waiting := e.waiting.erase r })

/-- The engine begins a service when it can (R163). A log record dropped at its service leaves a STATUS_WRITE waiting, which
is then chosen: two choices suffice. -/
def beginService (s : State) : State := beginOnce (beginOnce s)

/-- A retirement after which the engine may begin a service (R23, R163; L10). -/
def retireNow (e : Entry) (o : FrameOutcome) (c : Cause) (m : Option (Nat × Int)) (gap : Bool) (s : State) : State :=
  beginService (retire e o c m gap s)

end Sys2Proof.Machine
end

