-- ==== Sys2Proof/Machine/Plan.lean ====
section
/-! DEFINITION. The Plan Cache: entries, fetches, the load walk, refetches and replacement (spec 02). -/

namespace Sys2Proof.Machine

/-- One entry changed. -/
def PlanCache.update (c : PlanCache) (slot : Nat) (f : CacheEntry → CacheEntry) : PlanCache :=
  { c with entries := c.entries.map fun e => if e.slot = slot then f e else e }

/-- A slot's entry moved to the most-recent end (R33, R52). -/
def PlanCache.touch (c : PlanCache) (slot : Nat) : PlanCache :=
  { c with entries := (c.entries.filter fun e => e.slot ≠ slot) ++ c.entries.filter fun e => e.slot = slot }

/-- The slot of the fetch in flight for an entry of the cache (R39: not one whose entry has left). -/
def PlanCache.fetching (c : PlanCache) : Option Nat :=
  match c.fetch with
  | none => none
  | some f => if f.orphan then none else some f.slot

/-- The cache emptied: the fetch in flight loses its entry (R35, R37, R39, R49). -/
def PlanCache.emptied (c : PlanCache) : PlanCache :=
  { c with entries := [], fetch := c.fetch.map fun f => { f with orphan := true } }

/-- A new entry at the most-recent end, its fetch not yet requested: held as STALE with no record (R36, R39, R45; L14). -/
def newEntry (slot : Nat) : CacheEntry :=
  { slot := slot, state := .stale, record := none, writtenDuringFetch := false, reason := none, awaiting := false }

/-- An entry when its fetch is requested: STALE or new becomes FETCHING, FAULT stays FAULT; the mark is cleared (R39). -/
def CacheEntry.fetchRequested (e : CacheEntry) : CacheEntry :=
  { e with state := if e.state = .fault then .fault else .fetching, writtenDuringFetch := false }

/-- The PLAN window's base, 0 without one. -/
def Path.planBase (p : Path) : Nat :=
  match p.plan with
  | none => 0
  | some w => w.base

/-- A fetch of a slot requested from the Record Engine (R39, R161). -/
def requestFetch (slot : Nat) (s : State) : State :=
  (s.modCache fun c => { c.update slot CacheEntry.fetchRequested with fetch := some { slot := slot, orphan := false } }).modEngine
    fun e => { e with waiting := e.waiting ++ [.planFetch slot (s.path.planBase + 32 * slot)] }

/-- A slot's entry is STALE. -/
def PlanCache.staleAt (c : PlanCache) (slot : Option Nat) : Bool :=
  match slot with
  | none => false
  | some n =>
    match c.entry? n with
    | none => false
    | some e => e.state == .stale

/-- A slot's entry is a FAULT entry awaiting refetch (R47). -/
def PlanCache.awaitingAt (c : PlanCache) (slot : Option Nat) : Bool :=
  match slot with
  | none => false
  | some n =>
    match c.entry? n with
    | none => false
    | some e => e.state == .fault && e.awaiting

/-- A slot's entry wants a fetch: STALE in a capturing run, or a FAULT entry awaiting refetch (R42, R47). -/
def wantsFetch (s : State) (slot : Option Nat) : Bool :=
  (s.sched.runState.capturing && s.cache.staleAt slot) || s.cache.awaitingAt slot

/-- The next fetch wanted outside the load walk, in the order of preference of R39 (L15): the current segment's entry, then
its next slot's entry or the entry of a decided transition, then FAULT entries awaiting refetch, most recent first. Where a
refetch has changed the current segment's next slot while a decided transition waits on another slot, both entries stand in
that second place and R39 gives them no order: the next slot's entry goes first here. DESIGN CHOICE (L45). -/
def wantedFetch (s : State) : Option Nat :=
  if wantsFetch s s.seg.current then s.seg.current
  else if wantsFetch s (s.cache.nextOf s.seg.current) then s.cache.nextOf s.seg.current
  else if wantsFetch s s.seg.decided then s.seg.decided
  else (s.cache.entries.reverse.find? fun e => e.state == .fault && e.awaiting).map CacheEntry.slot

/-- A load walk fetches a slot that has no entry: the entry is created and fetched (R36). -/
def walkCreate (slot : Nat) (s : State) : State :=
  requestFetch slot (s.modCache fun c => { c with entries := c.entries ++ [newEntry slot] })

/-- With no fetch in flight, the walk of an accepted LOAD_PLAN begins, or the fetch most wanted is requested (R35, R39, R42). -/
def cacheSettle (s : State) : State :=
  if s.cache.fetch.isSome then s
  else
    match s.cache.walk with
    | some w =>
      if w.started then s
      else walkCreate w.entrySlot (s.modCache fun c => { c with walk := some { w with started := true } })
    | none =>
      match wantedFetch s with
      | none => s
      | some slot => requestFetch slot s

/-! ### Replacement (R45, R46) -/

/-- An entry that replacement does not remove (R46). -/
def keepsEntry (s : State) (e : CacheEntry) : Bool :=
  s.seg.current == some e.slot || s.cache.loaded == some e.slot || s.cache.fetching == some e.slot

/-- A full cache gives up its least recent entry that may be removed (R46). -/
def makeRoom (s : State) : State :=
  if s.cache.entries.length < 32 then s
  else
    match s.cache.entries.find? fun e => !keepsEntry s e with
    | none => s
    | some e => s.modCache fun c => { c with entries := c.entries.filter fun x => x.slot ≠ e.slot }

/-- An entry created for a slot a transition needs (R45); its fetch is then wanted in the second place of R39. -/
def lazyCreate (slot : Nat) (s : State) : State :=
  (makeRoom s).modCache fun c => { c with entries := c.entries ++ [newEntry slot] }

/-! ### Writes snooped (R40) -/

/-- An entry whose slot is written (R40). `inFlight` says that a fetch of it is in flight. -/
def CacheEntry.written (inFlight : Bool) (e : CacheEntry) : CacheEntry :=
  match e.state with
  | .valid => { e with state := .stale }
  | .fetching => { e with writtenDuringFetch := true }
  | .stale => e
  | .invalid => e
  | .fault => if inFlight then { e with writtenDuringFetch := true } else e

/-- The plan slot that holds an address of the PLAN window: none beyond slot 63 (R27). -/
def planSlotOf (p : Path) (a : Nat) : Option Nat :=
  match p.plan with
  | none => none
  | some w => if w.holds a ∧ (a - w.base) / 32 < 64 then some ((a - w.base) / 32) else none

/-- A PLAN word written, at least one byte enabled (R40). -/
def planWritten (a : Nat) (s : State) : State :=
  match planSlotOf s.path a with
  | none => s
  | some slot =>
    s.modCache fun c => c.update slot (CacheEntry.written (decide (c.fetching = some slot)))

/-! ### Completion of a fetch (R36, R37, R41, R43, R47) -/

/-- The PLAN_FAULT fields set (R37, R43). -/
def setPlanFault (slot : Nat) (r : FaultReason) (s : State) : State := s.modCache fun c => { c with fault := some (slot, r) }

/-- A load walk that fails (R37): PLAN_FAULT fields set, cache emptied, plan not loaded, LOAD_PLAN INVALID. -/
def walkFail (slot : Nat) (r : FaultReason) (s : State) : State :=
  requestStatus (decideLong .invalid (setPlanFault slot r (s.modCache fun c =>
    { c.emptied with walk := none, loaded := none })))

/-- A load walk that succeeds (R37). -/
def walkSucceed (entrySlot : Nat) (s : State) : State :=
  requestStatus (decideLong .ok (s.modCache fun c => { c with walk := none, loaded := some entrySlot }))

/-- The link of a VALID entry that leads to a slot without an entry (R36). -/
def PlanCache.openLink (c : PlanCache) (e : CacheEntry) : Option Nat :=
  if e.state = .valid then
    match e.record with
    | none => none
    | some r =>
      match r.next with
      | none => none
      | some n => if (c.entry? n).isSome then none else some n
  else none

/-- The open link of a slot's entry. -/
def PlanCache.openLinkAt (c : PlanCache) (slot : Nat) : Option Nat :=
  match c.entry? slot with
  | none => none
  | some e => c.openLink e

/-- The walk creates an entry, or fails TOO_LONG when it would be the 33rd (R36, R37). -/
def walkExtend (slot : Nat) (s : State) : State :=
  if s.cache.entries.length < 32 then walkCreate slot s else walkFail slot .tooLong s

/-- The walk chooses its next fetch after the fetch of a slot, or succeeds (R36). -/
def walkNext (entrySlot slot : Nat) (s : State) : State :=
  match s.cache.openLinkAt slot with
  | some n => walkExtend n s
  | none =>
    match s.cache.entries.find? fun e => e.state == .stale with
    | some e => requestFetch e.slot s
    | none =>
      match s.cache.entries.findSome? s.cache.openLink with
      | some n => walkExtend n s
      | none => walkSucceed entrySlot s

/-- A walk fetch completes (R36). -/
def walkFetched (entrySlot slot : Nat) (e : CacheEntry) (ws : List BusWord) (s : State) : State :=
  if e.writtenDuringFetch then
    walkNext entrySlot slot (s.modCache fun c =>
      c.update slot fun x => { x with state := .stale, writtenDuringFetch := false })
  else
    match checkSegment s.path.planSlots ws with
    | .error r => walkFail slot r (s.modCache fun c => c.update slot fun x => { x with state := .invalid, reason := some r })
    | .ok g =>
      walkNext entrySlot slot (s.modCache fun c =>
        c.update slot fun x => { x with state := .valid, record := some g, reason := none })

/-- A fetch outside the walk completes with its mark set: the copy is discarded (R41). -/
def fetchDiscarded (slot : Nat) (s : State) : State :=
  s.modCache fun c => c.update slot fun x =>
    { x with state := if x.state = .fault then .fault else .stale, writtenDuringFetch := false }

/-- A fetched copy passes: it replaces the record (R43, R47). -/
def fetchPassed (slot : Nat) (g : Segment) (s : State) : State :=
  s.modCache fun c => c.update slot fun x =>
    { x with state := .valid, record := some g, reason := none, awaiting := false }

/-- A fetched copy fails: FAULT with the record kept, PLAN_FAULT fields, event and status (R43, R47). -/
def fetchFailed (slot : Nat) (r : FaultReason) (s : State) : State :=
  requestStatus (raiseEvent .planFault (setPlanFault slot r (s.modCache fun c =>
    c.update slot fun x => { x with state := .fault, reason := some r, awaiting := false })))

/-- The run state judged against the cache: a watched FAULT entry puts RUNNING in FAULT_HOLD, and FAULT_HOLD returns to RUNNING
when the cache holds no FAULT entry (R44, R48). -/
def judgeRun (s : State) : State :=
  if s.sched.runState = .running then (if watchedFault s then setRunState .faultHold s else s)
  else if s.sched.runState = .faultHold then (if s.cache.hasFault then s else setRunState .running s)
  else s

/-- The words of a completed fetch taken for the entry that requested it (R39, R41, R43). -/
def fetchDone (ws : List BusWord) (s : State) : State :=
  match s.cache.fetch with
  | none => s
  | some f =>
    let t := s.modCache fun c => { c with fetch := none }
    if f.orphan then t
    else
      match t.cache.entry? f.slot with
      | none => t
      | some e =>
        match t.cache.walk with
        | some w => walkFetched w.entrySlot f.slot e ws t
        | none =>
          if e.writtenDuringFetch then fetchDiscarded f.slot t
          else
            match checkSegment t.path.planSlots ws with
            | .error r => judgeRun (fetchFailed f.slot r t)
            | .ok g => judgeRun (fetchPassed f.slot g t)

end Sys2Proof.Machine
end

