-- ==== Sys2Proof/Machine/Port.lean ====
section
/-! DEFINITION. The Memory Port: leaving retention, the grant, entering retention (R151 to R158). -/

namespace Sys2Proof.Machine

/-- A request of any kind waits at the port (R152). -/
def Port.anyWaiting (q : Port) : Bool := q.waitPass.isSome || q.waitEngine.isSome || q.waitWake

/-- A RETAINED port with a request waiting begins the exit (R153). -/
def beginExit (s : State) : State :=
  if s.port.retention = .retained ∧ s.port.anyWaiting = true then
    s.modPort fun q => { q with retention := .exiting }
  else s

/-- A pass-through grant (R156). -/
def grantPass (tx : Transaction) (starvation : Nat) (s : State) : State :=
  s.modPort fun q => { q with access := .pass tx, waitPass := none, starvation := starvation }

/-- An engine grant: the count is 0, and the record joins the list of records under write, once (R144, R156 to R158). -/
def grantEngine (a : EngineAccess) (s : State) : State :=
  let t := s.modPort fun q => { q with access := .engine a, waitEngine := none, starvation := 0 }
  match a.record with
  | none => t
  | some r =>
    if r ∈ t.path.underWrite then t
    else judgeHolds (t.modPath fun p => { p with underWrite := p.underWrite ++ [r] })

/-- The grant an ACTIVE, free port makes among the waiting requests, by the starvation count (R156, R157). -/
def grant (s : State) : State :=
  if s.port.retention = .active ∧ s.port.access = .noAccess then
    match s.port.waitPass, s.port.waitEngine with
    | some tx, some a => if s.port.starvation < 4 then grantPass tx (s.port.starvation + 1) s else grantEngine a s
    | some tx, none => grantPass tx s.port.starvation s
    | none, some a => grantEngine a s
    | none, none => s
  else s

/-- The session is one in which memory may be put into retention (R151). -/
def Session.mayRetain (x : Session) : Bool :=
  match x.state with
  | .closing => true
  | .asleepOff => true
  | .asleepStandby => true
  | _ => false

/-- The conditions of retention entry hold (R151). -/
def mayEnter (s : State) : Bool :=
  decide (s.port.retention = .active) && s.session.mayRetain && s.engine.waiting.isEmpty && s.engine.service.isNone &&
    s.path.held.isNone && s.port.waitPass.isNone && decide (s.port.access = .noAccess)

/-- Retention entry begins when its conditions hold (R151). -/
def beginEntry (s : State) : State := if mayEnter s then s.modPort fun q => { q with retention := .entering } else s

/-- What the port does once a step's events have been taken (R151, R153, R156; L17). -/
def portSettle (s : State) : State := beginEntry (grant (beginExit s))

end Sys2Proof.Machine
end

