-- ==== Sys2Proof/Machine/Issue.lean ====
section
/-! DEFINITION. Issues, exits and transitions: the Frame Scheduler and the Segment Controller at work (spec 01, 03, 05), and
what every step does when its own effect is done. -/

namespace Sys2Proof.Machine

/-! ### Due times (R15 to R18) -/

/-- The effective interval under a copy: stretched while the supply state is LOW (R15). -/
def effectiveInterval (s : State) (c : Segment) : Nat :=
  if s.supply.state = .low then c.interval * c.stretch else c.interval

/-- The chain base, the present time where there is none (a state no run reaches in an ordinary issue, L34). -/
def chainBaseOrNow (s : State) : Time := s.sched.chainBase.getD s.tb.time

/-- The candidate due time under a copy (R15). -/
def candidateDue (s : State) (c : Segment) : Time := addTicks (chainBaseOrNow s) (effectiveInterval s c)

/-- The provisional due time of step 1 (R13, R17). -/
def provisionalDue (s : State) (c : Segment) : Time := advancePast (candidateDue s c) (effectiveInterval s c) s.tb.time

/-- What step 4 computes: the due time, the skip count and the STRETCHED and DEFERRED flags. -/
structure DueTime where
  due       : Time
  skips     : Nat
  stretched : Bool
  deferred  : Bool
  deriving DecidableEq, Repr, Inhabited

/-- The due time of every issue but the first of a run (R15, R17, R18). -/
def ordinaryDue (s : State) (c : Segment) : DueTime :=
  let iv := effectiveInterval s c
  let cand := candidateDue s c
  let d := deferDaily s.sched.dailyFrom s.sched.dailyTo (advancePast cand iv s.tb.time)
  { due := d.1, skips := skipCount cand iv s.tb.time, stretched := decide (s.supply.state = .low), deferred := d.2 }

/-- The candidate raised to one second ahead of the present time (R16). -/
def raiseToSecond (cand now : Time) : Time := if cand.toNat < now.toNat + 1024 then addTicks now 1024 else cand

/-- The due time of the first order of a run (R16, R18). -/
def firstDue (s : State) (c : Segment) : DueTime :=
  let cand := s.sched.startRequest.getD (addTicks s.tb.time (effectiveInterval s c))
  let d := deferDaily s.sched.dailyFrom s.sched.dailyTo (raiseToSecond cand s.tb.time)
  { due := d.1, skips := 0,
    stretched := s.sched.startRequest.isNone && decide (s.supply.state = .low), deferred := d.2 }

/-! ### Steps 3 to 6 of an issue (R13, R93, R106) -/

/-- The kinds of issue (R55): START (the first of a run or not), FAULT_HOLD, first at resumption, and ordinary with the
METERED retirement that owes it and whether it has just taken a transition. -/
inductive IssueKind where
  | start (first : Bool)
  | faultHold
  | resumption
  | ordinary (metered : Option Word) (entered : Bool)
  deriving DecidableEq, Repr, Inhabited

/-- How the issue obtains its level (R55, R92, R103). -/
def IssueKind.levelKind (k : IssueKind) (held : Option Metering) : LevelKind :=
  match k with
  | .ordinary (some f) _ =>
    match held with
    | none => .mode none
    | some h => if h.frame = f then .mode (some h) else .mode none
  | .ordinary none _ => .mode none
  | .start _ => .carry
  | .faultHold => .carry
  | .resumption => .carry

/-- The base EL of an issue: the current EL, clamped into the bounds of a segment just entered by a transition (R96). -/
def baseLevel (k : IssueKind) (c : Segment) (el : Nat) : Nat :=
  match k with
  | .ordinary _ true => c.clampLevel el
  | .ordinary _ false => el
  | .start _ => el
  | .faultHold => el
  | .resumption => el

/-- The FIRST_OF_SEGMENT flag (R3, R13). -/
def IssueKind.first : IssueKind → Bool
  | .start b => b
  | .faultHold => false
  | .resumption => false
  | .ordinary _ b => b

/-- The due time of an issue (R3, R7, R13). -/
def issueDue (k : IssueKind) (s : State) (c : Segment) : DueTime :=
  match k with
  | .start true => firstDue s c
  | .start false => ordinaryDue s c
  | .faultHold => ordinaryDue s c
  | .resumption => ordinaryDue s c
  | .ordinary _ _ => ordinaryDue s c

/-- The entry an issue appends (R9, R13 step 5). -/
def newOrder (k : IssueKind) (c : Segment) (s : State) : Entry :=
  let lv := newLevel c (k.levelKind s.expo.held) s.seg.bias (baseLevel k c s.expo.el)
  let d := issueDue k s c
  { frame := s.sched.nextFrame, due := d.due, el := lv.1, s := c.shutterPart lv.1, g := c.gainPart lv.1,
    shutterUs := shutterTime (c.shutterPart lv.1), gainCode := gainCode (c.gainPart lv.1),
    slot := s.seg.current.getD 0, first := k.first, stretched := d.stretched, deferred := d.deferred,
    skipped := min d.skips max16, armed := false, triggered := false, deadline := none, discounted := false,
    limit := lv.2 }

/-- The order an ORDER_WRITE carries (R11, R65). -/
def orderContent (e : Entry) (void : Bool) : OrderContent :=
  { frame := e.frame, due := e.due, el := e.el, shutterUs := e.shutterUs, gainCode := e.gainCode, slot := e.slot,
    first := e.first, stretched := e.stretched, deferred := e.deferred, skipped := e.skipped, void := void }

/-- Step 5: the entry appended, the frame number taken, the chain base, skips, current EL and tenure counters set, and the
owed issue at the head of the list removed (R4, R11, R12, R13, R17, R53). -/
def appendOrder (e : Entry) (skips : Nat) (s : State) : State :=
  ((s.modSched fun q =>
      { q with
        queue := q.queue ++ [e]
        nextFrame := q.nextFrame + 1
        chainBase := some e.due
        skips := saturatingAdd max32 q.skips skips
        owed := q.owed.tail
        heldCopy := none
        startRequest := none }).modExpo fun x => { x with el := e.el }).modSeg fun g =>
    { g with frames := saturatingAdd max16 g.frames 1, entryTime := some (g.entryTime.getD e.due) }

/-- A suspension put off while START issues remained is taken when the last of them has appended its entry, to resume in the run
state that START chose (R7, R130). -/
def deferredSuspend (k : IssueKind) (s : State) : State :=
  match k with
  | .start _ => if s.supply.state = .critical then suspendCapturing s.sched.startedAs s else s
  | .faultHold => s
  | .resumption => s
  | .ordinary _ _ => s

/-- Steps 3 to 6 of an issue under a copy: bias, exposure, due time, append, requests (R13, R54, R93). The engine may begin a
service when the issue is complete (L10). -/
def completeIssue (k : IssueKind) (c : Segment) (s : State) : State :=
  let t := s.modSeg fun g => { g with bias := c.biasAt g.frames }
  let e := newOrder k c t
  deferredSuspend k
    (beginService (requestStatus (requestOrder (orderContent e false) (appendOrder e (issueDue k t c).skips t))))

/-! ### Exits and transitions (R56 to R66) -/

/-- The clock mark in ticks: the first time value later than the entry time with that second of day and tick 0 (R58).
A mark past the largest time value is a number that no provisional due time reaches: the spec is silent there (L39). -/
def clockMark (entry : Time) (sod : Nat) : Nat := nextSecondOfDay sod entry

/-- The exit condition of a copy is met for a provisional due time (R57, R58, R59). -/
def exitMet (g : SegmentControl) (c : Segment) (provisional : Time) : Bool :=
  match c.exitKind with
  | .frames => decide (c.exitParam ≤ g.frames)
  | .clock =>
    match g.entryTime with
    | none => false
    | some t => decide (clockMark t c.exitParam ≤ provisional.toNat)
  | .above => decide (c.holdCount ≤ g.hold)
  | .below => decide (c.holdCount ≤ g.hold)
  | .limit => decide (c.holdCount ≤ g.hold)
  | .never => false

/-- The exit is met and the minimum dwell reached: the transition is decided (R56, R61). -/
def exitDecided (g : SegmentControl) (c : Segment) (provisional : Time) : Bool :=
  exitMet g c provisional && decide (c.minDwell ≤ g.frames)

/-- Entries retired ABANDONED, head first (R5, R6). The list is the queue as it stood. -/
def abandonAll : List Entry → State → State
  | [], s => s
  | e :: es, s => abandonAll es (retireNow e .abandoned .noCause none false s)

/-- The end of the plan (R6, R68). -/
def endOfPlan (s : State) : State := setRun .stopped .finished (dropIssues (abandonAll s.sched.queue s))

/-- An entry voided: retired VOIDED and its order slot rewritten with the VOID flag (R65). -/
def voidEntry (e : Entry) (s : State) : State :=
  beginService (requestOrder (orderContent e true) (retire e .voided .noCause none false s))

/-- ISSUED entries voided, head first (R65). The list is the queue as it stood. -/
def voidIssued : List Entry → State → State
  | [], s => s
  | e :: es, s => voidIssued es (if e.triggered then s else voidEntry e s)

/-- The due time and EL of the latest issued order not voided: of the queue's last entry, or of a later one already
retired (R15, R65). -/
def latestStanding (s : State) : Option (Time × Nat) :=
  s.sched.queue.foldl laterKept s.sched.latestKept

/-- The chain base and the current EL return to the latest issued order not voided, with a STATUS_WRITE (R15, R65, R87). -/
def returnToStanding (s : State) : State :=
  match latestStanding s with
  | none => s
  | some x => requestStatus ((s.modSched fun q => { q with chainBase := some x.1 }).modExpo fun y => { y with el := x.2 })

/-- TRIGGERED entries discounted (R66). -/
def discountTriggered (s : State) : State :=
  s.modSched fun q => { q with queue := q.queue.map fun e => if e.triggered then { e with discounted := true } else e }

/-- The settle kind of the segment being left applied to the queue (R64, R65, R66). -/
def settleQueue (k : Settle) (s : State) : State :=
  match k with
  | .keep => s
  | .void =>
    if s.sched.queue.any fun e => !e.triggered then discountTriggered (returnToStanding (voidIssued s.sched.queue s))
    else discountTriggered s

/-- A segment entered (R52). `copy` is absent at START. -/
def enterSegment (slot : Nat) (copy : Option Segment) (s : State) : State :=
  (s.modSeg fun g =>
    { g with current := some slot, frames := 0, hold := 0, entryTime := none, copyRead := copy, decided := none }).modCache
      fun c => c.touch slot

/-- A decided transition taken into a slot whose entry is VALID with this record, and the issue continued at step 3 under it
(R62, R67). Where the entered segment's own next entry is FAULT, the issue is completed as an ordinary one and FAULT_HOLD is judged
after it: R44 does not say which comes first (L38). -/
def takeTransition (metered : Option Word) (left : Segment) (slot : Nat) (copy : Segment) (s : State) : State :=
  completeIssue (.ordinary metered true) copy (enterSegment slot (some copy) (settleQueue left.settle s))

/-- A transition not taken: the run enters FAULT_HOLD and the issue continues as a FAULT_HOLD issue under the copy it has read
(R14, R44, R62; L20). -/
def continueFaultHold (copy : Segment) (s : State) : State :=
  completeIssue .faultHold copy
    (setRunState .faultHold (s.modSeg fun g => { g with decided := none }))

/-- The record of an entry that an issue may read: VALID or FAULT with a record (R34). -/
def readableCopy (c : PlanCache) (slot : Option Nat) : Option Segment :=
  match slot with
  | none => none
  | some n =>
    match c.entry? n with
    | none => none
    | some e => if e.state = .valid ∨ e.state = .fault then e.record else none

/-- What an attempt at an issue leaves: the state, and whether the issue was made. -/
structure Attempt where
  state : State
  made  : Bool

/-- A decided transition judged against its next slot's entry (R62): taken, refused into FAULT_HOLD, or waited for with the
copy kept. -/
def judgeTransition (metered : Option Word) (left : Segment) (slot : Nat) (s : State) : Attempt :=
  let wait := (s.modSched fun q => { q with heldCopy := some left }).modSeg fun g => { g with decided := some slot }
  match s.cache.entry? slot with
  | none => { state := lazyCreate slot wait, made := false }
  | some e =>
    match e.state, e.record with
    | .valid, some copy => { state := takeTransition metered left slot copy s, made := true }
    | .valid, none => { state := wait, made := false }
    | .fault, _ => { state := continueFaultHold left s, made := true }
    | .stale, _ => { state := wait, made := false }
    | .fetching, _ => { state := wait, made := false }
    | .invalid, _ => { state := wait, made := false }

/-- The frame number of the METERED retirement that owes an issue (R92). -/
def Origin.meteredFrame : Origin → Option Word
  | .retirement f true => some f
  | .retirement _ false => none
  | .start _ => none
  | .resumption _ => none

/-- Step 1 and 2 of an ordinary issue under the copy read, then the rest (R13, R56, R61, R62). -/
def ordinaryIssue (metered : Option Word) (copy : Segment) (s : State) : Attempt :=
  if exitDecided s.seg copy (provisionalDue s copy) then
    match copy.next with
    | none => { state := endOfPlan s, made := true }
    | some slot => judgeTransition metered copy slot s
  else { state := completeIssue (.ordinary metered false) copy s, made := true }

/-- An issue that has read its copy goes on by its kind (R3, R7, R8, R13, R55). A START issue that waited and finds the run in FAULT_HOLD
stays a START issue, with the due time and the FIRST_OF_SEGMENT flag of R3 and R16, where R14 has it continue as a FAULT_HOLD issue.
DESIGN CHOICE (L46). -/
def issueUnder (o : Origin) (copy : Segment) (s : State) : Attempt :=
  match o with
  | .start first => { state := completeIssue (.start first) copy s, made := true }
  | .resumption true =>
    { state := completeIssue (if s.sched.runState = .faultHold then .faultHold else .resumption) copy s, made := true }
  | .resumption false =>
    if s.sched.runState = .faultHold then { state := completeIssue .faultHold copy s, made := true }
    else ordinaryIssue none copy s
  | .retirement f m =>
    if s.sched.runState = .faultHold then { state := completeIssue .faultHold copy s, made := true }
    else ordinaryIssue (Origin.meteredFrame (.retirement f m)) copy s

/-- One attempt at the owed issue at the head of the list: it goes on from where it waits, or begins (R12, R14, R34, R63). -/
def attemptIssue (o : Origin) (s : State) : Attempt :=
  match s.sched.heldCopy, s.seg.decided with
  | some left, some slot =>
    if s.sched.runState = .faultHold then { state := continueFaultHold left s, made := true }
    else judgeTransition o.meteredFrame left slot s
  | _, _ =>
    match readableCopy s.cache s.seg.current with
    | none => { state := s, made := false }
    | some copy => issueUnder o copy (s.modSeg fun g => { g with copyRead := some copy })

/-- Owed issues made one at a time while they can be, at most `fuel` of them (R12; L13). -/
def makeIssues : Nat → State → State
  | 0, s => s
  | fuel + 1, s =>
    let t := judgeRun s
    if t.sched.runState.capturing then
      match t.sched.owed with
      | [] => t
      | o :: _ =>
        let a := attemptIssue o t
        if a.made then makeIssues fuel a.state else a.state
    else t

/-- More issues than a chain that ends can make. A VOID transition that voids an entry leaves as many issues owed as before it, and what
the next issue decides then depends on the segment entered alone, so a chain that enters no segment twice has ended after as many; one
that does has no end, and what it has not made the steps that follow go on with (L13). -/
def issueFuel (s : State) : Nat := s.sched.owed.length + s.cache.entries.length + 3

/-- The owed issues that can be made are made (R12). -/
def issueOwed (s : State) : State := makeIssues (issueFuel s) s

/-! ### What every step does when its own effect is done -/

/-- The latched record is freed when no issue is owed: the retirement processing is finished (R12, R82). -/
def freeBuffer (s : State) : State :=
  if s.sched.owed.isEmpty then s.modStats fun x => { x with latched := none } else s

/-- The first ISSUED entry in queue order (R110). -/
def firstIssued (q : List Entry) : Option Entry := q.find? fun e => !e.triggered

/-- The due time that the scheduled wake precedes by the wake lead, if a scheduled wake time exists (R110). -/
def scheduledDue (s : State) : Option Time :=
  if s.sched.runState.capturing then (firstIssued s.sched.queue).map Entry.due else none

/-- The ticks of the wake lead (R109). -/
def wakeLeadTicks (s : State) : Nat := s.config.settings.wakeLead * 1024

/-- The present time has reached the scheduled wake time (R111). -/
def scheduledReached (s : State) : Bool :=
  match scheduledDue s with
  | none => false
  | some d => decide (d.toNat ≤ s.tb.time.toNat + wakeLeadTicks s)

/-- The present time is past the scheduled wake time: a wake begun now is late (R111). -/
def scheduledLate (s : State) : Bool :=
  match scheduledDue s with
  | none => false
  | some d => decide (d.toNat < s.tb.time.toNat + wakeLeadTicks s)

/-- The run is not capturing and not suspended: idle wakes are possible (R110). -/
def RunState.resting : RunState → Bool
  | .unconfigured => true
  | .stopped => true
  | _ => false

/-- The present elapsed time has reached the idle wake time (R110, R111). -/
def idleReached (s : State) : Bool :=
  match s.session.sleepTime with
  | none => false
  | some t =>
    s.sched.runState.resting && decide (s.config.settings.idleWake ≠ 0) &&
      expired s.tb.elapsed (expiryAfter t s.config.settings.idleWake)

/-- The scheduled condition, holding while asleep and not CRITICAL, begins a wake (R111). -/
def judgeScheduled (s : State) : State :=
  if s.session.asleep = true ∧ s.supply.state ≠ .critical ∧ scheduledReached s = true then
    beginWake .scheduled (scheduledLate s) s
  else s

/-- The idle condition, holding while asleep and not CRITICAL, begins a wake (R111). -/
def judgeIdle (s : State) : State :=
  if s.session.asleep = true ∧ s.supply.state ≠ .critical ∧ idleReached s = true then beginWake .idle false s else s

/-- The scheduled and idle conditions judged (R111). At most one of the two times exists (R110). -/
def judgeWakes (s : State) : State := judgeIdle (judgeScheduled s)

/-- What follows a word event of a write before its next word is handed on: issues, the buffer, wakes, the engine's service. The fetches
wanted are requested after the last word (R42; L47). -/
def settleWord (s : State) : State := beginService (judgeWakes (freeBuffer (judgeRun (issueOwed s))))

/-- What follows each event taken inside a step: issues, the buffer, the fetch wanted, wakes, the engine's service. An alert is
judged where its event is raised, before the other wake conditions are judged here: R111 lets either come first (L35). -/
def settle (s : State) : State :=
  beginService (judgeWakes (cacheSettle (freeBuffer (judgeRun (issueOwed s)))))

/-- What follows a step's own effect: the events' consequences, then the port's (R151, R153, R156; L17). -/
def finish (s : State) : State := portSettle (settle s)

end Sys2Proof.Machine
end

