-- ==== Sys2Proof/Machine/Reset.lean ====
section
/-! DEFINITION. The two resets (R124, R125, R147, R148, R159, R160, R170, R175) and the meaning of POWER_ON_RESET. -/

namespace Sys2Proof.Machine

/-- How many words of an access a reset finds transferred: a free value, at most the access's length (L9). -/
def transferredWords (s : State) (a : EngineAccess) : Nat := min (Config.wordsTransferred s.freeCount) a.length

/-- An engine access in progress is ended by a reset: the words transferred before it stay in memory (R159, R160). -/
def endEngineAccess (s : State) : State :=
  match s.port.access with
  | .noAccess => s
  | .pass _ => s
  | .engine a =>
    let t :=
      if a.write then s.modRam fun m => writeWords m (a.addrs.take (transferredWords s a)) a.words else s
    (t.modPort fun q => { q with access := .noAccess }).modFreeCount (· + 1)

/-- The controller transaction that waits after a reset: the one that waited, or the held read, released (R147, R148). -/
def waitingAfterReset (s : State) : Option Transaction :=
  match s.port.waitPass with
  | some tx => some tx
  | none => s.path.held

/-- The retention state after a soft reset (R160). -/
def Retention.afterSoftReset : Retention → Retention
  | .active => .active
  | .entering => .entering
  | .retained => .exiting
  | .exiting => .exiting

/-- The Memory Port after a soft reset, the engine access ended (R160). -/
def Port.softReset (q : Port) (waiting : Option Transaction) : Port :=
  { retention := q.retention.afterSoftReset, access := q.access, waitPass := waiting, waitEngine := none, waitWake := false,
    starvation := 0, exitAfterEntry := decide (q.retention = .entering) }

/-- The Session Controller after a soft reset (R125): OPEN, the timer restarted with the default session limit. -/
def Session.softReset (x : Session) (now : Elapsed) : Session :=
  { state := .open, cause := x.cause, late := x.late, sleepKind := x.sleepKind, forcedRecovery := false,
    timer := some (expiryAfter now Settings.default.sessionLimit), sleepTime := none, counts := .zero, pendingSet := 0,
    holdoff := none, deferredAlert := false, cold := x.cold, phase := .noWake }

/-- The pins after a soft reset: the lines of OPEN, a TRIGGER pulse in progress ended (R26, R125). -/
def Pins.softReset (p : Pins) : Pins := { p with pwrEn := true, wake := false, ctrlReset := false, trigger := false }

/-- A soft reset: each block takes it as its own rule gives (R175). The Supply Monitor and the Time Base keep their state
(R126, R131). -/
def softReset (s : State) : State :=
  let t := endEngineAccess s
  { t with
    pins := t.pins.softReset
    session := t.session.softReset t.tb.elapsed
    sched := .reset
    seg := .reset
    expo := .reset
    stats := .reset
    cache := .reset
    path := { Path.reset t.pins.straps with following := s.path.following }
    port := t.port.softReset (waitingAfterReset s)
    engine := .reset
    cmd := { lastDecided := none, busy := none, resetCause := .soft }
    config := .default }

/-- RESET_PART taken: the soft reset with the strap pins as they stand, then the decision (R172, R175). -/
def resetPart (seq : BitVec 8) (s : State) : State := decideCommand seq .ok (softReset s)

/-- A pass-through access in progress goes on across a power-on reset (R159). -/
def PortAccess.passOnly : PortAccess → PortAccess
  | .pass tx => .pass tx
  | .engine _ => .noAccess
  | .noAccess => .noAccess

/-- The retention state after a power-on reset: EXITING (R159). A row given while the part is still held in that reset goes on with
the one exit that the reset asked for (R147, R159; L7). -/
def State.retentionAfterPowerOn (s : State) : Retention := if s.pins.inReset then s.port.retention else .exiting

/-- The state a power-on reset leaves, before the power-on sample (R124, R147, R159, R170): the RAM, the command queue and the
transactions of the controller outlive it. -/
def powerOn (pins : PowerPins) (s : State) : State :=
  let t := endEngineAccess s
  { State.poweredOn pins with
    path := { Path.reset pins.straps with following := s.path.following }
    port :=
      { Port.reset with
        retention := s.retentionAfterPowerOn, access := t.port.access.passOnly, waitPass := waitingAfterReset s }
    ram := t.ram
    freeCount := t.freeCount
    pending := s.pending }

/-- The power-on sample is taken when the reset has ended (R126; L7). -/
def powerOnSample (pins : PowerPins) (s : State) : State := if pins.ended then sampleSupply pins.battery s else s

/-- POWER_ON_RESET (R124). -/
def execPowerOnReset (pins : PowerPins) (s : State) : Host.Outcome State Fault Refusal :=
  .next (finish (powerOnSample pins (powerOn pins s)))

/-- RESET_PART (R175), with the strap pins sampled at the reset (R138; L28). -/
def execResetPart (seq : BitVec 8) (straps : BitVec 3) (s : State) : Host.Outcome State Fault Refusal :=
  .next (finish (outsideReset (fun t => resetPart seq (t.modPins fun p => { p with straps := straps })) s))

end Sys2Proof.Machine
end

