-- ==== Sys2Proof/Machine/Session.lean ====
section
/-! DEFINITION. Sessions, supply, crystal and time events (spec 01, 06, 07), the reports of the RAM's retention (spec 09), and
their meanings. An event that cannot occur in the state has no effect (L5). -/

namespace Sys2Proof.Machine

/-- The effect of an event that a condition allows, none otherwise (L5). -/
def guarded (b : Bool) (f : State → State) (s : State) : State := if b then f s else s

/-! ### Wakes and sleeps (R112, R115, R117) -/

/-- A wake in the phase given. -/
def Session.wakeAt (x : Session) (p : WakePhase) : Bool := decide (x.state = .waking) && decide (x.phase = p)

/-- Steps 3 and 4 of a wake: the supply sample and the waking STATUS_WRITE (R112). -/
def wakeSample (battery : Nat) (s : State) : State :=
  requestStatus ((sampleSupply battery s).modSession fun x => { x with phase := .status })

/-- The reset hold ends: CTRL_RESET_N released, the forced-recovery mark cleared, steps 3 and 4 taken (R112). -/
def endResetHold (battery : Nat) (s : State) : State :=
  wakeSample battery
    ((s.modPins fun p => { p with ctrlReset := false }).modSession fun x => { x with forcedRecovery := false })

/-- The WAKE pulse ends: steps 3 and 4 taken (R112). -/
def endWakePulse (battery : Nat) (s : State) : State :=
  wakeSample battery (s.modPins fun p => { p with wake := false })

/-- The lines of an asleep state (R108). -/
def asleepLines (kind : SleepKind) (s : State) : State :=
  if kind = .off then driveLines false true false s else driveLines true false false s

/-- The asleep state of a sleep kind (R115). -/
def asleepState (kind : SleepKind) : SessionState := if kind = .off then .asleepOff else .asleepStandby

/-- The kind a close ends in: OFF when the supply is CRITICAL after the close sample (R115). -/
def closeKind (s : State) : SleepKind := if s.supply.state = .critical then .off else s.session.sleepKind

/-- The session enters sleep of a kind now (R115 steps 3 and 4, R117 step 2). -/
def enterSleep (kind : SleepKind) (s : State) : State :=
  (asleepLines kind s).modSession fun x =>
    { x with state := asleepState kind, sleepKind := kind, timer := none, sleepTime := some s.tb.elapsed }

/-- A deferred alert is judged when the close ends (R115, R120). -/
def takeDeferredAlert (s : State) : State :=
  if s.session.deferredAlert then judgeAlert (s.modSession fun x => { x with deferredAlert := false }) else s

/-- The session closes at the report of reached RETAINED (R115). -/
def closeSession (battery : Nat) (s : State) : State :=
  let t := sampleSupply battery s
  takeDeferredAlert (requestStatus (enterSleep (closeKind t) t))

/-- A forced sleep (R117). -/
def forceSleep (battery : Nat) (s : State) : State :=
  let t := enterSleep .off (s.modSession fun x => { x with forcedRecovery := true })
  requestStatus (raiseEvent .forcedSleep (sampleSupply battery t))

/-- The session timer of an OPEN session has expired (R116, R117). -/
def sessionExpired (s : State) : Bool := decide (s.session.state = .open) && timerDue s.tb.elapsed s.session.timer

/-! ### Supply and crystal (R129, R132) -/

/-- A recheck: a sample, and the timer restarted while CRITICAL stays (R129). -/
def recheck (battery : Nat) (s : State) : State :=
  let t := sampleSupply battery s
  if t.supply.state = .critical then
    t.modSupply fun y => { y with recheck := some (expiryAfter t.tb.elapsed t.config.settings.recheckPeriod) }
  else t

/-- The crystal judged stopped while the source is CRYSTAL: the fallback to RC (R132). -/
def fallBack (s : State) : State :=
  requestStatus (raiseEvent .timeDegraded (s.modTb fun y => { y with source := .rc, degraded := true }))

/-- The crystal judged stopped (R132). -/
def crystalStopped (s : State) : State :=
  let t := s.modTb fun y => { y with crystalRunning := false, sinceStop := 0 }
  if t.tb.source = .crystal then fallBack t else t

/-- The crystal can be judged running: 1,024 RC ticks have passed since it was last judged stopped (R132). -/
def TimeBase.runsSteadily (y : TimeBase) : Bool := decide (1024 ≤ y.sinceStop)

/-- The crystal judged running (R132). -/
def crystalRuns (s : State) : State := s.modTb fun y => { y with crystalRunning := true }

/-! ### Retention (R152, R154) -/

/-- The RAM reports entry: straight to EXITING when a request waits or a soft reset asked for it, else RETAINED, which a
CLOSING session closes at (R115, R152, R160). -/
def entryComplete (battery : Nat) (s : State) : State :=
  if s.port.anyWaiting ∨ s.port.exitAfterEntry then
    s.modPort fun q => { q with retention := .exiting, exitAfterEntry := false }
  else
    let t := s.modPort fun q => { q with retention := .retained }
    if t.session.state = .closing then closeSession battery t else t

/-- The RAM reports exit: ACTIVE, and a waiting wake goes on to step 2 (R154). -/
def exitComplete (s : State) : State :=
  let t := s.modPort fun q => { q with retention := .active, waitWake := false }
  if s.port.waitWake then wakeControllerLines t else t

/-- The RAM can report the end of an exit: none is asked for while an access runs (R159). -/
def exitPossible (s : State) : Bool := decide (s.port.retention = .exiting) && decide (s.port.access = .noAccess)

/-! ### Meanings -/

/-- SCHEDULED_WAKE (R111). -/
def execScheduledWake (s : State) : Host.Outcome State Fault Refusal := .next (finish (judgeScheduled s))

/-- IDLE_WAKE (R111). -/
def execIdleWake (s : State) : Host.Outcome State Fault Refusal := .next (finish (judgeIdle s))

/-- RESET_HOLD_EXPIRY (R112). -/
def execResetHoldExpiry (battery : Nat) (s : State) : Host.Outcome State Fault Refusal :=
  .next (finish (guarded (s.session.wakeAt .resetHold) (endResetHold battery) s))

/-- WAKE_PULSE_END (R112). -/
def execWakePulseEnd (battery : Nat) (s : State) : Host.Outcome State Fault Refusal :=
  .next (finish (guarded (s.session.wakeAt .wakePulse) (endWakePulse battery) s))

/-- SESSION_TIMER_EXPIRY (R117). -/
def execSessionTimerExpiry (battery : Nat) (s : State) : Host.Outcome State Fault Refusal :=
  .next (finish (guarded (sessionExpired s) (forceSleep battery) s))

/-- ALERT_HOLDOFF_EXPIRY (R121): the timer stops, and nothing else follows from it. -/
def execAlertHoldoffExpiry (s : State) : Host.Outcome State Fault Refusal :=
  .next (finish (guarded (timerDue s.tb.elapsed s.session.holdoff)
    (fun t => t.modSession fun x => { x with holdoff := none }) s))

/-- RECHECK_TIMER_EXPIRY (R129). -/
def execRecheckTimerExpiry (battery : Nat) (s : State) : Host.Outcome State Fault Refusal :=
  .next (finish (guarded (timerDue s.tb.elapsed s.supply.recheck) (recheck battery) s))

/-- CRYSTAL_STOP (R132). -/
def execCrystalStop (s : State) : Host.Outcome State Fault Refusal := .next (finish (outsideReset crystalStopped s))

/-- CRYSTAL_RUNNING (R132): only the indication changes, and not before the RC ticks that it takes (L42). -/
def execCrystalRunning (s : State) : Host.Outcome State Fault Refusal :=
  .next (finish (outsideReset (guarded s.tb.runsSteadily crystalRuns) s))

/-- TRIGGER_PULSE_END (R26; L31). -/
def execTriggerPulseEnd (s : State) : Host.Outcome State Fault Refusal :=
  .next (finish (s.modPins fun p => { p with trigger := false }))

/-- RETENTION_ENTRY_COMPLETE (R152). -/
def execRetentionEntryComplete (battery : Nat) (s : State) : Host.Outcome State Fault Refusal :=
  .next (finish (guarded (decide (s.port.retention = .entering)) (entryComplete battery) s))

/-- RETENTION_EXIT_COMPLETE (R154). -/
def execRetentionExitComplete (s : State) : Host.Outcome State Fault Refusal :=
  .next (finish (guarded (exitPossible s) exitComplete s))

end Sys2Proof.Machine
end

