-- ==== Sys2Proof/Machine/Control.lean ====
section
/-! DEFINITION. The commands of the command interpreter (spec 11) that change the clock, the run, the session or the status
fields, and their meanings. Each is judged with the argument latches (R141). -/

namespace Sys2Proof.Machine

/-! ### Due times (R19, R20) -/

/-- The conditions of a trigger hold (R19). -/
def canTrigger (e : Entry) (s : State) : Bool :=
  s.sched.runState.capturing && decide (s.session.state = .open) && e.armed

/-- The cause of a MISSED retirement: the first condition that holds (R20). -/
def missedCause (s : State) : Cause :=
  if s.sched.runState = .suspended then .suspended else if s.session.state ≠ .open then .asleep else .notArmed

/-- The configured stat wait in milliseconds, 0 without a configuration. -/
def statWait (s : State) : Nat :=
  match s.config.tuning with
  | none => 0
  | some t => t.statWait

/-- An entry TRIGGERED, with its statistics deadline (R19, R22). -/
def Entry.trigger (e : Entry) (wait : Nat) : Entry :=
  { e with triggered := true, deadline := some (addTicks e.due (deadlineTicks e.shutterUs wait)) }

/-- One entry of a queue replaced. -/
def replaceEntry (e e' : Entry) (q : List Entry) : List Entry := q.map fun x => if x = e then e' else x

/-- TRIGGER pulsed: the entry becomes TRIGGERED, the counter rises and the session timer restarts (R19, R116). -/
def triggerEntry (e : Entry) (s : State) : State :=
  restartTimer ((s.modPins fun p => { p with trigger := true }).modSched fun q =>
    { q with queue := replaceEntry e (e.trigger (statWait s)) q.queue, triggers := saturatingAdd max32 q.triggers 1 })

/-- An ISSUED entry comes due: it is triggered, or retires MISSED (R19, R20). -/
def comeDue (e : Entry) (s : State) : State :=
  if canTrigger e s then triggerEntry e s else retireNow e .missed (missedCause s) none false s

/-- An ISSUED entry whose due time the present time has reached or passed (R19). -/
def Entry.isDue (e : Entry) (now : Time) : Bool := !e.triggered && notLater e.due now

/-- The entries named come due in queue order, those that still stand ISSUED and due; the issue a retirement owes is made before
the next entry is judged (R19, R135; L11, L25). -/
def comeDueAll : List Word → State → State
  | [], s => s
  | f :: fs, s =>
    comeDueAll fs
      (match s.sched.queue.find? fun e => e.frame == f && e.isDue s.tb.time with
        | none => s
        | some e => issueOwed (comeDue e s))

/-! ### SET_TIME and TRIM_TIME (R134, R135) -/

/-- The time value of the first two argument words: seconds, and the low ten bits of the tick (R131, R134). -/
def argTime (s : State) : Time := s.path.arg1 ++ s.path.arg2.setWidth 10

/-- SET_TIME judged (R134). -/
def setTime (seq : BitVec 8) (s : State) : State :=
  if ¬ s.sched.runState.resting then decideCommand seq .state s
  else if 1023 < s.path.arg2.toNat then decideCommand seq .range s
  else decideCommand seq .ok (requestStatus (s.modTb fun y => { y with time := argTime s, unset := false }))

/-- A trim in the range −2048..+2047 that does not lead below 0.0 (R135). -/
def trimInRange (now : Time) (n : Int) : Bool :=
  decide (-2048 ≤ n) && decide (n ≤ 2047) && decide (0 ≤ (now.toNat : Int) + n)

/-- The time value moved by a trim (R135; modulo 2^42, L22). -/
def trimmed (now : Time) (n : Int) : Time := BitVec.ofInt 42 ((now.toNat : Int) + n)

/-- TRIM_TIME judged (R135). Its decision is recorded when the time has moved, before the wake that it begins and the entries that it
brings due, which are events of their own; R171 and R135 give no such order, and STOP and CLEAR record theirs last. DESIGN CHOICE (L48).
A scheduled wake whose time it passes begins before those entries (L25). -/
def trimTime (seq : BitVec 8) (s : State) : State :=
  let n := s.path.arg1.toInt
  if trimInRange s.tb.time n then
    let t := decideCommand seq .ok (requestStatus (s.modTb fun y => { y with time := trimmed y.time n }))
    comeDueAll (t.sched.queue.map Entry.frame) (judgeScheduled t)
  else decideCommand seq .range s

/-! ### SET_EV (R88) -/

/-- SET_EV judged (R88). -/
def setEv (seq : BitVec 8) (s : State) : State :=
  if s.sched.runState = .stopped then
    let v := clampInt 0 1663 s.path.arg1.toInt
    decideCommand seq (if v = s.path.arg1.toInt then .ok else .okClamped)
      (requestStatus (s.modExpo fun x => { x with el := v.toNat }))
  else decideCommand seq .state s

/-! ### START, STOP and ARM (R2, R3, R5, R21) -/

/-- The requested first due time of a START: none for second 0, tick 0 (R2). -/
def requestedDue (s : State) : Option Time := if argTime s = 0 then none else some (argTime s)

/-- The issues a START owes (R3, R12). -/
def startIssues (depth : Nat) : List Origin :=
  match depth with
  | 0 => []
  | n + 1 => .start true :: List.replicate n (.start false)

/-- What START takes and begins afresh (R2, R3, R10, R15, R18; L32). -/
def Scheduler.begin (q : Scheduler) (t : Tuning) (request : Option Time) : Scheduler :=
  { q with
    depth := t.depth, dailyFrom := t.dailyFrom, dailyTo := t.dailyTo, startRequest := request, chainBase := none,
    latestKept := none, resumeState := none, heldCopy := none, owed := startIssues t.depth }

/-- An accepted START: the entry segment entered, the run state chosen and set, D issues owed (R3, R130). -/
def startRun (slot : Nat) (t : Tuning) (s : State) : State :=
  let r := enterSegment slot none (s.modSched fun q => q.begin t (requestedDue s))
  let chosen : RunState := if watchedFault r then .faultHold else .running
  setRun chosen .noReason (r.modSched fun q => { q with startState := some chosen })

/-- START judged (R2). -/
def startCommand (seq : BitVec 8) (s : State) : State :=
  if s.sched.runState ≠ .stopped then decideCommand seq .state s
  else
    match s.cache.loaded, s.config.tuning with
    | some slot, some t =>
      if s.tb.unset then decideCommand seq .state s
      else if 1023 < s.path.arg2.toNat then decideCommand seq .range s
      else decideCommand seq .ok (startRun slot t s)
    | _, _ => decideCommand seq .noPlan s

/-- STOP is accepted in these run states (R5). -/
def RunState.stoppable : RunState → Bool
  | .running => true
  | .faultHold => true
  | .suspended => true
  | _ => false

/-- STOP judged (R5). -/
def stopCommand (seq : BitVec 8) (s : State) : State :=
  if s.sched.runState.stoppable then
    decideCommand seq .ok
      (setRun .stopped .command
        ((dropIssues (abandonAll s.sched.queue s)).modSched fun q => { q with resumeState := none }))
  else decideCommand seq .state s

/-- ARM judged (R21). -/
def armCommand (seq : BitVec 8) (s : State) : State :=
  match s.sched.queue.find? fun e => e.frame == s.path.arg1 with
  | none => decideCommand seq .range s
  | some e =>
    if e.triggered then decideCommand seq .state s
    else decideCommand seq .ok (s.modSched fun q => { q with queue := replaceEntry e { e with armed := true } q.queue })

/-! ### SLEEP (R110, R115) -/

/-- The gap from the present time to the next wake time in ticks, absent when there is none; it is negative when the wake time
is past. The idle wake is reckoned as if the sleep began now (R110). -/
def wakeGap (s : State) : Option Int :=
  match scheduledDue s with
  | some d => some ((d.toNat : Int) - wakeLeadTicks s - s.tb.time.toNat)
  | none =>
    if s.sched.runState.resting ∧ s.config.settings.idleWake ≠ 0 then some ((s.config.settings.idleWake * 1024 : Nat) : Int)
    else none

/-- A gap is shorter than a number of seconds (R115). -/
def gapBelow (gap : Option Int) (seconds : Nat) : Bool :=
  match gap with
  | none => false
  | some g => decide (g < ((seconds * 1024 : Nat) : Int))

/-- The sleep kind for a gap: OFF without a wake time or at least the off gap ahead of it (R115). -/
def sleepKindFor (gap : Option Int) (offGap : Nat) : SleepKind := if gapBelow gap offGap then .standby else .off

/-- SLEEP judged (R115). -/
def sleepCommand (seq : BitVec 8) (s : State) : State :=
  if s.session.state ≠ .open then decideCommand seq .state s
  else if s.sched.owed ≠ [] then decideCommand seq .tooSoon s
  else if gapBelow (wakeGap s) s.config.settings.minSleep then decideCommand seq .tooSoon s
  else
    decideCommand seq .ok (requestStatus (s.modSession fun x =>
      { x with state := .closing, sleepKind := sleepKindFor (wakeGap s) s.config.settings.offGap, timer := none,
               deferredAlert := false }))

/-! ### CLEAR (R47, R83, R123, R133, R174) -/

/-- The plan bit: PLAN_FAULT cleared, every FAULT entry awaits refetch (R47). -/
def clearPlan (s : State) : State :=
  requestStatus (s.modCache fun c =>
    { c with
      fault := none
      entries := c.entries.map fun e => if e.state = .fault then { e with awaiting := true } else e })

/-- The statistics bit: the sticky flags cleared (R83). -/
def clearStatistics (s : State) : State := requestStatus (s.modStats fun x => { x with flags := .clear })

/-- The event bit: the event counts and the COLD flag cleared (R123). -/
def clearEvents (s : State) : State := requestStatus (s.modSession fun x => { x with counts := .zero, cold := false })

/-- The time bit: the source returns to a crystal that runs (R133). -/
def clearTime (s : State) : State :=
  if s.tb.source = .rc ∧ s.tb.crystalRunning = true then
    requestStatus (s.modTb fun y => { y with source := .crystal, degraded := false })
  else s

/-- An action taken when a bit of the first argument latch is set (R174). -/
def onBit (w : Word) (i : Nat) (f : State → State) (s : State) : State := if bitOf w i then f s else s

/-- CLEAR judged: its bits in their order, then the decision (R174). -/
def clearCommand (seq : BitVec 8) (s : State) : State :=
  let w := s.path.arg1
  decideCommand seq .ok
    (onBit w 3 clearTime (onBit w 2 clearEvents (onBit w 1 clearStatistics (onBit w 0 clearPlan s))))

/-! ### LOAD_PLAN and CONFIGURE (R35, R176) -/

/-- LOAD_PLAN judged (R35): accepted, the cache is emptied and a walk stands ready to begin. -/
def loadPlan (seq : BitVec 8) (s : State) : State :=
  if s.sched.runState ≠ .stopped then decideCommand seq .state s
  else if s.path.planSlots ≤ s.path.arg1.toNat then decideCommand seq .range s
  else
    acceptLong seq .loadPlan (s.modCache fun c =>
      { c.emptied with loaded := none, fault := none, walk := some { entrySlot := s.path.arg1.toNat, started := false } })

/-- CONFIGURE judged (R176): accepted, a CONFIG_READ is requested. -/
def configureCommand (seq : BitVec 8) (s : State) : State :=
  if ¬ s.sched.runState.resting then decideCommand seq .state s
  else (acceptLong seq .configure s).modEngine fun e => { e with waiting := e.waiting ++ [.configRead] }

/-! ### A command handed on by the Pass-Through Path (R141, R171) -/

/-- A command judged by the common tests, then by its own rule (R171). -/
def takeCommand (c : CommandName) (seq : BitVec 8) (s : State) : State :=
  match c with
  | .configure => unlessBusy seq (configureCommand seq) s
  | .setTime => unlessBusy seq (setTime seq) s
  | .trimTime => unlessBusy seq (trimTime seq) s
  | .loadPlan => unlessBusy seq (loadPlan seq) s
  | .setEv => unlessBusy seq (setEv seq) s
  | .start => unlessBusy seq (startCommand seq) s
  | .stop => unlessBusy seq (stopCommand seq) s
  | .arm => unlessBusy seq (armCommand seq) s
  | .sleep => unlessBusy seq (sleepCommand seq) s
  | .clear => unlessBusy seq (clearCommand seq) s
  | .resetPart => resetPart seq s
  | .unassigned _ => unlessBusy seq (decideCommand seq .unknown) s

/-! ### Meanings -/

/-- CONFIGURE (R176). -/
def execConfigure (seq : BitVec 8) (s : State) : Host.Outcome State Fault Refusal :=
  .next (finish (outsideReset (unlessBusy seq (configureCommand seq)) s))

/-- SET_TIME (R134). -/
def execSetTime (seq : BitVec 8) (s : State) : Host.Outcome State Fault Refusal :=
  .next (finish (outsideReset (unlessBusy seq (setTime seq)) s))

/-- TRIM_TIME (R135). -/
def execTrimTime (seq : BitVec 8) (s : State) : Host.Outcome State Fault Refusal :=
  .next (finish (outsideReset (unlessBusy seq (trimTime seq)) s))

/-- LOAD_PLAN (R35). -/
def execLoadPlan (seq : BitVec 8) (s : State) : Host.Outcome State Fault Refusal :=
  .next (finish (outsideReset (unlessBusy seq (loadPlan seq)) s))

/-- SET_EV (R88). -/
def execSetEv (seq : BitVec 8) (s : State) : Host.Outcome State Fault Refusal :=
  .next (finish (outsideReset (unlessBusy seq (setEv seq)) s))

/-- START (R2, R3). -/
def execStart (seq : BitVec 8) (s : State) : Host.Outcome State Fault Refusal :=
  .next (finish (outsideReset (unlessBusy seq (startCommand seq)) s))

/-- STOP (R5). -/
def execStop (seq : BitVec 8) (s : State) : Host.Outcome State Fault Refusal :=
  .next (finish (outsideReset (unlessBusy seq (stopCommand seq)) s))

/-- ARM (R21). -/
def execArm (seq : BitVec 8) (s : State) : Host.Outcome State Fault Refusal :=
  .next (finish (outsideReset (unlessBusy seq (armCommand seq)) s))

/-- SLEEP (R115). -/
def execSleep (seq : BitVec 8) (s : State) : Host.Outcome State Fault Refusal :=
  .next (finish (outsideReset (unlessBusy seq (sleepCommand seq)) s))

/-- CLEAR (R174). -/
def execClear (seq : BitVec 8) (s : State) : Host.Outcome State Fault Refusal :=
  .next (finish (outsideReset (unlessBusy seq (clearCommand seq)) s))

/-- CLEAR_PLAN_BIT (R47). -/
def execClearPlanBit (s : State) : Host.Outcome State Fault Refusal := .next (finish (outsideReset clearPlan s))

/-- CLEAR_STATISTICS_BIT (R83). -/
def execClearStatisticsBit (s : State) : Host.Outcome State Fault Refusal := .next (finish (outsideReset clearStatistics s))

/-- CLEAR_EVENT_BIT (R123). -/
def execClearEventBit (s : State) : Host.Outcome State Fault Refusal := .next (finish (outsideReset clearEvents s))

/-- CLEAR_TIME_BIT (R133). -/
def execClearTimeBit (s : State) : Host.Outcome State Fault Refusal := .next (finish (outsideReset clearTime s))

/-- UNASSIGNED_COMMAND_CODE (R171). -/
def execUnassignedCommandCode (_code seq : BitVec 8) (s : State) : Host.Outcome State Fault Refusal :=
  .next (finish (outsideReset (unlessBusy seq (decideCommand seq .unknown)) s))

end Sys2Proof.Machine
end

