-- ==== Sys2Proof/Machine/Intake.lean ====
section
/-! DEFINITION. The Statistics Intake: assembly, judgement and report of a statistics record (spec 04), and the meanings of the
three STAT word rows. -/

namespace Sys2Proof.Machine

/-! ### Shared operations -/

/-- A sticky flag raised: set, STATS_ERROR raised once, a STATUS_WRITE requested (R83). -/
def raiseFlag (f : StickyFlag) (s : State) : State :=
  requestStatus (raiseEvent .statsError (s.modStats fun x => { x with flags := x.flags.raise f }))

/-- A flag raised only when a condition holds. -/
def raiseFlagIf (b : Bool) (f : StickyFlag) (s : State) : State := if b then raiseFlag f s else s

/-- The kinds of a reported STAT word (R70). -/
inductive WordKind where
  | whole (good : Bool)
  | part (good : Bool)
  | empty
  deriving DecidableEq, Repr, Inhabited

/-- The kind of a word (R70). -/
def wordKind (w : BusWord) : WordKind :=
  if w.empty then .empty else if w.whole then .whole w.good else .part w.good

/-- The stream id of a header word (R180). -/
def streamOf (w : Word) : Nat := field w 0 4

/-- The frame tag of a header or closing word (R180). -/
def tagOf (w : Word) : BitVec 16 := BitVec.ofNat 16 (field w 16 16)

/-- The low 16 bits of a frame number (R77). -/
def frameTag (f : Word) : BitVec 16 := BitVec.ofNat 16 (f.toNat % 65536)

/-- A zone value as it is held: 4096 and more as 4095 (R69, R74). -/
def clipZone (v : Nat) : Nat := min v 4095

/-- The assembler holds an open record (R71). -/
def Assembler.isOpen : Assembler → Bool
  | .idle => false
  | .assembling _ => true
  | .skipping => false

/-- The record a header opens (R72). -/
def newRecord (stream : Nat) (tag : BitVec 16) : Assembling :=
  { stream := stream, tag := tag, values := List.replicate 64 0, presence := 0, poisoned := false }

/-- The stream select in force, if there is one (R71). -/
def streamSelect (s : State) : Option Nat := s.config.tuning.map Tuning.streamSelect

/-- The assembler set. -/
def setAssembler (a : Assembler) (s : State) : State := s.modStats fun x => { x with assembler := a }

/-- An open record dropped by a header word raises RESTART (R72, R73). -/
def dropOpen (s : State) : State := raiseFlagIf s.stats.assembler.isOpen .restart s

/-- A header word taken (R72, R73). -/
def takeHeader (w : BusWord) (s : State) : State :=
  match wordKind w with
  | .empty => s
  | .whole true =>
    setAssembler
      (if streamSelect s = some (streamOf w.data) then .assembling (newRecord (streamOf w.data) (tagOf w.data)) else .skipping)
      (dropOpen s)
  | .whole false => setAssembler .skipping (raiseFlag .parity (dropOpen s))
  | .part good => setAssembler .skipping (raiseFlagIf (!good) .parity (dropOpen s))

/-- A record with a zone word written whole: both values taken and the mark set (R74). -/
def Assembling.withZones (r : Assembling) (k : Fin 32) (w : Word) : Assembling :=
  { r with
    values := (r.values.set (2 * k.val) (clipZone (field w 0 16))).set (2 * k.val + 1) (clipZone (field w 16 16))
    presence := r.presence ||| (1#32 <<< k.val) }

/-- A record with a zone word's presence mark cleared (R74). -/
def Assembling.withoutZones (r : Assembling) (k : Fin 32) : Assembling :=
  { r with presence := r.presence &&& ~~~(1#32 <<< k.val) }

/-- A bad zone word: the mark cleared, the record poisoned, PARITY raised if it was not poisoned before (R74). -/
def poisonZone (r : Assembling) (k : Fin 32) (s : State) : State :=
  raiseFlagIf (!r.poisoned) .parity (setAssembler (.assembling { r.withoutZones k with poisoned := true }) s)

/-- A zone word taken; `k` is the zone word's number less one (R74). -/
def takeZone (k : Fin 32) (w : BusWord) (s : State) : State :=
  match s.stats.assembler with
  | .idle => s
  | .skipping => s
  | .assembling r =>
    match wordKind w with
    | .empty => s
    | .whole true => setAssembler (.assembling (r.withZones k w.data)) s
    | .part true => setAssembler (.assembling (r.withoutZones k)) s
    | .whole false => poisonZone r k s
    | .part false => poisonZone r k s

/-! ### Report (R24, R78, R80, R90) -/

/-- The entry of a frame number. -/
def entryOf (frame : Word) (q : List Entry) : Option Entry := q.find? fun e => e.frame == frame

/-- Supersession: a head other than the matched entry retires first, and the issue it owes is made before the next retirement
(R24; L10, L11). -/
def supersede (frame : Word) (s : State) : State :=
  match s.sched.queue with
  | [] => s
  | h :: _ =>
    if h.frame = frame then s
    else issueOwed (retireNow h .unmetered (settledCause h .superseded) none false s)

/-- A poisoned report taken (R24 step 3, R78). -/
def reportPoisoned (frame : Word) (s : State) : State :=
  let t := supersede frame s
  match entryOf frame t.sched.queue with
  | none => t
  | some e => retireNow e .unmetered (settledCause e .parity) none false t

/-- The metering of a latched record: BL(L) and the clip count, absent when the present zones carry no weight (R90). `c` is the
metering copy. -/
def meter (t : Tuning) (c : Segment) (r : Latched) : Option (Nat × Nat) :=
  let m := meterRecord t c.weightSet r
  if m.wsum = 0 then none else some (brightness (m.total / m.wsum), m.clip)

/-- The metering of the part's latched record under the metering copy and the weights in force (R90). -/
def meterNow (r : Latched) (s : State) : Option (Nat × Nat) :=
  match s.config.tuning, s.seg.copyRead with
  | some t, some c => meter t c r
  | _, _ => none

/-- The error of a METERED retirement (R91). -/
def errorNow (bl clip : Nat) (s : State) : Int :=
  match s.seg.copyRead with
  | none => 0
  | some c => retirementError c s.seg.bias bl clip

/-- The matched entry of a latched report retires: SETTLING when discounted, NO_WEIGHT, or METERED with its results held for the
issue that follows (R24 step 2, R86, R90, R91). -/
def retireLatched (e : Entry) (r : Latched) (s : State) : State :=
  if e.discounted then retireNow e .unmetered .settling none r.gap s
  else
    match meterNow r s with
    | none => retireNow e .unmetered .noWeight none r.gap s
    | some m =>
      retireNow e .metered .noCause (some (m.1, errorNow m.1 m.2 s)) r.gap
        (s.modExpo fun x => { x with held := some { frame := e.frame, el := e.el, bl := m.1, clip := m.2 } })

/-- A latched report taken (R24 step 2, R80). -/
def reportLatched (frame : Word) (r : Latched) (s : State) : State :=
  let t := supersede frame s
  match entryOf frame t.sched.queue with
  | none => t
  | some e => retireLatched e r t

/-- The latched form of a closed record (R80). -/
def Assembling.latch (r : Assembling) : Latched :=
  { stream := r.stream, tag := r.tag, values := r.values, presence := r.presence,
    gap := decide (r.presence ≠ BitVec.allOnes 32) }

/-- Step 5 of R76: the record is latched, GAP raised when incomplete, and reported (R80). -/
def latchRecord (frame : Word) (r : Assembling) (s : State) : State :=
  reportLatched frame r.latch
    (raiseFlagIf r.latch.gap .gap (s.modStats fun x => { x with latched := some r.latch }))

/-! ### Judgement (R76 to R79) -/

/-- The entry whose frame number's low 16 bits are a tag (R77). -/
def matchTag (tag : BitVec 16) (q : List Entry) : Option Entry := q.find? fun e => frameTag e.frame == tag

/-- A tag equals the last retired tag (R4, R77). -/
def lastRetiredTag (tag : BitVec 16) (s : State) : Bool :=
  match s.sched.lastRetired with
  | none => false
  | some f => frameTag f == tag

/-- Steps 2 to 5 of R76 for a record whose closing tag agrees. -/
def judgeAgreed (r : Assembling) (tag : BitVec 16) (s : State) : State :=
  match matchTag tag s.sched.queue with
  | some e =>
    if e.triggered then
      if r.poisoned then reportPoisoned e.frame s
      else if s.stats.latched.isSome then raiseFlag .overrun s
      else latchRecord e.frame r s
    else raiseFlagIf (!r.poisoned) .unknown s
  | none => if r.poisoned then s else raiseFlag (if lastRetiredTag tag s then .late else .unknown) s

/-- The tests of R76 in their order, for a record whose closing word could be read. -/
def judgeClosed (r : Assembling) (tag : BitVec 16) (s : State) : State :=
  if tag ≠ r.tag then raiseFlag .mismatch s else judgeAgreed r tag s

/-- A closing word taken (R75). -/
def takeClosing (w : BusWord) (s : State) : State :=
  match s.stats.assembler with
  | .idle => s
  | .skipping => s
  | .assembling r =>
    match wordKind w with
    | .empty => s
    | .whole true => judgeClosed r (tagOf w.data) (setAssembler .idle s)
    | .whole false =>
      judgeClosed { r with poisoned := true } (tagOf w.data) (raiseFlagIf (!r.poisoned) .parity (setAssembler .idle s))
    | .part _ => raiseFlag .mismatch (setAssembler .idle s)

/-- STAT words are reported only while a STAT window is in force (R70). -/
def whenReported (f : State → State) (s : State) : State := if s.path.stat.isSome then f s else s

/-! ### Meanings -/

/-- STAT_HEADER_WORD (R72, R73). -/
def execStatHeaderWord (w : BusWord) (s : State) : Host.Outcome State Fault Refusal :=
  .next (finish (whenReported (takeHeader w) s))

/-- STAT_ZONE_WORD (R74). -/
def execStatZoneWord (k : Fin 32) (w : BusWord) (s : State) : Host.Outcome State Fault Refusal :=
  .next (finish (whenReported (takeZone k w) s))

/-- STAT_CLOSING_WORD (R75, R76). -/
def execStatClosingWord (w : BusWord) (s : State) : Host.Outcome State Fault Refusal :=
  .next (finish (whenReported (takeClosing w) s))

end Sys2Proof.Machine
end

