-- ==== Sys2Proof/Machine/Snoop.lean ====
section
/-! DEFINITION. The words the Pass-Through Path snoops beside the STAT words (R40, R140 to R143, R146), the classification of a
written word (R139), and the meanings of the four rows of snooped words. -/

namespace Sys2Proof.Machine

/-- A snooped word not acted on, or an overwrite: BUS_ANOMALY raised (R143). -/
def busAnomaly (s : State) : State := raiseEvent .busAnomaly s

/-- A word is whole and has good parity (R139). -/
def BusWord.wholeGood (w : BusWord) : Bool := Sys2Proof.BusWord.whole w && Sys2Proof.BusWord.good w

/-- One argument latch set (R140). -/
def Path.setArg (p : Path) (i : ArgIndex) (v : Word) : Path :=
  match i with
  | .first => { p with arg1 := v }
  | .second => { p with arg2 := v }
  | .third => { p with arg3 := v }

/-- One argument latch read (R140). -/
def Path.arg (p : Path) : ArgIndex → Word
  | .first => p.arg1
  | .second => p.arg2
  | .third => p.arg3

/-- An argument word handed on (R140). -/
def takeArgument (i : ArgIndex) (w : BusWord) (s : State) : State :=
  if w.empty then s
  else if BusWord.wholeGood w then s.modPath fun p => p.setArg i w.data
  else busAnomaly s

/-- A consumer index word handed on (R142). Without a LOG window in force a damaged one raises nothing either: the sentence on words
written then is taken before the one on damaged words (L40). -/
def takeConsumer (w : BusWord) (s : State) : State :=
  if w.empty then s
  else
    match s.path.capacity with
    | none => s
    | some n =>
      if BusWord.wholeGood w ∧ w.data.toNat < n then s.modPath fun p => { p with consumer := some w.data.toNat }
      else busAnomaly s

/-- A command word that is partial or has bad parity is not handed on: BUS_ANOMALY is raised once (R141). -/
def takeDamaged (w : BusWord) (s : State) : State :=
  if w.empty ∨ BusWord.wholeGood w then s else busAnomaly s

/-- A PLAN word handed on, acted on when a byte of it is enabled (R40). -/
def takePlanWord (addr : Nat) (enables : BitVec 4) (s : State) : State := if enables = 0 then s else planWritten addr s

/-! ### Classification (R138, R139) -/

/-- What a word of a write is, by its address (R138, R139). -/
inductive WordRole where
  | command
  | argument (index : ArgIndex)
  | consumer
  | status (group : Nat)
  | orderRing
  | plan
  | statHeader
  | statZone (zone : Fin 32)
  | statClosing
  | log
  | ordinary
  deriving DecidableEq, Repr, Inhabited

/-- The role of a word at an offset of the CONTROL window (R138). -/
def controlRole (off : Nat) : WordRole :=
  if off = 0x000 then .command
  else if off = 0x004 then .argument .first
  else if off = 0x008 then .argument .second
  else if off = 0x00C then .argument .third
  else if off = 0x010 then .consumer
  else if 0x200 ≤ off ∧ off < 0x280 then .status ((off - 0x200) / 32)
  else if 0x280 ≤ off ∧ off < 0x300 then .orderRing
  else .ordinary

/-- The role of a word with an index in the STAT window (R69, R139). -/
def statRole (i : Nat) : WordRole :=
  if i = 0 then .statHeader
  else if h : i - 1 < 32 then .statZone ⟨i - 1, h⟩
  else if i = 33 then .statClosing
  else .ordinary

/-- The base of an optional window, 0 without one. -/
def windowBase (w : Option Window) : Nat :=
  match w with
  | none => 0
  | some w => w.base

/-- The role of a word by its own address (R139). -/
def classify (p : Path) (a : Nat) : WordRole :=
  if (controlWindow p.controlBase).holds a then controlRole (a - p.controlBase)
  else if inWindow p.plan a then .plan
  else if inWindow p.stat a then statRole ((a - windowBase p.stat) / 4)
  else if inWindow p.log a then .log
  else .ordinary

/-- The dirty mark of a group of the status record set (R165). -/
def markDirty (group : Nat) (s : State) : State := s.modEngine fun e => { e with dirty := e.dirty.set group true }

/-- What handing the words of one write on has reached: the state, whether an event has been taken, whether what follows the last one
has still to be done, the command word that waits for the last word (R141), and whether the transaction's overwrite has been raised
(R146). -/
structure Handing where
  state   : State
  events  : Bool
  taken   : Bool
  command : Option Word
  raised  : Bool

/-- What follows the event taken, before the next word is handed on: each word is a separate event (R139; L18). A refetch that the
event calls for is not among it (L47). -/
def Handing.settled (h : Handing) : Handing := if h.taken then { h with state := settleWord h.state, taken := false } else h

/-- The state once every word has been handed on and all that follows their events, the fetches wanted among it, has been done. -/
def Handing.done (h : Handing) : State := if h.events then settle h.state else h.state

/-- A word event: its effect. -/
def Handing.event (h : Handing) (f : State → State) : Handing := { h with state := f h.state, events := true, taken := true }

/-- The overwrite judgement of a word: BUS_ANOMALY once for the transaction (R146). -/
def judgeOverwrite (a : Nat) (h : Handing) : Handing :=
  if h.raised then h
  else if h.state.path.underWrite.any fun r => r.holds a then { h.event busAnomaly with raised := true }
  else h

/-- A command word handed on: remembered until the last word when whole and good, else damaged (R141). -/
def handCommand (w : BusWord) (h : Handing) : Handing :=
  if BusWord.wholeGood w then { h with command := some w.data } else h.event (takeDamaged w)

/-- A word handed to the owner of its role (R139). -/
def handRole (a : Nat) (w : BusWord) (h : Handing) : WordRole → Handing
  | .command => handCommand w h
  | .argument i => h.event (takeArgument i w)
  | .consumer => h.event (takeConsumer w)
  | .status g => judgeOverwrite a { h with state := markDirty g h.state }
  | .orderRing => judgeOverwrite a h
  | .plan => h.event (takePlanWord a w.enables)
  | .statHeader => h.event (whenReported (takeHeader w))
  | .statZone k => h.event (whenReported (takeZone k w))
  | .statClosing => h.event (whenReported (takeClosing w))
  | .log => judgeOverwrite a h
  | .ordinary => h

/-- One word of a completed write handed on, unless none of its bytes is enabled (R139). The words of one write are taken before a
refetch that one of them calls for is requested, so that no later word of the write marks that fetch, as section 2.12 shows an
eight-word write to a watched slot (R42). DEDUCED (L47). -/
def handWord (a : Nat) (w : BusWord) (h : Handing) : Handing :=
  if w.empty then h else handRole a w h.settled (classify h.state.path a)

/-- The words of a completed write handed on in order of address (R139). -/
def handWords : List Nat → List BusWord → Handing → Handing
  | a :: as, w :: ws, h => handWords as ws (handWord a w h)
  | _, _, h => h

/-- The command of a command word, with the sequence number, taken (R141, R180). -/
def takeCommandWord (w : Word) (s : State) : State :=
  takeCommand (decodeCommandWord w).1 (decodeCommandWord w).2 s

/-- All that a completed write hands on: its words, then the command, if it carries one (R139, R141). What follows the last of
these events is the step's own end. -/
def handWrite (as : List Nat) (ws : List BusWord) (s : State) : State :=
  let h := handWords as ws { state := s, events := false, taken := false, command := none, raised := false }
  match h.command with
  | none => h.state
  | some w => takeCommandWord w h.done

/-! ### Meanings -/

/-- COMMAND_WORD_DAMAGED (R141). -/
def execCommandWordDamaged (w : BusWord) (s : State) : Host.Outcome State Fault Refusal :=
  .next (finish (outsideReset (takeDamaged w) s))

/-- ARGUMENT_WORD_WRITE (R140). -/
def execArgumentWordWrite (i : ArgIndex) (w : BusWord) (s : State) : Host.Outcome State Fault Refusal :=
  .next (finish (outsideReset (takeArgument i w) s))

/-- CONSUMER_INDEX_WRITE (R142). -/
def execConsumerIndexWrite (w : BusWord) (s : State) : Host.Outcome State Fault Refusal :=
  .next (finish (takeConsumer w s))

/-- PLAN_WORD_WRITE (R40). -/
def execPlanWordWrite (a : Addr) (enables : BitVec 4) (s : State) : Host.Outcome State Fault Refusal :=
  .next (finish (takePlanWord a.toNat enables s))

end Sys2Proof.Machine
end

