-- ==== Sys2Proof/Machine/Bus.lean ====
section
/-! DEFINITION. Transactions and engine accesses: arrival and completion (spec 08, 09, 10), the decision of a CONFIGURE
(R177 to R179), the time events of the order queue, and their meanings. -/

namespace Sys2Proof.Machine

/-! ### CONFIGURE's decision (R177 to R179) -/

/-- A PLAN window other than the one in force: the cache emptied, the plan not loaded, PLAN_FAULT cleared (R49). -/
def changePlanWindow (w : Window) (s : State) : State :=
  if s.path.plan = some w then s
  else requestStatus (s.modCache fun c => { c.emptied with loaded := none, fault := none })

/-- An accepted configuration block put in force, block by block (R179). -/
def applyConfig (b : ConfigBlock) (s : State) : State :=
  let t := changePlanWindow b.plan s
  let t := t.modPath fun p => { p with plan := some b.plan, stat := some b.stat, log := some b.log, consumer := none }
  let t := setAssembler .idle t
  let t := t.modEngine fun e => { e with producer := 0, lost := 0 }
  let t := t.modConfig fun _ => { settings := b.settings, tuning := some b.tuning }
  if t.sched.runState = .unconfigured then setRunState .stopped t else t

/-- The 64 words judged and CONFIGURE decided (R177 to R179). The decision restarts the session timer with the limit that was in
force (L29). -/
def decideConfigure (ws : List BusWord) (s : State) : State :=
  match judgeConfig s.path.controlBase ws with
  | .error r => decideLong r s
  | .ok b => applyConfig b.1 (decideLong b.2 s)

/-! ### Completion of an engine access (R158, R164 to R169) -/

/-- The session opens (R113): the marks shown leave the pending set, the timer starts, the lines are those of OPEN. The status
record shows the session state and the pending set, so that a STATUS_WRITE is requested (R161; L26). -/
def openSession (shown : BitVec 8) (s : State) : State :=
  requestStatus ((driveLines true false false s).modSession fun x =>
    { x with
      state := .open
      pendingSet := x.pendingSet &&& ~~~shown
      timer := some (expiryAfter s.tb.elapsed s.config.settings.sessionLimit)
      sleepTime := none
      phase := .noWake })

/-- The commit access of a status record completes: a marked request waits again (R162), and a wake whose step 4 preceded the
content opens the session (R113). -/
def statusWritten (sv : Service) (s : State) : State :=
  let t := if sv.rewrite then requestStatus s else s
  if sv.opens ∧ t.session.wakeAt .status then openSession sv.shown t else t

/-- The commit access of a log record completes: the producer index advances (R169). -/
def logWritten (s : State) : State :=
  match s.path.capacity with
  | none => s
  | some n => requestStatus (s.modEngine fun e => { e with producer := (e.producer + 1) % n })

/-- The completion of a service's last access (R164, R165, R167, R169). `words` are what its reads returned. -/
def serviceDone (sv : Service) (words : List BusWord) (s : State) : State :=
  match sv.request with
  | .order _ => s
  | .status => statusWritten sv s
  | .log _ => logWritten s
  | .planFetch _ _ => fetchDone words s
  | .configRead => decideConfigure words s

/-- The group copy of a status record after the group's access: the content written, the dirty mark cleared (R165). -/
def Engine.groupWritten (e : Engine) (a : EngineAccess) : Engine :=
  match a.group with
  | none => e
  | some g => { e with copies := e.copies.set g (some (a.words.map BusWord.data)), dirty := e.dirty.set g false }

/-- What an engine access does at the RAM (R150). -/
def engineRam (a : EngineAccess) (s : State) : State :=
  if a.write then s.modRam fun m => writeWords m a.addrs a.words else s

/-- The words an engine read returns (R150). -/
def engineWords (a : EngineAccess) (s : State) : List BusWord := if a.write then [] else readWords s.ram a.addrs

/-- The service goes on after one of its accesses: ended, at its next access, or done (R162, R163, R164). -/
def serviceAfter (sv : Service) (a : EngineAccess) (words : List BusWord) (s : State) : State :=
  if sv.ended then leaveList a.record (s.modEngine fun e => { e with service := none })
  else
    match sv.todo.tail with
    | [] => serviceDone sv (sv.got ++ words) (s.modEngine fun e => { e with service := none })
    | next :: rest =>
      askForAccess (s.modEngine fun e =>
        { e with service := some { sv with todo := next :: rest, got := sv.got ++ words } })

/-- An engine access completes (R158): the RAM has done it, a commit word's record leaves the list, the engine goes on. -/
def engineComplete (a : EngineAccess) (s : State) : State :=
  let words := engineWords a s
  let t := ((engineRam a s).modPort fun q => { q with access := .noAccess }).modEngine fun e => e.groupWritten a
  let t := if a.commit then leaveList a.record t else t
  match t.engine.service with
  | none => t
  | some sv => serviceAfter sv a words t

/-- The engine access in progress completes, when there is one. -/
def engineCompleteNow (s : State) : State :=
  match s.port.access with
  | .engine a => engineComplete a s
  | .pass _ => s
  | .noAccess => s

/-- The request in service is a PLAN_FETCH (R167). -/
def servesFetch (s : State) : Bool :=
  match s.engine.service with
  | none => false
  | some sv =>
    match sv.request with
    | .planFetch _ _ => true
    | _ => false

/-- The request in service is a CONFIG_READ at its eighth read (R167). -/
def servesLastConfigRead (s : State) : Bool :=
  match s.engine.service with
  | none => false
  | some sv => decide (sv.request = .configRead) && decide (sv.todo.length ≤ 1)

/-! ### Transactions (R122, R136, R139, R145, R147) -/

/-- A transaction is outstanding: held, waiting or in progress (R151). -/
def outstanding (s : State) : Bool :=
  s.path.held.isSome || s.port.waitPass.isSome ||
    match s.port.access with
    | .pass _ => true
    | .engine _ => false
    | .noAccess => false

/-- A transaction asks the port, and a read that touches a record under write is held (R136, R145). -/
def recordArrival (tx : Transaction) (s : State) : State :=
  judgeHolds (s.modPort fun q => { q with waitPass := some tx })

/-- A transaction arrives (R136): a stray access raises BUS_ANOMALY (R122); in power-on reset the path is transparent (R147). -/
def arrive (tx : Transaction) (s : State) : State :=
  if s.pins.inReset then s.modPort fun q => { q with waitPass := some tx }
  else
    let t := recordArrival tx s
    if s.session.asleep then busAnomaly t else t

/-- A transaction is made (R136). The controller makes one at a time: one given while another is outstanding is the one that it
makes the moment that one completes (R156; L43), and a third does not occur (L5). -/
def makeTransaction (tx : Transaction) (s : State) : State :=
  if outstanding s then
    match s.path.following with
    | none => s.modPath fun p => { p with following := some tx }
    | some _ => s
  else arrive tx s

/-- The transaction that the controller makes the moment the one before completes: it arrives once that completion has been handed
on, and so waits at the grant that follows (R156, R158; L43). -/
def followOn (s : State) : State :=
  match s.path.following with
  | none => s
  | some tx => makeTransaction tx (s.modPath fun p => { p with following := none })

/-- A pass-through access completes (R139, R150): a read returns its words; a write's words are in memory and are then handed on,
but for power-on reset (R147). -/
def passComplete (tx : Transaction) (s : State) : State :=
  let t := s.modPort fun q => { q with access := .noAccess }
  let as := wordAddrs tx.addr (txLength tx)
  match tx.transfer with
  | .read _ => t.modPath fun p => { p with returned := readWords t.ram as }
  | .write ws =>
    let u := t.modRam fun m => writeWords m as ws
    if u.pins.inReset then u else handWrite as ws u

/-- The pass-through access in progress completes, when there is one, and the transaction made at that moment arrives. -/
def passCompleteNow (s : State) : State :=
  match s.port.access with
  | .pass tx => followOn (passComplete tx s)
  | .engine _ => s
  | .noAccess => s

/-! ### Due times and deadlines as events (R19, R22) -/

/-- The first ISSUED entry that has come due. -/
def firstDueEntry (s : State) : Option Entry := s.sched.queue.find? fun e => e.isDue s.tb.time

/-- The first ISSUED entry that has come due is judged (R19). -/
def dueNow (s : State) : State :=
  match firstDueEntry s with
  | none => s
  | some e => comeDue e s

/-- A TRIGGERED entry whose statistics deadline the present time has reached (R22). -/
def Entry.deadlineReached (e : Entry) (now : Time) : Bool :=
  e.triggered &&
    match e.deadline with
    | none => false
    | some d => notLater d now

/-- The first TRIGGERED entry, in queue order, at its deadline. The spec orders entries that come due together by the queue (R19) and
says nothing of deadlines: the order is the model's choice (L37). -/
def firstAtDeadline (s : State) : Option Entry := s.sched.queue.find? fun e => e.deadlineReached s.tb.time

/-- The first TRIGGERED entry at its deadline retires UNMETERED, TIMEOUT or SETTLING (R22). -/
def deadlineNow (s : State) : State :=
  match firstAtDeadline s with
  | none => s
  | some e => retireNow e .unmetered (settledCause e .timeout) none false s

/-! ### Meanings -/

/-- DUE_TIME (R19). -/
def execDueTime (s : State) : Host.Outcome State Fault Refusal := .next (finish (dueNow s))

/-- STATISTICS_DEADLINE (R22). -/
def execStatisticsDeadline (s : State) : Host.Outcome State Fault Refusal := .next (finish (deadlineNow s))

/-- PASS_THROUGH_ARRIVAL (R136, R156; L43). -/
def execPassThroughArrival (tx : Transaction) (s : State) : Host.Outcome State Fault Refusal :=
  .next (finish (makeTransaction tx s))

/-- PASS_THROUGH_COMPLETION (R139). -/
def execPassThroughCompletion (s : State) : Host.Outcome State Fault Refusal := .next (finish (passCompleteNow s))

/-- ENGINE_ACCESS_COMPLETE (R158). -/
def execEngineAccessComplete (s : State) : Host.Outcome State Fault Refusal := .next (finish (engineCompleteNow s))

/-- PLAN_FETCH_COMPLETE (R43): the read of a PLAN_FETCH completes. -/
def execPlanFetchComplete (s : State) : Host.Outcome State Fault Refusal :=
  .next (finish (guarded (servesFetch s) engineCompleteNow s))

/-- CONFIG_READ_COMPLETE (R177): the eighth read of a CONFIG_READ completes. -/
def execConfigReadComplete (s : State) : Host.Outcome State Fault Refusal :=
  .next (finish (guarded (servesLastConfigRead s) engineCompleteNow s))

end Sys2Proof.Machine
end

