-- ==== Sys2Proof/Machine/Tick.lean ====
section
/-! DEFINITION. What the block does with no command waiting: the timed event that is due, or one tick of the time base
(R131; L4). -/

namespace Sys2Proof.Machine

/-- One tick of the oscillator source: the time value and the elapsed count advance together (R131), and a tick of the RC
oscillator counts towards the crystal's being judged running (R132). -/
def TimeBase.ticked (y : TimeBase) : TimeBase :=
  { y with
    time := y.time + 1
    elapsed := y.elapsed + 1
    sinceStop := if y.source = .rc then min 1024 (y.sinceStop + 1) else y.sinceStop }

/-- One tick and what follows from it. -/
def tick (s : State) : State := finish (s.modTb TimeBase.ticked)

/-- The source is a crystal that does not run: it has not started at power-on, and gives no tick (R132). -/
def TimeBase.silent (y : TimeBase) : Bool := decide (y.source = .crystal) && !y.crystalRunning

/-- The timed events that are due, in the order the model takes them (L4), each with its effect; the battery sense is the pin's
(L6). A crystal that has not started at power-on is judged stopped before any tick (R132; L42). -/
def dueEvent (s : State) : Option (State → State) :=
  if s.tb.silent then some crystalStopped
  else if (firstDueEntry s).isSome then some dueNow
  else if (firstAtDeadline s).isSome then some deadlineNow
  else if sessionExpired s then some (forceSleep s.pins.batterySense)
  else if timerDue s.tb.elapsed s.supply.recheck then some (recheck s.pins.batterySense)
  else if timerDue s.tb.elapsed s.session.holdoff then some fun t => t.modSession fun x => { x with holdoff := none }
  else none

/-- A step on an empty queue (L4): held in power-on reset nothing moves (R147); else the timed event due, or one tick. -/
def idle (s : State) : State :=
  if s.pins.inReset then s
  else
    match dueEvent s with
    | some f => finish (f s)
    | none => tick s

end Sys2Proof.Machine
end

