-- ==== Sys2Proof/Machine/Dispatch.lean ====
section
/-! DEFINITION. One arm for each command. -/

namespace Sys2Proof.Machine

def exec (i : Instr) (s : State) : Host.Outcome State Fault Refusal :=
  match i with
  | .configure seq => Sys2Proof.Machine.execConfigure seq s
  | .configReadComplete => Sys2Proof.Machine.execConfigReadComplete s
  | .setTime seq => Sys2Proof.Machine.execSetTime seq s
  | .trimTime seq => Sys2Proof.Machine.execTrimTime seq s
  | .loadPlan seq => Sys2Proof.Machine.execLoadPlan seq s
  | .setEv seq => Sys2Proof.Machine.execSetEv seq s
  | .start seq => Sys2Proof.Machine.execStart seq s
  | .stop seq => Sys2Proof.Machine.execStop seq s
  | .arm seq => Sys2Proof.Machine.execArm seq s
  | .sleep seq => Sys2Proof.Machine.execSleep seq s
  | .clear seq => Sys2Proof.Machine.execClear seq s
  | .clearPlanBit => Sys2Proof.Machine.execClearPlanBit s
  | .clearStatisticsBit => Sys2Proof.Machine.execClearStatisticsBit s
  | .clearEventBit => Sys2Proof.Machine.execClearEventBit s
  | .clearTimeBit => Sys2Proof.Machine.execClearTimeBit s
  | .resetPart seq straps => Sys2Proof.Machine.execResetPart seq straps s
  | .unassignedCommandCode code seq => Sys2Proof.Machine.execUnassignedCommandCode code seq s
  | .commandWordDamaged word => Sys2Proof.Machine.execCommandWordDamaged word s
  | .argumentWordWrite index word => Sys2Proof.Machine.execArgumentWordWrite index word s
  | .consumerIndexWrite word => Sys2Proof.Machine.execConsumerIndexWrite word s
  | .planWordWrite addr enables => Sys2Proof.Machine.execPlanWordWrite addr enables s
  | .statHeaderWord word => Sys2Proof.Machine.execStatHeaderWord word s
  | .statZoneWord zone word => Sys2Proof.Machine.execStatZoneWord zone word s
  | .statClosingWord word => Sys2Proof.Machine.execStatClosingWord word s
  | .dueTime => Sys2Proof.Machine.execDueTime s
  | .statisticsDeadline => Sys2Proof.Machine.execStatisticsDeadline s
  | .planFetchComplete => Sys2Proof.Machine.execPlanFetchComplete s
  | .scheduledWake => Sys2Proof.Machine.execScheduledWake s
  | .idleWake => Sys2Proof.Machine.execIdleWake s
  | .resetHoldExpiry battery => Sys2Proof.Machine.execResetHoldExpiry battery s
  | .sessionTimerExpiry battery => Sys2Proof.Machine.execSessionTimerExpiry battery s
  | .alertHoldoffExpiry => Sys2Proof.Machine.execAlertHoldoffExpiry s
  | .recheckTimerExpiry battery => Sys2Proof.Machine.execRecheckTimerExpiry battery s
  | .crystalStop => Sys2Proof.Machine.execCrystalStop s
  | .crystalRunning => Sys2Proof.Machine.execCrystalRunning s
  | .powerOnReset pins => Sys2Proof.Machine.execPowerOnReset pins s
  | .passThroughArrival tx => Sys2Proof.Machine.execPassThroughArrival tx s
  | .passThroughCompletion => Sys2Proof.Machine.execPassThroughCompletion s
  | .engineAccessComplete => Sys2Proof.Machine.execEngineAccessComplete s
  | .retentionEntryComplete battery => Sys2Proof.Machine.execRetentionEntryComplete battery s
  | .retentionExitComplete => Sys2Proof.Machine.execRetentionExitComplete s
  | .wakePulseEnd battery => Sys2Proof.Machine.execWakePulseEnd battery s
  | .triggerPulseEnd => Sys2Proof.Machine.execTriggerPulseEnd s

end Sys2Proof.Machine
end

