-- ==== Sys2Proof/Machine/Step.lean ====
section
/-! DEFINITION. One step: the command at the front of the queue, or the time base when none waits. -/

namespace Sys2Proof.Machine

/-- The command at the front of the queue runs on the state with the queue's rest; an empty queue is the time base's (L4). -/
def step (s : State) : Host.Outcome State Fault Refusal :=
  match s.pending with
  | c :: rest => exec c (s.setPending rest)
  | [] => .next (idle s)

/-- The command that a word spells put at the front of the queue; the table spells none (L3). -/
def State.withFetchWord (s : State) (nbits w : Nat) : State :=
  match decodeTableWord nbits w with
  | some c => s.setPending (c :: s.pending)
  | none => s

end Sys2Proof.Machine
end

