-- ==== Sys2Proof/Safety.lean ====
section
/-! DEFINITION. What claims about the machine say: the parts of a block that a step's consequences leave alone, the requests that
stand, the conditions under which nothing follows, and the invariants every step keeps. -/

namespace Sys2Proof.Machine

/-! ### Views of a block -/

/-- The pins apart from the three controller lines: straps, battery sense, TRIGGER, reset (spec 00 section 1.7). -/
def Pins.board (p : Pins) : Pins := { p with pwrEn := false, wake := false, ctrlReset := false }

/-- The Pass-Through Path apart from the records under write and the held read: window table, latches, data returned (R137,
R140, R142). -/
def Path.table (p : Path) : Path := { p with underWrite := [], held := none }

/-- The Statistics Intake apart from the latched buffer: assembler and sticky flags (R71). -/
def Intake.shown (x : Intake) : Intake := { x with latched := none }

/-- The Session Controller apart from what an event raised in an awake session changes: its counts, the pending set and the
deferred alert mark (R107, R119). -/
def Session.course (x : Session) : Session := { x with counts := .zero, pendingSet := 0, deferredAlert := false }

/-- The event counts and pending marks of a session, those of LOG_LOST apart: the one event that a step's consequences can raise
(R119, R169). -/
def Session.tally (x : Session) : PerClass × BitVec 8 :=
  (x.counts.set .logLost 0, x.pendingSet &&& ~~~EventClass.logLost.mark)

/-- What the Record Engine holds beside its queue, its update count and its lost-record count: the producer index, the copies of
the status record and their dirty marks (R165, R168). -/
def Engine.kept (e : Engine) : Nat × List (Option (List Word)) × List Bool := (e.producer, e.copies, e.dirty)

/-! ### What a step's consequences leave alone -/

/-- `b` holds what `a` holds in every part of the state that issues, fetches, wakes, the engine's services and the port's grants
(the consequences that `finish` takes after a command's own effect) never change. -/
structure Fixed (a b : State) : Prop where
  board     : b.pins.board = a.pins.board
  tb        : b.tb = a.tb
  supply    : b.supply = a.supply
  shown     : b.stats.shown = a.stats.shown
  kept      : b.engine.kept = a.engine.kept
  tally     : b.session.tally = a.session.tally
  table     : b.path.table = a.path.table
  cmd       : b.cmd = a.cmd
  config    : b.config = a.config
  ram       : b.ram = a.ram
  freeCount : b.freeCount = a.freeCount
  pending   : b.pending = a.pending

/-- `b` holds the run of `a`: scheduler, segment and exposure. -/
structure SameRun (a b : State) : Prop where
  sched : b.sched = a.sched
  seg   : b.seg = a.seg
  expo  : b.expo = a.expo

/-- `b` holds the session of `a` and its lines, event counts and pending marks apart. -/
structure SameSession (a b : State) : Prop where
  course : b.session.course = a.session.course
  pins   : b.pins = a.pins

/-- A STATUS_WRITE stands in the engine's queue, waiting or in service (R161). -/
def StatusStands (s : State) : Prop :=
  s.engine.waiting.any Request.isStatus = true ∨ s.engine.service.any (fun sv => sv.request.isStatus) = true

/-- No issue can be made: none is owed, or the one at the head waits for the current segment's entry (R12, R14). -/
def IssuesWait (s : State) : Prop :=
  s.sched.owed = [] ∨
    ((s.sched.heldCopy = none ∨ s.seg.decided = none) ∧ readableCopy s.cache s.seg.current = none)

/-- Nothing is to be issued: no issue can be made, and the run state agrees with the cache (R12, R14, R44, R48). -/
def NoIssue (s : State) : Prop :=
  IssuesWait s ∧ (s.sched.runState = .running → watchedFault s = false) ∧
    (s.sched.runState = .faultHold → s.cache.hasFault = true)

/-- No fetch is to be requested: one is in flight, or no load walk stands and no entry wants one (R35, R39, R42). -/
def NoFetch (s : State) : Prop := s.cache.fetch.isSome = true ∨ (s.cache.walk = none ∧ wantedFetch s = none)

/-- No event can begin an alert wake: the alert holdoff timer runs, or no event class is of a level above the threshold (R120). -/
def AlertsOff (s : State) : Prop := s.session.holdoff ≠ none ∨ ∀ k, s.config.settings.alerts k = false

/-- No alert can begin a wake: the session is awake, or the supply CRITICAL, or the alert holdoff timer runs, or no class of events is
of a level that alerts (R111, R120). -/
def Calm (a : State) : Prop := a.session.asleep = false ∨ a.supply.state = .critical ∨ AlertsOff a

/-- No wake begins between `a` and what follows from it, `b`: the session is awake, or the supply CRITICAL; or the alert holdoff timer
runs or no class of events is of a level that alerts, and in the state left neither the scheduled nor the idle condition holds (R111,
R120). -/
def NoWake (a b : State) : Prop :=
  a.session.asleep = false ∨ a.supply.state = .critical ∨
    (AlertsOff a ∧ scheduledReached b = false ∧ idleReached b = false)

/-- An entry of the order queue apart from its discount mark (R9, R66). -/
def Entry.plain (e : Entry) : Entry := { e with discounted := false }

/-- `b` is `a` after `n` orders have been issued, whichever issues they were (R4, R13, R23, R25, R92). Issues trigger no entry, miss
none and retire none UNMETERED. They leave a run state that does not capture, the held metering results, and the hold counter but for
the 0 of a segment entered. An entry in the queue was there or is one of the orders issued. Unless an order was voided or the plan
ended, the entries that were there still are, in their places, with the last retired frame number as it was, and a capturing run owes
`n` issues fewer. -/
structure Issued (n : Nat) (a b : State) : Prop where
  rest      : a.sched.runState.capturing = false → b.sched.runState = a.sched.runState
  counters  : b.sched.triggers = a.sched.triggers ∧ b.sched.misses = a.sched.misses ∧
    b.sched.unmetered = a.sched.unmetered
  taken     : b.sched.depth = a.sched.depth ∧ b.sched.dailyFrom = a.sched.dailyFrom ∧ b.sched.dailyTo = a.sched.dailyTo
  held      : b.expo.held = a.expo.held
  hold      : b.seg.hold = a.seg.hold ∨ b.seg.hold = 0
  nextFrame : b.sched.nextFrame = a.sched.nextFrame + BitVec.ofNat 32 n
  queue     : ∀ e ∈ b.sched.queue, (∃ x ∈ a.sched.queue, e.plain = x.plain) ∨
    ∃ k < n, e.frame = a.sched.nextFrame + BitVec.ofNat 32 k ∧ e.triggered = false ∧ e.armed = false
  voids     : a.sched.voids ≤ max32 → a.sched.voids ≤ b.sched.voids ∧ b.sched.voids ≤ max32
  standing  : a.sched.voids < max32 → b.sched.voids = a.sched.voids → b.sched.runState ≠ .stopped →
    b.sched.lastRetired = a.sched.lastRetired ∧ b.sched.queue.length = a.sched.queue.length + n ∧
    (b.sched.queue.take a.sched.queue.length).map Entry.plain = a.sched.queue.map Entry.plain ∧
    (b.sched.runState.capturing = true → b.sched.owed = a.sched.owed.drop n)

/-- The session and its lines hold across an operation, event counts and pending marks apart, or an alert has begun a wake: the session
slept, the supply was not CRITICAL, an event class alerts and the alert holdoff timer was stopped; the session is WAKING with cause ALERT,
or FORCED_RECOVERY under that mark, not late, and that timer runs (R111, R118, R120, R121). -/
def Undisturbed (a b : State) : Prop :=
  SameSession a b ∨
    (¬Calm a ∧ ∃ phase, b.session.course =
      { a.session.course with
        state := .waking, cause := if a.session.forcedRecovery then .forcedRecovery else .alert, late := false
        holdoff := some (a.tb.elapsed + BitVec.ofNat 48 (a.config.settings.alertHoldoff * 1024)), phase := phase })

/-- A wake condition that holds in what follows from `a`, `b`, finds no sleeping session: where the session slept and the supply was not
CRITICAL it has begun a wake, with cause FORCED_RECOVERY under that mark. Where no event can have begun an alert wake before it, the wake
is that condition's: the scheduled one, late past its time, else the idle one (R111, R118; that the conditions are judged at the end of
every event, and an alert before them, is L35). -/
def WakesAtOnce (a b : State) : Prop :=
  a.session.asleep = true → a.supply.state ≠ .critical → scheduledReached b = true ∨ idleReached b = true →
    b.session.state = .waking ∧ (a.session.forcedRecovery = true → b.session.cause = .forcedRecovery) ∧
      (AlertsOff a →
        (scheduledReached b = true →
          b.session.late = scheduledLate b ∧ (a.session.forcedRecovery = false → b.session.cause = .scheduled)) ∧
        (scheduledReached b = false →
          b.session.late = false ∧ (a.session.forcedRecovery = false → b.session.cause = .idle)))

/-- The Plan Cache after the consequences of a step: PLAN_FAULT and the loaded plan stand, and an entry was there, is newly
created, or is the one whose fetch has just been requested (R39, R45, R46). Where no issue is made, that request is the only change: the
entry of the fetch wanted is FETCHING, a FAULT one stays FAULT, its mark is cleared, and its PLAN_FETCH is in the engine's queue. -/
structure CacheFollows (a b : State) : Prop where
  fields  : b.cache.fault = a.cache.fault ∧ b.cache.loaded = a.cache.loaded
  entries : ∀ x ∈ b.cache.entries, x ∈ a.cache.entries ∨ x = newEntry x.slot ∨
    (a.cache.fetch = none ∧ b.cache.fetch = some { slot := x.slot, orphan := false })
  fetched : NoIssue a → a.cache.fetch = none → a.cache.walk = none → ∀ slot, wantedFetch a = some slot →
    b.cache =
      { a.cache with
        fetch := some { slot := slot, orphan := false }
        entries :=
          a.cache.entries.map fun e =>
            if e.slot = slot then
              { e with state := if e.state = .fault then .fault else .fetching, writtenDuringFetch := false }
            else e } ∧
    Request.planFetch slot (a.path.planBase + 32 * slot) ∈ b.engine.queued

/-- `b` follows from `a` by the consequences of a step alone: what they never change is as `a` has it; the run goes on by issues
alone, and is as `a` has it where none can be made; the Plan Cache changes by the fetch wanted alone where none is made; the
session is as `a` has it where no wake begins, and a wake condition that holds begins one at once; and the latched record is the one of
`a` while an issue stays owed, and freed once none is (R12, R82, R111). -/
structure Follows (a b : State) : Prop where
  fixed   : Fixed a b
  issued  : ∃ n, Issued n a b
  run     : NoIssue a → SameRun a b
  resting : a.sched.runState.capturing = false → SameRun a b
  fetches : CacheFollows a b
  cache   : NoIssue a → NoFetch a → b.cache = a.cache
  session : NoWake a b → SameSession a b
  wakes   : WakesAtOnce a b
  buffer  : b.stats.latched = if b.sched.owed = [] then none else a.stats.latched

/-- `b` is what the issues made inside a step leave of `a`, before the rest of the step (R12, R24): what they never change is as `a`
has it, the run goes on by issues alone and is as `a` has it where none can be made, the cache gains new entries alone, and the latched
record stays unless they have ended or suspended the run, which drops the issues and frees it (R82). -/
structure IssuesMade (a b : State) : Prop where
  fixed   : Fixed a b
  issued  : ∃ n, Issued n a b
  run     : NoIssue a ∨ a.sched.runState.capturing = false → SameRun a b
  fields  : b.cache.fault = a.cache.fault ∧ b.cache.loaded = a.cache.loaded ∧ b.cache.fetch = a.cache.fetch
  entries : ∀ x ∈ b.cache.entries, x ∈ a.cache.entries ∨ x = newEntry x.slot
  session : Undisturbed a b
  buffer  : b.stats.latched = a.stats.latched ∨
    (a.sched.runState.capturing = true ∧ b.sched.runState.capturing = false ∧ b.sched.owed = [] ∧ b.stats.latched = none)

/-- `b` follows from `a` between two words of one write: as in `Follows`, but that no fetch is requested, an entry created for an issue
apart (R42, R139). -/
structure WordSettled (a b : State) : Prop where
  fixed   : Fixed a b
  issued  : ∃ n, Issued n a b
  run     : NoIssue a ∨ a.sched.runState.capturing = false → SameRun a b
  fields  : b.cache.fault = a.cache.fault ∧ b.cache.loaded = a.cache.loaded ∧ b.cache.fetch = a.cache.fetch
  entries : ∀ x ∈ b.cache.entries, x ∈ a.cache.entries ∨ x = newEntry x.slot
  cache   : NoIssue a → b.cache = a.cache
  session : NoWake a b → SameSession a b
  buffer  : b.stats.latched = if b.sched.owed = [] then none else a.stats.latched

/-- `b` differs from `a` only in what `Follows` does not look at: the engine's queue and counts, the port, the records under
write, the held read, LOG_LOST counts and marks. -/
structure Near (a b : State) : Prop where
  fixed   : Fixed a b
  run     : SameRun a b
  cache   : b.cache = a.cache
  session : Undisturbed a b
  latched : b.stats.latched = a.stats.latched

/-- A command decided with a result, its own effect having left `a`: the last decided command, and by an acceptance in OPEN the
session timer, restarted (R116, R171). -/
def decided (seq : BitVec 8) (r : Result) (a : State) : State :=
  let b := { a with cmd := { a.cmd with lastDecided := some (seq, r) } }
  if r.accepts then restartTimer b else b

/-- A row's event completes and its own effect leaves `a`: the next state follows from `a`. -/
def Leaves (c : Instr) (s a : State) : Prop := ∃ t, exec c s = .next t ∧ Follows a t

/-- The same, with a STATUS_WRITE requested. -/
def Reports (c : Instr) (s a : State) : Prop := ∃ t, exec c s = .next t ∧ StatusStands t ∧ Follows a t

/-- A command is decided with a result, and its own effect leaves `a`. -/
def Decides (c : Instr) (s : State) (seq : BitVec 8) (r : Result) (a : State) : Prop := Reports c s (decided seq r a)

/-- A sticky flag raised: set, with STATS_ERROR counted and pending (R83, R119). -/
def flagged (f : StickyFlag) (s : State) : State :=
  countEvent .statsError { s with stats := { s.stats with flags := s.stats.flags.raise f } }

/-- A sticky flag raised when a condition holds. -/
def flaggedIf (b : Bool) (f : StickyFlag) (s : State) : State := if b then flagged f s else s

/-- A supply sample taken: the pin's reading and the last sample (R127). -/
def sampled (battery : Nat) (s : State) : State :=
  { s with
    pins := { s.pins with batterySense := battery }
    supply := { s.supply with lastSample := min battery 8191 } }

/-- An event counted and pending, with the deferred alert mark of a CLOSING session where its class alerts (R115, R119). -/
def noted (k : EventClass) (s : State) : State :=
  let t := countEvent k s
  if s.session.state = .closing ∧ s.config.settings.wakeThreshold < s.config.settings.wakeLevels.get k then
    { t with session := { t.session with deferredAlert := true } }
  else t

/-- A capturing run that owes no START issue suspended: its state recorded to resume, its owed issues and the transition decided
dropped, the latched record freed; any other run, one that owes a START issue among them, as it is (R7, R130). -/
def suspended (s : State) : State :=
  if s.sched.runState.capturing = true ∧ ∀ o ∈ s.sched.owed, o.isStart = false then
    { s with
      sched :=
        { s.sched with
          runState := .suspended, resumeState := some s.sched.runState, owed := [], heldCopy := none, startRequest := none }
      seg := { s.seg with decided := none }
      stats := { s.stats with latched := none } }
  else s

/-- A suspended run resumed: in its recorded state judged against the cache, owing issues up to D, the first of them marked (R7,
R130). -/
def resumed (s : State) : State :=
  if s.sched.runState = .suspended then
    { s with
      sched :=
        { s.sched with
          resumeState := none
          runState :=
            if s.sched.resumeState = some .faultHold then (if s.cache.hasFault then .faultHold else .running)
            else if watchedFault s then .faultHold else .running
          owed :=
            if s.sched.depth ≤ s.sched.queue.length then []
            else .resumption true :: List.replicate (s.sched.depth - s.sched.queue.length - 1) (.resumption false) } }
  else s

/-- A supply sample taken and judged by the rows of R128 (R127 to R130). A change to CRITICAL starts the recheck timer, counts BATT_CRIT
and suspends the run; a change from CRITICAL to LOW stops that timer, counts BATT_LOW and resumes the run; one from NORMAL to LOW
counts BATT_LOW. -/
def supplyJudged (battery : Nat) (s : State) : State :=
  let mv := min battery 8191
  let c := s.config.settings
  let a := sampled battery s
  let becomes := fun (x : SupplyState) (timer : Option Elapsed) =>
    { a with supply := { state := x, lastSample := mv, recheck := timer } }
  let critical :=
    suspended (noted .battCrit (becomes .critical (some (s.tb.elapsed + BitVec.ofNat 48 (c.recheckPeriod * 1024)))))
  match s.supply.state with
  | .normal => if mv < c.crit then critical else if mv < c.low then noted .battLow (becomes .low none) else a
  | .low => if mv < c.crit then critical else if c.low + c.hyst ≤ mv then becomes .normal none else a
  | .critical => if c.crit + c.hyst ≤ mv then resumed (noted .battLow (becomes .low none)) else a

/-- A run of an entry's retirement, after steps 1 and 2 and 4 of R23: the entry gone, the last retired frame number, the
counters, the hold counter, and one owed issue in a capturing run. -/
def retired (e : Entry) (o : FrameOutcome) (s : State) : State :=
  { s with
    sched :=
      { s.sched with
        queue := s.sched.queue.erase e
        lastRetired := some e.frame
        latestKept := if o = .voided then s.sched.latestKept else laterKept s.sched.latestKept e
        unmetered := if o = .unmetered then min 4294967295 (s.sched.unmetered + 1) else s.sched.unmetered
        misses := if o = .missed then min 4294967295 (s.sched.misses + 1) else s.sched.misses
        voids := if o = .voided then min 4294967295 (s.sched.voids + 1) else s.sched.voids
        owed := if s.sched.runState.capturing then s.sched.owed ++ [.retirement e.frame (o == .metered)] else s.sched.owed }
    seg := { s.seg with hold := holdAfter s.seg.copyRead s.seg.hold e.el e.limit o } }

/-- The last access of a read service is in progress: the access, the service it is the last of, and the words its reads will have
returned when it completes. -/
def LastRead (s : State) (r : Request) (ws : List BusWord) : Prop :=
  ∃ (a : EngineAccess) (sv : Service),
    s.port.access = .engine a ∧ a.write = false ∧ a.commit = false ∧ a.group = none ∧ s.engine.service = some sv ∧
    sv.request = r ∧ sv.todo = [a] ∧ sv.ended = false ∧ ws = sv.got ++ readWords s.ram a.addrs

/-- No LOG_WRITE waits, so that none can be dropped (R169). -/
def NoLogWaiting (s : State) : Prop := s.engine.waiting.any Request.isLog = false

/-- The row of the opcode table that a written word of the PLAN or the STAT window runs, outside the CONTROL window: none where no byte
is enabled, beyond word 33 of the STAT window, or outside both (R69, R139). -/
def rowOfWindowWord (plan stat : Option Window) (a : Nat) (w : BusWord) : Option Instr :=
  if w.empty then none
  else if inWindow plan a then some (.planWordWrite (BitVec.ofNat 24 a) w.enables)
  else
    match stat with
    | none => none
    | some v =>
      let i := (a - v.base) / 4
      if v.holds a = false then none
      else if i = 0 then some (.statHeaderWord w)
      else if h : i - 1 < 32 then some (.statZoneWord ⟨i - 1, h⟩ w)
      else if i = 33 then some (.statClosingWord w)
      else none

/-- `b` is reached from `a` by rows taken in order, each on what its predecessor's own effect, and what follows it between two words of
a write, leave (R139). -/
def RunInOrder : List Instr → State → State → Prop
  | [], a, b => b = a
  | c :: cs, a, b => ∃ x y, Leaves c a x ∧ WordSettled x y ∧ RunInOrder cs y b

/-! ### Invariants -/

/-- The RAM is in its canonical form (L1). -/
def RamCanonical (s : State) : Prop := ramWf s.ram = true

/-- The starvation count is at most 4, and 0 whenever no engine request waits (R157). -/
def StarvationBounded (s : State) : Prop :=
  s.port.starvation ≤ 4 ∧ (s.port.waitEngine = none → s.port.starvation = 0)

/-- The session timer runs in OPEN alone (R116). -/
def TimerRunsInOpen (s : State) : Prop := s.session.timer.isSome = true ↔ s.session.state = .open

/-- The recheck timer runs while the supply state is CRITICAL, and then only (R129). -/
def RecheckRunsInCritical (s : State) : Prop := s.supply.recheck.isSome = true ↔ s.supply.state = .critical

/-- TIME_DEGRADED is set exactly while the source is RC (R131 to R133). -/
def DegradedOnRc (s : State) : Prop := s.tb.degraded = true ↔ s.tb.source = .rc

/-- The wake in progress is a cold one (R112). -/
def Session.coldWake (x : Session) : Bool := decide (x.sleepKind = .off) || x.forcedRecovery

/-- The controller lines of a session, in the order PWR_EN asserted, CTRL_RESET_N asserted, WAKE high (R108, R112). -/
def Session.lines (x : Session) : Bool × Bool × Bool :=
  match x.state with
  | .open => (true, false, false)
  | .closing => (true, false, false)
  | .asleepStandby => (true, false, false)
  | .asleepOff => (false, true, false)
  | .waking =>
    match x.phase with
    | .resetHold => (true, true, false)
    | .wakePulse => (true, false, true)
    | .status => (true, false, false)
    | .memory => if x.coldWake then (false, true, false) else (true, false, false)
    | .noWake => (true, false, false)

/-- The marks of a session agree with its state: an OFF sleep is of kind OFF, a STANDBY sleep is not and carries no
forced-recovery mark, an awake session past the controller step carries none, and a wake has a phase (R107, R112, R118). -/
def Session.coherent (x : Session) : Prop :=
  match x.state with
  | .open => x.forcedRecovery = false
  | .closing => x.forcedRecovery = false
  | .asleepOff => x.sleepKind = .off
  | .asleepStandby => x.coldWake = false
  | .waking =>
    match x.phase with
    | .noWake => False
    | .memory => True
    | .resetHold => x.coldWake = true
    | .wakePulse => x.coldWake = false
    | .status => x.forcedRecovery = false

/-- The controller lines are those of the session state (R108), the session's marks agree with its state, and a wake request
waits at the port only in a wake's first step (R149). -/
def LinesAgree (s : State) : Prop :=
  (s.pins.pwrEn, s.pins.ctrlReset, s.pins.wake) = s.session.lines ∧ s.session.coherent ∧
    (s.port.waitWake = true → s.session.state = .waking ∧ s.session.phase = .memory)

/-- The order book balances: a capturing run holds and owes D orders together, a suspended run owes none and holds at most D, a
run at rest has neither; D is at most 2, now and at the next START (R9, R10, R12). -/
def OrderBookBalances (s : State) : Prop :=
  (s.sched.runState.capturing = true → s.sched.queue.length + s.sched.owed.length = s.sched.depth) ∧
  (s.sched.runState = .suspended → s.sched.owed = [] ∧ s.sched.queue.length ≤ s.sched.depth) ∧
  (s.sched.runState.resting = true → s.sched.queue = [] ∧ s.sched.owed = []) ∧
  s.sched.depth ≤ 2 ∧ (∀ t, s.config.tuning = some t → t.depth ≤ 2)

/-- A request is a PLAN_FETCH. -/
def Request.isFetch : Request → Bool
  | .planFetch _ _ => true
  | _ => false

/-- A request is a CONFIG_READ. -/
def Request.isConfigRead : Request → Bool
  | .configRead => true
  | _ => false

/-- The queue of the Record Engine keeps its limits: 2 ORDER_WRITE, 1 STATUS_WRITE, 3 LOG_WRITE, 1 PLAN_FETCH, 1 CONFIG_READ, and
8 requests in all (R161). -/
def EngineQueueLimits (s : State) : Prop :=
  (s.engine.queued.filterMap Request.orderContent?).length ≤ 2 ∧
  (s.engine.queued.filter Request.isStatus).length ≤ 1 ∧
  (s.engine.queued.filter Request.isLog).length ≤ 3 ∧
  (s.engine.queued.filter Request.isFetch).length ≤ 1 ∧
  (s.engine.queued.filter Request.isConfigRead).length ≤ 1 ∧
  s.engine.queued.length ≤ 8

/-- The reads in the engine's queue are those asked for: a PLAN_FETCH stands only while a fetch is in flight (R39), a CONFIG_READ
only while CONFIGURE is the busy command (R176), and a load walk only while LOAD_PLAN is (R36). -/
def ReadsAgree (s : State) : Prop :=
  (s.cache.fetch = none → s.engine.queued.any Request.isFetch = false) ∧
  ((∀ seq, s.cmd.busy ≠ some (seq, .configure)) → s.engine.queued.any Request.isConfigRead = false) ∧
  (s.cache.walk.isSome = true → ∃ seq, s.cmd.busy = some (seq, .loadPlan))

end Sys2Proof.Machine
end

