-- ==== Sys2Proof/Certificates/Slice0/Obligations.lean ====
section
/-! DEFINITION. The statements for the provers: what each family of commands does, what follows from it, and what every step
keeps. -/

open Sys2Proof Sys2Proof.Machine

/-! ### The machine -/

/-- A step with a command at the front of the queue is that command's `exec` on the state with the queue's rest. -/
def Obligations.StepRunsFrontCommand : Prop :=
  ∀ (c : Instr) (rest : List Instr) (s : State), s.pending = c :: rest → step s = exec c { s with pending := rest }

/-- Every command completes in every state, with a next state, and leaves the queue of commands as it is. In the state left the Memory
Port has judged its conditions: an ACTIVE port with the session CLOSING or asleep has a request in the engine's queue, a held or waiting
transaction or an access in progress (with none it is ENTERING); an ACTIVE port without an access has no request waiting; and nor has a
RETAINED one. That the port judges them once, at the end of each command, is the model's choice (log entry 17). That the row of an event
that cannot occur in a state leaves it as it is, is the model's choice (log entry 5). -/
def Obligations.EveryCommandCompletes : Prop :=
  ∀ (c : Instr) (s : State),
    ∃ t, exec c s = .next t ∧ t.pending = s.pending ∧
      (t.port.retention = .active →
        t.session.state = .closing ∨ t.session.state = .asleepOff ∨ t.session.state = .asleepStandby →
        t.engine.waiting ≠ [] ∨ t.engine.service ≠ none ∨ t.path.held ≠ none ∨ t.port.waitPass ≠ none ∨
          t.port.access ≠ .noAccess) ∧
      (t.port.retention = .active → t.port.access = .noAccess → t.port.waitPass = none ∧ t.port.waitEngine = none) ∧
      (t.port.retention = .retained → t.port.waitPass = none ∧ t.port.waitEngine = none ∧ t.port.waitWake = false)

/-- A step with no command waiting. Where a timed event is due the step is that event's row: a crystal that is the source and does not run
is judged stopped; else the first ISSUED entry comes due; else the first TRIGGERED entry reaches its statistics deadline; else the session
timer of an OPEN session, the recheck timer or the alert holdoff timer expires, at or past its expiry modulo 2^48. With none due it is one
tick: the time value and the elapsed count advance by one together (R131), and on RC the count of ticks since the crystal was judged
stopped, up to 1,024 (log entry 42). Where the tick brings a sleeping session, the supply not CRITICAL and nothing to issue or fetch, to
its scheduled or its idle wake time, the wake's row takes place with it. Held in power-on reset nothing moves. That a step on an empty
queue is a tick or the event due, one event a step, and the order of the events are the model's choice (log entry 4), a crystal silent at
power-on being taken first (log entry 42). So are the battery reading that the rows of the two sampling timers then carry, the one the
pins hold (log entry 6), and how an expiry on the wrapping count is told as passed (log entry 21). -/
def Obligations.IdleStepIsOneTick : Prop :=
  ∀ s : State, s.pending = [] →
    (s.pins.inReset = true → step s = .next s) ∧
    (s.pins.inReset = false →
      let silent := s.tb.source = .crystal ∧ s.tb.crystalRunning = false
      let due := ∃ e ∈ s.sched.queue, e.triggered = false ∧ e.due.toNat ≤ s.tb.time.toNat
      let late := ∃ e ∈ s.sched.queue, e.triggered = true ∧ ∃ d, e.deadline = some d ∧ d.toNat ≤ s.tb.time.toNat
      let expires := fun timer : Option Elapsed => ∃ x, timer = some x ∧ (s.tb.elapsed - x).toNat < 2 ^ 47
      let session := s.session.state = .open ∧ expires s.session.timer
      (silent → step s = exec .crystalStop s) ∧
      (¬silent → due → step s = exec .dueTime s) ∧
      (¬silent → ¬due → late → step s = exec .statisticsDeadline s) ∧
      (¬silent → ¬due → ¬late → session → step s = exec (.sessionTimerExpiry s.pins.batterySense) s) ∧
      (¬silent → ¬due → ¬late → ¬session → expires s.supply.recheck →
        step s = exec (.recheckTimerExpiry s.pins.batterySense) s) ∧
      (¬silent → ¬due → ¬late → ¬session → ¬expires s.supply.recheck → expires s.session.holdoff →
        step s = exec .alertHoldoffExpiry s) ∧
      (¬silent → ¬due → ¬late → ¬session → ¬expires s.supply.recheck → ¬expires s.session.holdoff →
        let ticked : State :=
          { s with
            tb :=
              { s.tb with
                time := s.tb.time + 1
                elapsed := s.tb.elapsed + 1
                sinceStop := if s.tb.source = .rc then min 1024 (s.tb.sinceStop + 1) else s.tb.sinceStop } }
        (∃ t, step s = .next t ∧ Follows ticked t) ∧
        (s.session.asleep = true → s.supply.state ≠ .critical → NoIssue s → NoFetch s →
          (∀ e, s.sched.runState.capturing = true → (s.sched.queue.find? fun x => !x.triggered) = some e →
            e.due.toNat ≤ ticked.tb.time.toNat + s.config.settings.wakeLead * 1024 →
            step s = exec .scheduledWake ticked ∧ ∃ t, step s = .next t ∧ t.session.state = .waking) ∧
          (s.sched.runState.resting = true → s.config.settings.idleWake ≠ 0 →
            (∃ z, s.session.sleepTime = some z ∧
              (ticked.tb.elapsed - (z + BitVec.ofNat 48 (s.config.settings.idleWake * 1024))).toNat < 2 ^ 47) →
            step s = exec .idleWake ticked ∧ ∃ t, step s = .next t ∧ t.session.state = .waking))))

/-! ### Records and the Record Engine -/

/-- The layouts of the records. A field is an unsigned or two's complement number of its bits. A command word holds the command's code in
bits 7..0 and the sequence number in bits 15..8, its upper half not read; the codes are 1 CONFIGURE, 2 SET_TIME, 3 TRIM_TIME, 4 LOAD_PLAN,
5 SET_EV, 6 START, 7 STOP, 8 ARM, 9 SLEEP, 10 CLEAR and 11 RESET_PART, every other is unassigned; and one written so is read back. A
segment record written with the fields of a segment that passes RANGE is read back as that segment, and with BOUNDS, RATE and LINK met too
the check of a fetched copy passes it. The fields of a segment record and of the configuration block, its weights among them, are read
from the bits that the spec gives them. The words of an order slot, of a log record and of the status record hold each field in its bits
and 0 in every bit that no field occupies, with the values shown where one is absent. The coded fields take their codes, and the event
classes their numbers. That word 6 of the status record shows the current segment's slot in every state, while its first order is pending
too, is the model's choice (log entry 44). -/
def Obligations.RecordLayouts : Prop :=
  (∀ (w : Word) (lo n : Nat),
    field w lo n = w.toNat / 2 ^ lo % 2 ^ n ∧ bitOf w lo = w.getLsbD lo ∧
    signedField w lo (n + 1) =
      (if field w lo (n + 1) < 2 ^ n then (field w lo (n + 1) : Int) else field w lo (n + 1) - 2 ^ (n + 1)) ∧
    (goodWord w).data = w ∧ (goodWord w).whole = true ∧ (goodWord w).good = true) ∧
  (∀ x : Time, x.toNat = x.seconds * 1024 + x.tick ∧ x.tick < 1024) ∧
  (∀ w : Word,
    let code := field w 0 8
    let c := (decodeCommandWord w).1
    (decodeCommandWord w).2.toNat = field w 8 8 ∧
    (code = 1 → c = .configure) ∧ (code = 2 → c = .setTime) ∧ (code = 3 → c = .trimTime) ∧ (code = 4 → c = .loadPlan) ∧
    (code = 5 → c = .setEv) ∧ (code = 6 → c = .start) ∧ (code = 7 → c = .stop) ∧ (code = 8 → c = .arm) ∧
    (code = 9 → c = .sleep) ∧ (code = 10 → c = .clear) ∧ (code = 11 → c = .resetPart) ∧
    (code = 0 ∨ 11 < code → c = .unassigned (BitVec.ofNat 8 code))) ∧
  (∀ code : BitVec 8, codeAssigned code = true ↔ 1 ≤ code.toNat ∧ code.toNat ≤ 11) ∧
  (∀ (high : BitVec 16) (c : CommandName) (seq : BitVec 8), field (encodeCommandWord high c seq) 16 16 = high.toNat) ∧
  (∀ (high : BitVec 16) (c : CommandName) (seq : BitVec 8),
    (∀ code, c = .unassigned code → codeAssigned code = false) →
    decodeCommandWord (encodeCommandWord high c seq) = (c, seq)) ∧
  (∀ (c : Segment) (slots : Nat), c.inRange = true → c.exitParam < 2 ^ 17 → (∀ n, c.next = some n → n < 127) →
    decodeSegment (encodeSegment c) = some c ∧
    (c.elMin ≤ c.hi → c.rampRate.natAbs ≤ c.slew → c.linkIn slots = true →
      checkSegment slots ((encodeSegment c).map goodWord) = .ok c)) ∧
  (∀ (ws : List Word) (c : Segment), decodeSegment ws = some c →
    let w := fun i => ws.getD i 0
    field (w 0) 0 8 = 3 ∧ field (w 0) 8 2 = c.mode.code ∧ field (w 0) 10 2 = c.settle.code ∧
    field (w 0) 12 3 = c.exitKind.code ∧ field (w 0) 16 7 = c.next.getD 127 ∧ field (w 0) 24 5 = c.stretch ∧
    field (w 1) 0 17 = c.exitParam ∧ field (w 1) 17 7 = c.guardZones ∧ field (w 1) 24 8 = c.holdCount ∧
    (w 2).toNat = c.interval ∧ field (w 3) 0 16 = c.readoutMargin ∧ field (w 3) 16 8 = c.minDwell ∧
    field (w 3) 24 5 = c.gainNum ∧ field (w 3) 29 2 = c.weightSet ∧ field (w 4) 0 11 = c.elMin ∧
    field (w 4) 16 11 = c.elMax ∧ field (w 5) 0 11 = c.shutterMax ∧ field (w 5) 16 9 = c.gainMax ∧
    field (w 5) 25 7 = c.guardStep ∧ field (w 6) 0 12 = c.target ∧ field (w 6) 12 6 = c.deadband ∧
    field (w 6) 18 8 = c.slew ∧ signedField (w 7) 0 9 = c.rampRate ∧ signedField (w 7) 10 11 = c.biasStart ∧
    signedField (w 7) 21 8 = c.biasRate ∧ c.next ≠ some 127) ∧
  (∀ ws : List Word,
    let w := fun i => ws.getD i 0
    let b := decodeConfig ws
    b.plan.base = field (w 0) 0 24 ∧ b.plan.limit = field (w 1) 0 24 ∧ b.stat.base = field (w 2) 0 24 ∧
    b.stat.limit = field (w 3) 0 24 ∧ b.log.base = field (w 4) 0 24 ∧ b.log.limit = field (w 5) 0 24 ∧
    b.tuning.depth = field (w 6) 0 2 ∧ b.tuning.streamSelect = field (w 6) 8 4 ∧ b.tuning.clipLevel = field (w 6) 16 12 ∧
    b.settings.wakeLead = field (w 7) 0 16 ∧ b.settings.minSleep = field (w 7) 16 16 ∧
    b.tuning.statWait = field (w 8) 0 16 ∧ b.settings.sessionLimit = field (w 8) 16 16 ∧
    b.settings.offGap = field (w 9) 0 16 ∧ b.settings.recheckPeriod = field (w 9) 16 16 ∧
    b.settings.idleWake = (w 10).toNat ∧ b.settings.alertHoldoff = (w 11).toNat ∧
    (∀ k : EventClass, b.settings.wakeLevels.get k = field (w 12) (4 * k.index) 3) ∧
    b.settings.wakeThreshold = field (w 13) 0 3 ∧ b.settings.low = field (w 14) 0 13 ∧
    b.settings.crit = field (w 14) 16 13 ∧ b.settings.hyst = field (w 15) 0 16 ∧
    b.tuning.dailyFrom = field (w 16) 0 17 ∧ b.tuning.dailyTo = field (w 17) 0 17 ∧
    (∀ set < 4, ∀ zone < 64, b.tuning.weight set zone = field (w (32 + 8 * set + zone / 8)) (4 * (zone % 8)) 4)) ∧
  (∀ (u : Tuning) (set zone : Nat),
    u.weight set zone = field (u.weights.getD (8 * set + zone / 8) 0) (4 * (zone % 8)) 4) ∧
  (∀ o : OrderContent, o.el < 2048 → o.gainCode < 2048 → o.slot < 128 → o.shutterUs < 2 ^ 32 → o.skipped < 65536 →
    let w := fun i => o.words.getD i 0
    o.words.length = 8 ∧ w 0 = o.frame ∧ (w 1).toNat = o.due.seconds ∧ field (w 2) 0 16 = o.due.tick ∧
    bitOf (w 2) 16 = o.void ∧ bitOf (w 2) 17 = o.first ∧ bitOf (w 2) 18 = o.stretched ∧ bitOf (w 2) 19 = o.deferred ∧
    field (w 2) 20 4 = 0 ∧ field (w 2) 24 8 = o.slot ∧ field (w 3) 0 16 = o.el ∧ field (w 3) 16 16 = o.gainCode ∧
    (w 4).toNat = o.shutterUs ∧ (w 5).toNat = o.skipped ∧ w 6 = 0 ∧ w 7 = 0) ∧
  (∀ l : LogContent, l.entry.el < 2048 → l.entry.gainCode < 2048 → l.entry.slot < 128 → l.entry.shutterUs < 2 ^ 32 →
    l.entry.skipped < 65536 → (∀ b, l.bl = some b → b < 1024) → -2048 ≤ l.error → l.error ≤ 2047 → l.sample < 8192 →
    let w := fun i => l.words.getD i 0
    l.words.length = 8 ∧ w 0 = l.entry.frame ∧ (w 1).toNat = l.entry.due.seconds ∧ field (w 2) 0 12 = l.entry.due.tick ∧
    field (w 2) 12 4 = l.outcome.code ∧ field (w 2) 16 8 = l.cause.code ∧ field (w 2) 24 8 = l.entry.slot ∧
    field (w 3) 0 16 = l.entry.el ∧ field (w 3) 16 16 = l.entry.gainCode ∧ (w 4).toNat = l.entry.shutterUs ∧
    field (w 5) 0 16 = l.bl.getD 1023 ∧ signedField (w 5) 16 12 = l.error ∧ field (w 5) 28 4 = 0 ∧
    bitOf (w 6) 0 = decide (l.entry.limit = .high) ∧ bitOf (w 6) 1 = decide (l.entry.limit = .low) ∧
    bitOf (w 6) 2 = decide (l.cause = .settling) ∧ bitOf (w 6) 3 = l.degraded ∧ bitOf (w 6) 4 = l.entry.stretched ∧
    bitOf (w 6) 5 = l.entry.deferred ∧ bitOf (w 6) 6 = l.gap ∧ bitOf (w 6) 7 = l.entry.first ∧ field (w 6) 8 8 = 0 ∧
    field (w 6) 16 16 = l.sample ∧ (w 7).toNat = l.entry.skipped) ∧
  (∀ (s : State) (count : Word), s.expo.el < 2048 → s.supply.lastSample < 8192 → s.sched.queue.length < 4 →
    (∀ n, s.seg.current = some n → n < 128) → (∀ f, s.cache.fault = some f → f.1 < 128) → s.engine.producer < 4096 →
    s.engine.lost < 2 ^ 32 → (∀ k, s.session.counts.get k < 65536) → s.sched.triggers < 2 ^ 32 →
    s.sched.misses < 2 ^ 32 → s.sched.voids < 2 ^ 32 → s.sched.unmetered < 2 ^ 32 → s.sched.skips < 2 ^ 32 →
    let w := fun i => (statusWords s count).getD i 0
    (statusWords s count).length = 32 ∧ w 0 = count ∧
    field (w 1) 0 4 = s.sched.runState.code ∧ field (w 1) 4 4 = s.sched.finish.code ∧
    field (w 1) 8 4 = s.session.state.code ∧ field (w 1) 12 3 = s.session.cause.code ∧
    bitOf (w 1) 15 = s.session.late ∧ field (w 1) 16 2 = s.session.sleepKind.code ∧
    field (w 1) 18 2 = s.supply.state.code ∧ field (w 1) 20 1 = s.tb.source.code ∧
    field (w 1) 21 11 = s.cmd.resetCause.code ∧
    bitOf (w 2) 0 = s.session.cold ∧ bitOf (w 2) 1 = s.tb.unset ∧ bitOf (w 2) 2 = s.tb.degraded ∧
    bitOf (w 2) 3 = s.cache.loaded.isSome ∧ bitOf (w 2) 4 = s.cache.fault.isSome ∧ field (w 2) 5 3 = 0 ∧
    bitOf (w 2) 8 = s.stats.flags.overrun ∧ bitOf (w 2) 9 = s.stats.flags.gap ∧
    bitOf (w 2) 10 = s.stats.flags.mismatch ∧ bitOf (w 2) 11 = s.stats.flags.parity ∧
    bitOf (w 2) 12 = s.stats.flags.late ∧ bitOf (w 2) 13 = s.stats.flags.unknown ∧
    bitOf (w 2) 14 = s.stats.flags.restart ∧ bitOf (w 2) 15 = false ∧
    field (w 2) 16 8 = s.session.pendingSet.toNat ∧ bitOf (w 2) 24 = s.sched.lastRetired.isNone ∧
    field (w 2) 25 3 = 0 ∧ field (w 2) 28 4 = (s.cache.fault.map fun f => f.2.code).getD 0 ∧
    (w 3).toNat = s.tb.time.seconds ∧ field (w 4) 0 16 = s.tb.time.tick ∧ field (w 4) 16 16 = s.supply.lastSample ∧
    field (w 5) 0 8 = (s.cmd.lastDecided.map fun d => d.1.toNat).getD 0 ∧
    field (w 5) 8 8 = (s.cmd.lastDecided.map fun d => d.2.code).getD 0 ∧
    field (w 5) 16 8 = (s.cmd.busy.map fun b => b.1.toNat).getD 0 ∧ bitOf (w 5) 24 = s.cmd.busy.isSome ∧
    bitOf (w 5) 25 = s.cmd.lastDecided.isSome ∧ field (w 5) 26 6 = (s.cmd.busy.map fun b => b.2.code).getD 0 ∧
    field (w 6) 0 12 = s.expo.el ∧ field (w 6) 12 4 = s.sched.queue.length ∧
    field (w 6) 16 8 = s.seg.current.getD 127 ∧ field (w 6) 24 8 = (s.cache.fault.map Prod.fst).getD 127 ∧
    w 7 = (s.sched.queue.head?.map Entry.frame).getD 0 ∧ w 8 = (s.sched.queue.getLast?.map Entry.frame).getD 0 ∧
    w 9 = s.sched.lastRetired.getD 4294967295 ∧ (w 10).toNat = s.engine.producer ∧ (w 11).toNat = s.engine.lost ∧
    (∀ k : EventClass, field (w (12 + k.index / 2)) (16 * (k.index % 2)) 16 = s.session.counts.get k) ∧
    (w 16).toNat = s.sched.triggers ∧ (w 17).toNat = s.sched.misses ∧ (w 18).toNat = s.sched.voids ∧
    (w 19).toNat = s.sched.unmetered ∧ (w 20).toNat = s.sched.skips ∧ (∀ i, 21 ≤ i → w i = 0)) ∧
  ([RunState.unconfigured, .stopped, .running, .faultHold, .suspended].map RunState.code = List.range 5 ∧
    [FinishReason.noReason, .command, .finished].map FinishReason.code = List.range 3 ∧
    [SessionState.asleepOff, .asleepStandby, .waking, .open, .closing].map SessionState.code = List.range 5 ∧
    [WakeCause.cold, .scheduled, .idle, .alert, .forcedRecovery].map WakeCause.code = List.range 5 ∧
    [SleepKind.noSleep, .off, .standby].map SleepKind.code = List.range 3 ∧
    [SupplyState.normal, .low, .critical].map SupplyState.code = List.range 3 ∧
    [Result.ok, .okClamped, .busy, .state, .range, .invalid, .overlap, .noPlan, .tooSoon, .unknown].map Result.code =
      List.range 10 ∧
    [FaultReason.format, .range, .bounds, .rate, .link, .tooLong].map FaultReason.code = [1, 2, 3, 4, 5, 6] ∧
    [FrameOutcome.metered, .unmetered, .missed, .voided, .abandoned].map FrameOutcome.code = List.range 5 ∧
    [Cause.noCause, .timeout, .parity, .superseded, .settling, .noWeight].map Cause.code = List.range 6 ∧
    [Cause.notArmed, .asleep, .suspended].map Cause.code = [1, 2, 3] ∧
    [Mode.hold, .ramp, .track].map Mode.code = List.range 3 ∧ [Settle.keep, .void].map Settle.code = List.range 2 ∧
    [ExitKind.frames, .clock, .above, .below, .limit, .never].map ExitKind.code = List.range 6 ∧
    [LongKind.configure, .loadPlan].map LongKind.code = [1, 2] ∧
    [EventClass.battLow, .battCrit, .planFault, .statsError, .timeDegraded, .logLost, .forcedSleep, .busAnomaly].map
      EventClass.index = List.range 8 ∧
    (∀ (p : PerClass) (k : EventClass),
      p.get k =
        [p.battLow, p.battCrit, p.planFault, p.statsError, p.timeDegraded, p.logLost, p.forcedSleep, p.busAnomaly].getD
          k.index 0) ∧
    [OscSource.crystal, .rc].map OscSource.code = [0, 1] ∧ [ResetCause.powerOn, .soft].map ResetCause.code = [0, 1])

/-- The Record Engine's queue and services. An ORDER_WRITE replaces a waiting one of its slot, else enters below two, else the one for the
order issued earlier among those not ISSUED gives up its place; in service, it ends after the access in progress, or at once. A
STATUS_WRITE enters, merges, or sets the rewrite mark. With no request in service the one of the most preferred kind that entered first is
chosen, and its first access asked for. An order slot and a log record are written by a data burst whose word 0 is disabled and a commit
access of the frame number; the status record, its update count raised, by its changed, absent or dirty groups and the commit access; a
fetch is one read and a CONFIG_READ eight. A LOG_WRITE without a LOG window, or with the ring full, the producer index and one modulo the
capacity equal to the consumer index, 0 while not written, is lost, counted, and raises LOG_LOST. With a request in service none begins.
The model's choices: an ORDER_WRITE in service that gives up its place is no longer counted while its access still runs, and the new one
enters at once (log entry 23); the groups to be written are judged once, at the begin of the service (log entry 24). -/
def Obligations.RecordEngineServesRequests : Prop :=
  (∀ e : Engine,
    (∀ sv, e.service = some sv → sv.ended = false → e.inService = some sv.request ∧ e.queued = sv.request :: e.waiting) ∧
    (e.service = none ∨ (∃ sv, e.service = some sv ∧ sv.ended = true) → e.inService = none ∧ e.queued = e.waiting)) ∧
  (∀ r : Request,
    (r.isStatus = true ↔ r = .status) ∧ (r.isLog = true ↔ ∃ l, r = .log l) ∧ ∀ c, r.orderContent? = some c ↔ r = .order c) ∧
  (∀ frame : Word, orderSlot frame = frame.toNat % 4) ∧
  (∀ q : Port, q.engineBusy = true ↔ ∃ a, q.access = .engine a) ∧
  (∀ sv : Service, sv.recordRange = sv.todo.head?.bind EngineAccess.record) ∧
  (∀ (o : OrderContent) (s : State),
    let slot := fun c : OrderContent => orderSlot c.frame = orderSlot o.frame
    let orders := s.engine.queued.filterMap Request.orderContent?
    let issued := fun c : OrderContent => ∃ e ∈ s.sched.queue, e.frame = c.frame ∧ e.triggered = false
    let age := fun c : OrderContent => (s.sched.nextFrame - c.frame).toNat
    (∀ pre c post, s.engine.waiting = pre ++ .order c :: post → slot c → (∀ x, .order x ∈ pre → ¬slot x) →
      requestOrder o s = { s with engine := { s.engine with waiting := pre ++ .order o :: post } }) ∧
    ((∀ x, .order x ∈ s.engine.waiting → ¬slot x) →
      (orders.length < 2 →
        requestOrder o s = { s with engine := { s.engine with waiting := s.engine.waiting ++ [.order o] } }) ∧
      (∀ c d, orders = [c, d] ∨ orders = [d, c] → ¬issued c → issued d ∨ age d < age c →
        (s.engine.inService ≠ some (.order c) →
          requestOrder o s =
            { s with engine := { s.engine with waiting := s.engine.waiting.erase (.order c) ++ [.order o] } }) ∧
        (∀ sv, s.engine.service = some sv → sv.ended = false → sv.request = .order c →
          (s.port.engineBusy = true →
            requestOrder o s =
              { s with
                engine :=
                  { s.engine with
                    service := some { sv with ended := true }, waiting := s.engine.waiting ++ [.order o] } }) ∧
          (s.port.engineBusy = false →
            let t := requestOrder o s
            t.engine = { s.engine with service := none, waiting := s.engine.waiting ++ [.order o] } ∧
              t.port.waitEngine = none ∧ t.port.starvation = 0 ∧
              ∀ r, sv.recordRange = some r → r ∉ t.path.underWrite))))) ∧
  (∀ s : State,
    (∀ sv, s.engine.service = some sv → sv.request = .status →
      requestStatus s = { s with engine := { s.engine with service := some { sv with rewrite := true } } }) ∧
    ((∀ sv, s.engine.service = some sv → sv.request ≠ .status) →
      (.status ∈ s.engine.waiting → requestStatus s = s) ∧
      (.status ∉ s.engine.waiting →
        requestStatus s = { s with engine := { s.engine with waiting := s.engine.waiting ++ [.status] } }))) ∧
  (let rank := fun r : Request =>
      match r with
      | .order _ => 0
      | .status => 1
      | .log _ => 2
      | .planFetch _ _ => 3
      | .configRead => 4
    ∀ pre r post, (∀ x ∈ pre, rank r < rank x) → (∀ x ∈ post, rank r ≤ rank x) →
      chooseRequest (pre ++ r :: post) = some r) ∧
  (∀ s : State, s.engine.service.isSome = true → beginService s = s) ∧
  (∀ (s : State) (r : Request), s.engine.service = none → chooseRequest s.engine.waiting = some r →
    let t := beginService s
    let begun := fun accesses : Service → Prop =>
      ∃ sv, t.engine.service = some sv ∧ sv.request = r ∧ accesses sv ∧ sv.rewrite = false ∧ sv.ended = false ∧
        sv.got = [] ∧ t.engine.waiting = s.engine.waiting.erase r ∧ t.port.waitEngine = sv.todo.head?
    let twoAccesses := fun (base : Nat) (words : List Word) (sv : Service) =>
      ∃ b k : EngineAccess,
        sv.todo = [b, k] ∧ b.words.map BusWord.data = words ∧ b.words.map BusWord.enables = 0 :: List.replicate 7 15 ∧
        k.words.map BusWord.data = [words.headD 0] ∧ k.words.map BusWord.enables = [15] ∧ b.length = 8 ∧ k.length = 1 ∧
        b.commit = false ∧ k.commit = true ∧
        ∀ a ∈ [b, k], a.write = true ∧ a.addr = base ∧ a.record = some { base := base, size := 32 } ∧ a.group = none ∧
          ∀ w ∈ a.words, w.good = true
    (∀ c, r = .order c → begun (twoAccesses (s.path.controlBase + 0x280 + 32 * (c.frame.toNat % 4)) c.words)) ∧
    (∀ l v, r = .log l → s.path.log = some v →
      (s.engine.producer + 1) % min ((v.limit - v.base + 1) / 32) 4096 ≠ s.path.consumer.getD 0 →
      begun (twoAccesses (v.base + 32 * s.engine.producer) l.words)) ∧
    (∀ l, r = .log l →
      s.path.log = none ∨
        (∃ v, s.path.log = some v ∧
          (s.engine.producer + 1) % min ((v.limit - v.base + 1) / 32) 4096 = s.path.consumer.getD 0) →
      t.engine.lost = min 4294967295 (s.engine.lost + 1) ∧
        t.session.counts.logLost = min 65535 (s.session.counts.logLost + 1) ∧ StatusStands t) ∧
    (r = .status →
      t.engine.updateCount = s.engine.updateCount + 1 ∧
      begun fun sv =>
        let words := statusWords s (s.engine.updateCount + 1)
        let part := fun i => (words.drop (8 * i)).take 8
        sv.shown = s.session.pendingSet ∧
        (sv.opens = true ↔ s.session.state = .waking ∧ s.session.phase = .status) ∧
        ∃ groups k,
          sv.todo = groups ++ [k] ∧ (groups.map EngineAccess.group).Pairwise (fun i j => i.getD 4 < j.getD 4) ∧
          (∀ i < 4, some i ∈ groups.map EngineAccess.group ↔
            s.engine.dirty.getD i false = true ∨ s.engine.copies.getD i none = none ∨
              ∃ c, s.engine.copies.getD i none = some c ∧
                (i = 0 → c.tail ≠ (part 0).tail) ∧ (i ≠ 0 → c ≠ part i)) ∧
          (∀ a ∈ groups, a.write = true ∧ a.length = 8 ∧ a.commit = false ∧
            ∃ i < 4, a.group = some i ∧ a.addr = s.path.controlBase + 0x200 + 32 * i ∧
              a.words.map BusWord.data = part i ∧
              a.words.map BusWord.enables = (if i = 0 then 0 :: List.replicate 7 15 else List.replicate 8 15)) ∧
          k.write = true ∧ k.commit = true ∧ k.length = 1 ∧ k.addr = s.path.controlBase + 0x200 ∧ k.group = none ∧
          k.words.map BusWord.data = [s.engine.updateCount + 1] ∧ k.words.map BusWord.enables = [15] ∧
          ∀ a ∈ groups ++ [k], a.record = some { base := s.path.controlBase + 0x200, size := 128 } ∧
            ∀ w ∈ a.words, w.good = true) ∧
    (∀ slot addr, r = .planFetch slot addr →
      begun fun sv => ∃ a, sv.todo = [a] ∧ a.write = false ∧ a.addr = addr ∧ a.length = 8 ∧ a.record = none) ∧
    (r = .configRead →
      begun fun sv =>
        sv.todo.map EngineAccess.addr = (List.range 8).map (fun i => s.path.controlBase + 0x100 + 32 * i) ∧
          ∀ a ∈ sv.todo, a.write = false ∧ a.length = 8 ∧ a.record = none))

/-! ### Commands of the interpreter -/

/-- A code that is not assigned is refused UNKNOWN; while a long command runs, every command but RESET_PART is refused BUSY. A
refused command has no other effect; OK and OK_CLAMPED accept, and an acceptance in OPEN restarts the session timer, one session limit
ahead. While the part is held in power-on reset no command is taken, RESET_PART among them, nor is a
bit of CLEAR (R147; log entry 7). -/
def Obligations.BusyAndUnknownCommandsAreRefused : Prop :=
  (∀ r : Result, r.accepts = true ↔ r = .ok ∨ r = .okClamped) ∧
  (∀ s : State,
    (s.session.state = .open →
      restartTimer s =
        { s with
          session :=
            { s.session with timer := some (s.tb.elapsed + BitVec.ofNat 48 (s.config.settings.sessionLimit * 1024)) } }) ∧
    (s.session.state ≠ .open → restartTimer s = s)) ∧
  ∀ (code seq : BitVec 8) (straps : BitVec 3) (s : State),
    (s.cmd.busy = none → s.pins.inReset = false → Decides (.unassignedCommandCode code seq) s seq .unknown s) ∧
    (s.cmd.busy.isSome = true → s.pins.inReset = false →
      Decides (.configure seq) s seq .busy s ∧ Decides (.setTime seq) s seq .busy s ∧
      Decides (.trimTime seq) s seq .busy s ∧ Decides (.loadPlan seq) s seq .busy s ∧
      Decides (.setEv seq) s seq .busy s ∧ Decides (.start seq) s seq .busy s ∧
      Decides (.stop seq) s seq .busy s ∧ Decides (.arm seq) s seq .busy s ∧
      Decides (.sleep seq) s seq .busy s ∧ Decides (.clear seq) s seq .busy s ∧
      Decides (.unassignedCommandCode code seq) s seq .busy s) ∧
    (s.pins.inReset = true →
      Leaves (.configure seq) s s ∧ Leaves (.setTime seq) s s ∧ Leaves (.trimTime seq) s s ∧ Leaves (.loadPlan seq) s s ∧
      Leaves (.setEv seq) s s ∧ Leaves (.start seq) s s ∧ Leaves (.stop seq) s s ∧ Leaves (.arm seq) s s ∧
      Leaves (.sleep seq) s s ∧ Leaves (.clear seq) s s ∧ Leaves (.resetPart seq straps) s s ∧
      Leaves (.unassignedCommandCode code seq) s s ∧ Leaves .clearPlanBit s s ∧ Leaves .clearStatisticsBit s s ∧
      Leaves .clearEventBit s s ∧ Leaves .clearTimeBit s s)

/-- SET_TIME: refused STATE outside UNCONFIGURED and STOPPED, then RANGE for a tick above 1023, else accepted: the time value
becomes the seconds and tick given and TIME_UNSET is cleared, with nothing else of the time base changed. In those run states
the order queue is empty in every state whose order book balances. -/
def Obligations.SetTimeReplacesTheTime : Prop :=
  ∀ (seq : BitVec 8) (s : State), s.cmd.busy = none → s.pins.inReset = false →
    (s.sched.runState ≠ .unconfigured → s.sched.runState ≠ .stopped → Decides (.setTime seq) s seq .state s) ∧
    (s.sched.runState = .unconfigured ∨ s.sched.runState = .stopped →
      (OrderBookBalances s → s.sched.queue = []) ∧
      (1023 < s.path.arg2.toNat → Decides (.setTime seq) s seq .range s) ∧
      (s.path.arg2.toNat ≤ 1023 →
        ∃ now : Time, now.seconds = s.path.arg1.toNat ∧ now.tick = s.path.arg2.toNat ∧
          Decides (.setTime seq) s seq .ok { s with tb := { s.tb with time := now, unset := false } }))

/-- TRIM_TIME: refused RANGE for a number outside −2048..+2047 or one that leads below 0.0, else accepted in every run state:
the time value moves by the number of ticks. Where it passes no due time of an ISSUED entry nothing else moves with it: that a
deadline it passes is left to its own event is the model's inference (log entry 25). In SUSPENDED the entries it passes retire
MISSED in queue order. In a capturing run an entry alone in the queue is judged at once: triggered where it is armed in OPEN, else
MISSED in an awake session. Asleep, with the supply not CRITICAL, a scheduled wake whose time has passed begins at once, before the
due times passed (log entry 25). A time value beyond the largest is not covered (log entry 22). -/
def Obligations.TrimTimeMovesTheTime : Prop :=
  ∀ (seq : BitVec 8) (s : State), s.cmd.busy = none → s.pins.inReset = false →
    (s.path.arg1.toInt < -2048 ∨ 2047 < s.path.arg1.toInt ∨ (s.tb.time.toNat : Int) + s.path.arg1.toInt < 0 →
      Decides (.trimTime seq) s seq .range s) ∧
    (-2048 ≤ s.path.arg1.toInt → s.path.arg1.toInt ≤ 2047 → 0 ≤ (s.tb.time.toNat : Int) + s.path.arg1.toInt →
      (s.tb.time.toNat : Int) + s.path.arg1.toInt < 2 ^ 42 →
      ∃ now : Time, (now.toNat : Int) = s.tb.time.toNat + s.path.arg1.toInt ∧
        let moved : State := { s with tb := { s.tb with time := now } }
        let passed := fun e : Entry => e.triggered = false ∧ e.due.toNat ≤ now.toNat
        let lead := s.config.settings.wakeLead * 1024
        let undisturbed :=
          s.session.asleep = false ∨ s.supply.state = .critical ∨ s.sched.runState.capturing = false ∨
            ∀ e, (s.sched.queue.find? fun x => !x.triggered) = some e → now.toNat + lead < e.due.toNat
        ((∀ e ∈ s.sched.queue, ¬passed e) → undisturbed →
          Decides (.trimTime seq) s seq .ok moved) ∧
        (s.sched.runState = .suspended →
          (∀ e, s.sched.queue = [e] → passed e → Decides (.trimTime seq) s seq .ok (retired e .missed moved)) ∧
          (∀ e f, s.sched.queue = [e, f] → passed e → passed f →
            Decides (.trimTime seq) s seq .ok (retired f .missed (retired e .missed moved)))) ∧
        (s.sched.runState.capturing = true → undisturbed → ∀ e, s.sched.queue = [e] → passed e →
          (¬(s.session.state = .open ∧ e.armed = true) → Decides (.trimTime seq) s seq .ok (retired e .missed moved)) ∧
          (∀ u, s.session.state = .open → e.armed = true → s.config.tuning = some u →
            Decides (.trimTime seq) s seq .ok
              { moved with
                pins := { s.pins with trigger := true }
                sched :=
                  { s.sched with
                    queue := [e.trigger u.statWait], triggers := min 4294967295 (s.sched.triggers + 1) } })) ∧
        (s.session.asleep = true → s.supply.state ≠ .critical → s.sched.runState.capturing = true →
          ∀ e, (s.sched.queue.find? fun x => !x.triggered) = some e →
            e.due.toNat ≤ now.toNat + lead →
            ∃ t, exec (.trimTime seq) s = .next t ∧ StatusStands t ∧ t.tb = moved.tb ∧ t.session.state = .waking ∧
              t.session.cause = (if s.session.forcedRecovery then .forcedRecovery else .scheduled) ∧
              t.session.late = decide (e.due.toNat < now.toNat + lead) ∧
              (s.sched.queue = [e] → passed e → t.sched.misses = min 4294967295 (s.sched.misses + 1))))

/-- SET_EV: accepted in STOPPED alone; the current EL becomes the requested level clamped into 0..1663, OK_CLAMPED when the
clamp changed it, and nothing else changes. In STOPPED the order queue is empty in every state whose order book balances. -/
def Obligations.SetEvSetsTheExposureLevel : Prop :=
  ∀ (seq : BitVec 8) (s : State), s.cmd.busy = none → s.pins.inReset = false →
    (s.sched.runState ≠ .stopped → Decides (.setEv seq) s seq .state s) ∧
    (s.sched.runState = .stopped →
      (OrderBookBalances s → s.sched.queue = []) ∧
      (∀ el : Nat, s.path.arg1.toInt = el → el ≤ 1663 →
        Decides (.setEv seq) s seq .ok { s with expo := { s.expo with el := el } }) ∧
      (1663 < s.path.arg1.toInt → Decides (.setEv seq) s seq .okClamped { s with expo := { s.expo with el := 1663 } }) ∧
      (s.path.arg1.toInt < 0 → Decides (.setEv seq) s seq .okClamped { s with expo := { s.expo with el := 0 } }))

/-- START is refused by the first condition that holds: STATE when not STOPPED, NOPLAN without a loaded plan, STATE while
TIME_UNSET is set, RANGE for a tick above 1023. An accepted START enters the loaded plan's entry slot, sets RUNNING, or
FAULT_HOLD where a watched entry is FAULT, takes the staging depth, the daily window and the requested first due time, and
owes D issues; the run state chosen is kept for a suspension put off until those issues are made (R130). That the chain base and the
latest order kept are cleared is the model's inference (log entry 32). The entry of the slot entered becomes the most recent. -/
def Obligations.StartJudgedAndBegun : Prop :=
  (∀ (k : PlanCache) (slot : Nat),
    k.touch slot =
      { k with entries := (k.entries.filter fun x => x.slot ≠ slot) ++ k.entries.filter fun x => x.slot = slot }) ∧
  ∀ (seq : BitVec 8) (s : State), s.cmd.busy = none → s.pins.inReset = false →
    (s.sched.runState ≠ .stopped → Decides (.start seq) s seq .state s) ∧
    (s.sched.runState = .stopped → s.cache.loaded = none → Decides (.start seq) s seq .noPlan s) ∧
    (∀ (slot : Nat) (u : Tuning), s.sched.runState = .stopped → s.cache.loaded = some slot → s.config.tuning = some u →
      (s.tb.unset = true → Decides (.start seq) s seq .state s) ∧
      (s.tb.unset = false → 1023 < s.path.arg2.toNat → Decides (.start seq) s seq .range s) ∧
      (s.tb.unset = false → s.path.arg2.toNat ≤ 1023 → 1 ≤ u.depth → u.depth ≤ 2 →
        ∃ request : Option Time,
          (request = none ↔ s.path.arg1 = 0 ∧ s.path.arg2 = 0) ∧
          (∀ d, request = some d → d.seconds = s.path.arg1.toNat ∧ d.tick = s.path.arg2.toNat) ∧
          ∀ entered : State,
            entered =
              { s with
                sched :=
                  { s.sched with
                    runState := .running, finish := .noReason, resumeState := none, startState := some .running,
                    depth := u.depth,
                    dailyFrom := u.dailyFrom, dailyTo := u.dailyTo, heldCopy := none, startRequest := request,
                    chainBase := none, latestKept := none,
                    owed := if u.depth = 1 then [.start true] else [.start true, .start false] }
                seg :=
                  { s.seg with
                    current := some slot, frames := 0, hold := 0, entryTime := none, copyRead := none, decided := none }
                cache := s.cache.touch slot } →
            Decides (.start seq) s seq .ok
              (if watchedFault entered then
                { entered with sched := { entered.sched with runState := .faultHold, startState := some .faultHold } }
              else entered)))

/-- The first order of a run at staging depth 1, with the entry segment VALID and no fault watched: it takes the next frame number, its
due time from the request or one interval ahead, at least one second ahead and moved into the daily window, and the current EL carried
into the segment's bounds without its mode; its ORDER_WRITE, of the entry's fields and not VOID, is requested. The skips counter is one of
32 bits. -/
def Obligations.StartIssuesTheFirstOrder : Prop :=
  ∀ (seq : BitVec 8) (slot : Nat) (u : Tuning) (x : CacheEntry) (c : Segment) (s : State),
    s.cmd.busy = none → s.pins.inReset = false → s.sched.runState = .stopped → s.sched.queue = [] →
    s.cache.loaded = some slot → s.config.tuning = some u → s.tb.unset = false → s.path.arg2.toNat ≤ 1023 → u.depth = 1 → s.supply.state ≠ .critical →
    s.cache.entry? slot = some x → x.state = .valid → x.record = some c → s.cache.faultAt c.next = false →
    s.sched.skips ≤ 4294967295 →
    ∃ (t : State) (o : Entry) (cand : Time),
      exec (.start seq) s = .next t ∧ t.sched.runState = .running ∧ t.sched.queue = [o] ∧ t.sched.owed = [] ∧
      t.sched.nextFrame = s.sched.nextFrame + 1 ∧ t.sched.chainBase = some o.due ∧ t.sched.skips = s.sched.skips ∧
      t.expo = { s.expo with el := o.el } ∧ t.seg.current = some slot ∧ t.seg.frames = 1 ∧
      t.seg.entryTime = some o.due ∧ t.seg.bias = clampInt (-512) 512 c.biasStart ∧
      t.cmd = { s.cmd with lastDecided := some (seq, .ok) } ∧ StatusStands t ∧
      Request.order
          { frame := o.frame, due := o.due, el := o.el, shutterUs := o.shutterUs, gainCode := o.gainCode, slot := o.slot,
            first := o.first, stretched := o.stretched, deferred := o.deferred, skipped := o.skipped,
            void := false } ∈
          t.engine.queued ∧
      (s.path.arg1 = 0 → s.path.arg2 = 0 →
        cand = addTicks s.tb.time (if s.supply.state = .low then c.interval * c.stretch else c.interval) ∧
        o.stretched = decide (s.supply.state = .low)) ∧
      (¬(s.path.arg1 = 0 ∧ s.path.arg2 = 0) →
        cand.seconds = s.path.arg1.toNat ∧ cand.tick = s.path.arg2.toNat ∧ o.stretched = false) ∧
      (o.due, o.deferred) =
        deferDaily u.dailyFrom u.dailyTo (if cand.toNat < s.tb.time.toNat + 1024 then addTicks s.tb.time 1024 else cand) ∧
      o.frame = s.sched.nextFrame ∧ o.el = c.clampLevel s.expo.el ∧ o.s = min o.el c.shutterCeiling ∧
      o.g = o.el - o.s ∧ o.shutterUs = shutterTime o.s ∧ o.gainCode = gainCode o.g ∧ o.slot = slot ∧ o.first = true ∧
      o.skipped = 0 ∧ o.armed = false ∧ o.triggered = false ∧ o.deadline = none ∧ o.discounted = false ∧
      o.limit = .noLimit

/-- STOP: accepted in RUNNING, FAULT_HOLD and SUSPENDED; every entry leaves the queue ABANDONED, head first, with no run
counter changed, owed issues are dropped, which frees the latched buffer, and the run is STOPPED with finish reason COMMAND.
Otherwise refused STATE. -/
def Obligations.StopAbandonsTheQueue : Prop :=
  ∀ (seq : BitVec 8) (s : State), s.cmd.busy = none → s.pins.inReset = false →
    (s.sched.runState = .unconfigured ∨ s.sched.runState = .stopped → Decides (.stop seq) s seq .state s) ∧
    (s.sched.runState = .running ∨ s.sched.runState = .faultHold ∨ s.sched.runState = .suspended →
      Decides (.stop seq) s seq .ok
        { s with
          sched :=
            { s.sched with
              runState := .stopped, finish := .command, resumeState := none, queue := [], owed := [], heldCopy := none,
              startRequest := none,
              lastRetired := (s.sched.queue.getLast?.map Entry.frame).or s.sched.lastRetired,
              latestKept := s.sched.queue.foldl laterKept s.sched.latestKept }
          seg := { s.seg with decided := none }
          stats := { s.stats with latched := none } })

/-- ARM: accepted for a frame that is an ISSUED entry, in every run state, which makes it armed; refused STATE for a TRIGGERED
entry and RANGE for a frame that is not in the queue. -/
def Obligations.ArmMarksAnIssuedEntry : Prop :=
  ∀ (seq : BitVec 8) (s : State), s.cmd.busy = none → s.pins.inReset = false →
    ((∀ e ∈ s.sched.queue, e.frame ≠ s.path.arg1) → Decides (.arm seq) s seq .range s) ∧
    (∀ e, (s.sched.queue.find? fun x => x.frame == s.path.arg1) = some e →
      (e.triggered = true → Decides (.arm seq) s seq .state s) ∧
      (e.triggered = false →
        Decides (.arm seq) s seq .ok
          { s with
            sched := { s.sched with queue := s.sched.queue.map fun x => if x = e then { e with armed := true } else x } }))

/-- SLEEP: refused STATE outside OPEN, TOO_SOON while an issue is owed or the next wake time lies less than min sleep ahead;
accepted, the session is CLOSING with its timer stopped, of kind OFF without a wake time or with one at least the off gap
ahead, else STANDBY. The next wake time of a capturing run precedes the first ISSUED entry's due time by the wake lead; that
of a run at rest lies one idle wake period ahead, where that is not 0. -/
def Obligations.SleepChoosesItsKind : Prop :=
  ∀ (seq : BitVec 8) (s : State), s.cmd.busy = none → s.pins.inReset = false →
    let closing := fun kind : SleepKind =>
      Decides (.sleep seq) s seq .ok
        { s with
          session :=
            { s.session with state := .closing, sleepKind := kind, timer := none, deferredAlert := false } }
    let chosen := fun gap : Int =>
      (gap < s.config.settings.minSleep * 1024 → Decides (.sleep seq) s seq .tooSoon s) ∧
      (s.config.settings.minSleep * 1024 ≤ gap →
        (s.config.settings.offGap * 1024 ≤ gap → closing .off) ∧
        (gap < s.config.settings.offGap * 1024 → closing .standby))
    (s.session.state ≠ .open → Decides (.sleep seq) s seq .state s) ∧
    (s.session.state = .open → s.sched.owed ≠ [] → Decides (.sleep seq) s seq .tooSoon s) ∧
    (s.session.state = .open → s.sched.owed = [] →
      (∀ e, s.sched.runState.capturing = true → (s.sched.queue.find? fun x => !x.triggered) = some e →
        chosen ((e.due.toNat : Int) - s.config.settings.wakeLead * 1024 - s.tb.time.toNat)) ∧
      (s.sched.runState.resting = true → s.config.settings.idleWake ≠ 0 → chosen (s.config.settings.idleWake * 1024)) ∧
      (s.sched.runState.capturing = true → (∀ e ∈ s.sched.queue, e.triggered = true) → closing .off) ∧
      (s.sched.runState = .suspended → closing .off) ∧
      (s.sched.runState.resting = true → s.config.settings.idleWake = 0 → closing .off))

/-- CLEAR is accepted OK in every state and acts for each bit of the first argument latch that is set: bit 0 clears the
PLAN_FAULT fields and marks the FAULT entries, bit 1 the sticky flags, bit 2 the event counts and the COLD flag, bit 3 the RC
fallback where the crystal runs. Nothing else changes, the run counters, the producer index and the pending set among it. Each
bit by itself, as its row, does the same with a STATUS_WRITE; the time bit does nothing while the source is CRYSTAL or the
crystal is stopped. A refetch that the plan bit brings about follows at once, with no other entry touched. -/
def Obligations.ClearActsByItsBits : Prop :=
  (StickyFlags.clear = ⟨false, false, false, false, false, false, false⟩ ∧ PerClass.zero = ⟨0, 0, 0, 0, 0, 0, 0, 0⟩) ∧
  ∀ (seq : BitVec 8) (s : State), s.pins.inReset = false →
    (s.cmd.busy = none →
      Decides (.clear seq) s seq .ok
        { s with
          cache :=
            if s.path.arg1.getLsbD 0 then
              { s.cache with
                fault := none
                entries := s.cache.entries.map fun e => if e.state = .fault then { e with awaiting := true } else e }
            else s.cache
          stats := if s.path.arg1.getLsbD 1 then { s.stats with flags := .clear } else s.stats
          session := if s.path.arg1.getLsbD 2 then { s.session with counts := .zero, cold := false } else s.session
          tb :=
            if s.path.arg1.getLsbD 3 ∧ s.tb.source = .rc ∧ s.tb.crystalRunning = true then
              { s.tb with source := .crystal, degraded := false }
            else s.tb }) ∧
    Reports .clearPlanBit s
      { s with
        cache :=
          { s.cache with
            fault := none
            entries := s.cache.entries.map fun e => if e.state = .fault then { e with awaiting := true } else e } } ∧
    Reports .clearStatisticsBit s { s with stats := { s.stats with flags := .clear } } ∧
    Reports .clearEventBit s { s with session := { s.session with counts := .zero, cold := false } } ∧
    (s.tb.source = .rc → s.tb.crystalRunning = true →
      Reports .clearTimeBit s { s with tb := { s.tb with source := .crystal, degraded := false } }) ∧
    (s.tb.source = .crystal ∨ s.tb.crystalRunning = false → Leaves .clearTimeBit s s)

/-! ### Plan loading and fetches -/

/-- LOAD_PLAN: refused STATE outside STOPPED, RANGE for a slot that is not below the plan slot count, the PLAN window's length in slots of
32 bytes, at most 64, and 0 without a window; accepted, the cache is
emptied, the plan is not loaded, PLAN_FAULT is cleared and LOAD_PLAN is the busy command. With no fetch in flight the walk
begins: the entry slot's entry is created and its PLAN_FETCH requested; else the walk waits for that fetch, whose entry is
gone. An entry is created STALE, never fetched (the model's choice, log entry 14). -/
def Obligations.LoadPlanBeginsAWalk : Prop :=
  (∀ p : Path,
    (p.plan = none → p.planSlots = 0 ∧ p.planBase = 0) ∧
    (∀ v, p.plan = some v → p.planSlots = min ((v.limit - v.base + 1) / 32) 64 ∧ p.planBase = v.base)) ∧
  (∀ slot,
    newEntry slot =
      { slot := slot, state := .stale, record := none, writtenDuringFetch := false, reason := none, awaiting := false }) ∧
  ∀ (seq : BitVec 8) (s : State), s.cmd.busy = none → s.pins.inReset = false →
    (s.sched.runState ≠ .stopped → Decides (.loadPlan seq) s seq .state s) ∧
    (s.sched.runState = .stopped → s.path.planSlots ≤ s.path.arg1.toNat → Decides (.loadPlan seq) s seq .range s) ∧
    (s.sched.runState = .stopped → s.path.arg1.toNat < s.path.planSlots →
      let slot := s.path.arg1.toNat
      let busy := { s with cmd := { s.cmd with busy := some (seq, .loadPlan) } }
      ∃ t, exec (.loadPlan seq) s = .next t ∧ StatusStands t ∧
        (∀ f, s.cache.fetch = some f →
          Follows
            (restartTimer
              { busy with
                cache :=
                  { entries := [], loaded := none, fetch := some { f with orphan := true },
                    walk := some { entrySlot := slot, started := false }, fault := none } }) t) ∧
        (s.cache.fetch = none →
          Follows
            (restartTimer
              { busy with
                cache :=
                  { entries := [{ newEntry slot with state := .fetching }], loaded := none,
                    fetch := some { slot := slot, orphan := false },
                    walk := some { entrySlot := slot, started := true }, fault := none } }) t ∧
          Request.planFetch slot (s.path.planBase + 32 * slot) ∈ t.engine.queued))

/-- A fetch completes outside the load walk: a copy written meanwhile is discarded; one that passes the check replaces the record and
makes the entry VALID; one that fails makes it FAULT with its record kept, sets the PLAN_FAULT fields and raises PLAN_FAULT. The check
takes its tests in this order, the first that fails giving the reason: FORMAT for a byte of bad parity, a format code other than 3 or a
coded field not assigned, RANGE for a field outside its range or a readout margin not below the interval, BOUNDS for an el_min above hi,
RATE for a ramp rate above the slew in magnitude, LINK for a next slot not below the plan slot count. The run state is judged against the
cache: FAULT_HOLD ends when no entry is FAULT, RUNNING when a watched one is: the current segment's, or the entry of the next slot that
its decoded record names. Where the entry has left the cache, in a walk too, the copy is discarded and nothing else changes. The reads of
the fetch and this row complete together (log entry 18). That the mark of a FAULT entry awaiting its refetch stays where the copy is
discarded is the model's inference (log entry 15). -/
def Obligations.FetchCompletesInARun : Prop :=
  (∀ (slots : Nat) (ws : List BusWord),
    let w := fun i => (ws.map BusWord.data).getD i 0
    let check := checkSegment slots ws
    let format :=
      (∀ x ∈ ws, x.good = true) ∧ field (w 0) 0 8 = 3 ∧ field (w 0) 8 2 ≤ 2 ∧ field (w 0) 10 2 ≤ 1 ∧ field (w 0) 12 3 ≤ 5
    (¬format → check = .error .format) ∧
    (format →
      ∃ c, decodeSegment (ws.map BusWord.data) = some c ∧
        let exit :=
          (c.exitKind = .frames → 1 ≤ c.exitParam ∧ c.exitParam ≤ 65535) ∧ (c.exitKind = .clock → c.exitParam ≤ 86399) ∧
            (c.exitKind = .above ∨ c.exitKind = .below → c.exitParam ≤ 1663)
        let range :=
          exit ∧ 1 ≤ c.holdCount ∧ c.holdCount ≤ 255 ∧ 1 ≤ c.minDwell ∧ c.minDwell ≤ 255 ∧ 1024 ≤ c.interval ∧
            c.interval ≤ 88473600 ∧ 1 ≤ c.stretch ∧ c.stretch ≤ 16 ∧ c.readoutMargin ≤ 65535 ∧ c.elMin ≤ 1663 ∧
            c.elMax ≤ 1663 ∧ c.shutterMax ≤ 1279 ∧ c.gainMax ≤ 384 ∧ 1 ≤ c.target ∧ c.target ≤ 4095 ∧ c.weightSet ≤ 3 ∧
            1 ≤ c.gainNum ∧ c.gainNum ≤ 16 ∧ c.deadband ≤ 63 ∧ 1 ≤ c.slew ∧ c.slew ≤ 255 ∧ -255 ≤ c.rampRate ∧
            c.rampRate ≤ 255 ∧ -512 ≤ c.biasStart ∧ c.biasStart ≤ 512 ∧ -64 ≤ c.biasRate ∧ c.biasRate ≤ 64 ∧
            c.guardZones ≤ 64 ∧ c.guardStep ≤ 127 ∧ 1000 * c.readoutMargin < c.interval * 15625 / 16
        let bounds := c.elMin ≤ c.hi
        let rate := c.rampRate.natAbs ≤ c.slew
        let link := ∀ n, c.next = some n → n < slots
        (c.inRange = true ↔ range) ∧ (c.linkIn slots = true ↔ link) ∧
        (¬range → check = .error .range) ∧ (range → ¬bounds → check = .error .bounds) ∧
        (range → bounds → ¬rate → check = .error .rate) ∧ (range → bounds → rate → ¬link → check = .error .link) ∧
        (range → bounds → rate → link → check = .ok c))) ∧
  (∀ s : State,
    let fault := fun n => ∃ e, s.cache.entry? n = some e ∧ e.state = .fault
    (∀ n, s.cache.entry? n = s.cache.entries.find? fun e => e.slot == n) ∧
    (s.cache.hasFault = true ↔ ∃ e ∈ s.cache.entries, e.state = .fault) ∧
    (∀ slot, s.cache.faultAt slot = true ↔ ∃ n, slot = some n ∧ fault n) ∧
    (watchedFault s = true ↔
      ∃ n, s.seg.current = some n ∧
        (fault n ∨
          ∃ e g m, s.cache.entry? n = some e ∧ e.record = some g ∧ g.next = some m ∧ fault m))) ∧
  (∀ (slot addr : Nat) (ws : List BusWord) (f : Fetch) (s : State), LastRead s (.planFetch slot addr) ws →
    s.cache.fetch = some f → f.orphan = true ∨ s.cache.entry? f.slot = none →
    Leaves .planFetchComplete s { s with cache := { s.cache with fetch := none } }) ∧
  ∀ (slot addr : Nat) (ws : List BusWord) (e : CacheEntry) (s : State),
    LastRead s (.planFetch slot addr) ws → s.cache.fetch = some { slot := slot, orphan := false } →
    s.cache.walk = none → s.cache.entry? slot = some e →
    let judged := fun a : State =>
      if a.sched.runState = .running ∧ watchedFault a = true then
        { a with sched := { a.sched with runState := .faultHold } }
      else if a.sched.runState = .faultHold ∧ a.cache.hasFault = false then
        { a with sched := { a.sched with runState := .running } }
      else a
    let settled := fun (f : CacheEntry → CacheEntry) =>
      { s.cache with fetch := none, entries := s.cache.entries.map fun x => if x.slot = slot then f x else x }
    (e.writtenDuringFetch = true →
      Leaves .planFetchComplete s
        { s with
          cache := settled fun x =>
            { x with state := if x.state = .fault then .fault else .stale, writtenDuringFetch := false } }) ∧
    (e.writtenDuringFetch = false → ∀ g, checkSegment s.path.planSlots ws = .ok g →
      Leaves .planFetchComplete s
        (judged
          { s with
            cache := settled fun x => { x with state := .valid, record := some g, reason := none, awaiting := false } })) ∧
    (e.writtenDuringFetch = false → ∀ r, checkSegment s.path.planSlots ws = .error r →
      Reports .planFetchComplete s
        (judged
          (countEvent .planFault
            { s with
              cache :=
                { settled (fun x => { x with state := .fault, reason := some r, awaiting := false }) with
                  fault := some (slot, r) } })))

/-- A walk fetch completes. A record that fails empties the cache and decides LOAD_PLAN INVALID with the PLAN_FAULT fields set. One that
passes makes its entry VALID, and one written meanwhile makes it STALE. The walk then goes on by the first that applies: the link of the
entry just fetched, where it is VALID; the least recent STALE entry, refetched; the first VALID entry with a link that leads to a slot
without an entry. A link creates its slot's entry and fetches it, or, as the 33rd entry, ends the walk INVALID with TOO_LONG. Where none
applies, every entry is VALID with its link closed, and the plan is loaded with result OK. The read of the fetch and this row complete
together (log entry 18). -/
def Obligations.WalkFetchCompletes : Prop :=
  ∀ (seq : BitVec 8) (entry slot addr : Nat) (ws : List BusWord) (e : CacheEntry) (s : State),
    LastRead s (.planFetch slot addr) ws → s.cache.fetch = some { slot := slot, orphan := false } →
    s.cache.walk = some { entrySlot := entry, started := true } → s.cache.entry? slot = some e →
    s.cmd.busy = some (seq, .loadPlan) → s.sched.runState = .stopped →
    let idle := { s with cmd := { s.cmd with busy := none } }
    let failed := fun (n : Nat) (r : FaultReason) =>
      Reports .planFetchComplete s
        (decided seq .invalid
          { idle with cache := { entries := [], loaded := none, fetch := none, walk := none, fault := some (n, r) } })
    let requests := fun (n : Nat) (entries : List CacheEntry) =>
      ∃ t, exec .planFetchComplete s = .next t ∧
        Follows { s with cache := { s.cache with entries := entries, fetch := some { slot := n, orphan := false } } } t ∧
        Request.planFetch n (s.path.planBase + 32 * n) ∈ t.engine.queued
    let after := fun (f : CacheEntry → CacheEntry) => s.cache.entries.map fun x => if x.slot = slot then f x else x
    let goesOn := fun (fetched : List CacheEntry) =>
      let creates := fun n : Nat =>
        (fetched.length < 32 → requests n (fetched ++ [{ newEntry n with state := .fetching }])) ∧
          (32 ≤ fetched.length → failed n .tooLong)
      let leads := fun (x : CacheEntry) (n : Nat) =>
        x.state = .valid ∧ (∃ c, x.record = some c ∧ c.next = some n) ∧ ∀ y ∈ fetched, y.slot ≠ n
      let own := fetched.find? fun x => x.slot == slot
      (∀ x n, own = some x → leads x n → creates n) ∧
      ((∀ x n, own = some x → ¬leads x n) →
        (∀ pre x post, fetched = pre ++ x :: post → x.state = .stale → (∀ y ∈ pre, y.state ≠ .stale) →
          requests x.slot
            (fetched.map fun y =>
              if y.slot = x.slot then
                { y with state := if y.state = .fault then .fault else .fetching, writtenDuringFetch := false }
              else y)) ∧
        ((∀ y ∈ fetched, y.state ≠ .stale) →
          (∀ pre x post n, fetched = pre ++ x :: post → leads x n → (∀ y ∈ pre, ∀ m, ¬leads y m) → creates n) ∧
          ((∀ x ∈ fetched, ∀ n, ¬leads x n) →
            Reports .planFetchComplete s
              (decided seq .ok
                { idle with
                  cache :=
                    { s.cache with entries := fetched, loaded := some entry, fetch := none, walk := none } }))))
    (e.writtenDuringFetch = true → goesOn (after fun x => { x with state := .stale, writtenDuringFetch := false })) ∧
    (e.writtenDuringFetch = false →
      (∀ r, checkSegment s.path.planSlots ws = .error r → failed slot r) ∧
      (∀ g, checkSegment s.path.planSlots ws = .ok g →
        goesOn (after fun x => { x with state := .valid, record := some g, reason := none })))

/-- CONFIGURE: refused STATE outside UNCONFIGURED and STOPPED; accepted, it is the busy command and a CONFIG_READ is requested. The eighth
read of a CONFIG_READ completes: the words refused decide CONFIGURE with that refusal and put nothing in force; the words accepted put the
windows, the settings and the tuning in force, make the consumer index "not written", the producer index and the lost-record count 0 and
the assembler IDLE, lead UNCONFIGURED to STOPPED, and empty the cache where the PLAN window changes. That the decision restarts the
session timer, with the session limit then in force, is the model's inference (log entry 29). The eighth read and its row complete
together (log entry 18). -/
def Obligations.ConfigureReadsAndPutsInForce : Prop :=
  (∀ (seq : BitVec 8) (s : State), s.cmd.busy = none → s.pins.inReset = false →
      (s.sched.runState ≠ .unconfigured → s.sched.runState ≠ .stopped → Decides (.configure seq) s seq .state s) ∧
      (s.sched.runState = .unconfigured ∨ s.sched.runState = .stopped →
        ∃ t, exec (.configure seq) s = .next t ∧ StatusStands t ∧ Request.configRead ∈ t.engine.queued ∧
          Follows (restartTimer { s with cmd := { s.cmd with busy := some (seq, .configure) } }) t)) ∧
  (∀ (seq : BitVec 8) (ws : List BusWord) (s : State), LastRead s .configRead ws →
      s.cmd.busy = some (seq, .configure) → s.sched.runState = .unconfigured ∨ s.sched.runState = .stopped →
      let idle := { s with cmd := { s.cmd with busy := none } }
      (∀ r, judgeConfig s.path.controlBase ws = .error r →
        Reports .configReadComplete s (decided seq r idle)) ∧
      (∀ b r, judgeConfig s.path.controlBase ws = .ok (b, r) →
        ∃ t, exec .configReadComplete s = .next t ∧ StatusStands t ∧ (NoLogWaiting s → t.engine.lost = 0) ∧
          let inForce := decided seq r idle
          Follows
            { inForce with
              path := { s.path with plan := some b.plan, stat := some b.stat, log := some b.log, consumer := none }
              config := { settings := b.settings, tuning := some b.tuning }
              stats := { s.stats with assembler := .idle }
              engine := { s.engine with producer := 0 }
              sched := { s.sched with runState := .stopped }
              cache :=
                if s.path.plan = some b.plan then s.cache
                else
                  { s.cache with
                    entries := [], loaded := none, fault := none
                    fetch := s.cache.fetch.map fun f => { f with orphan := true } } } t))

/-- The judgement of the 64 configuration words: INVALID for a bad byte, then the first of: a misaligned or empty window
INVALID, windows that overlap each other or CONTROL OVERLAP, a staging depth other than 1 or 2 INVALID, crit not below low
INVALID; else the block put in force, OK where no number was changed and OK_CLAMPED otherwise. A number inside its range is taken as
read and one outside becomes the nearest end, but an idle wake period of 0 stays 0; every other item is taken as read. -/
def Obligations.ConfigurationJudged : Prop :=
  ∀ (base : Nat) (ws : List BusWord),
    let b := decodeConfig (ws.map BusWord.data)
    let good := ∀ w ∈ ws, w.good = true
    let placed := fun w : Window => w.base % 256 = 0 ∧ w.limit % 256 = 255 ∧ w.base ≤ w.limit
    let apart := fun v w : Window => v.limit < w.base ∨ w.limit < v.base
    let control : Window := { base := base, limit := base + 4095 }
    let windows := placed b.plan ∧ placed b.stat ∧ placed b.log
    let separate :=
      apart b.plan b.stat ∧ apart b.plan b.log ∧ apart b.stat b.log ∧ apart b.plan control ∧ apart b.stat control ∧
        apart b.log control
    let sound := (b.tuning.depth = 1 ∨ b.tuning.depth = 2) ∧ b.settings.crit < b.settings.low
    let clamped := fun least most read used : Nat =>
      (read < least → used = least) ∧ (most < read → used = most) ∧ (least ≤ read → read ≤ most → used = read)
    (¬good → judgeConfig base ws = .error .invalid) ∧
    (good → ¬windows → judgeConfig base ws = .error .invalid) ∧
    (good → windows → ¬separate → judgeConfig base ws = .error .overlap) ∧
    (good → windows → separate → ¬sound → judgeConfig base ws = .error .invalid) ∧
    (good → windows → separate → sound →
      ∃ c r, judgeConfig base ws = .ok (c, r) ∧ (r = .ok ↔ c = b) ∧ (r = .ok ∨ r = .okClamped) ∧
        c.plan = b.plan ∧ c.stat = b.stat ∧ c.log = b.log ∧
        clamped 1 600 b.settings.wakeLead c.settings.wakeLead ∧
        clamped 10 3600 b.settings.sessionLimit c.settings.sessionLimit ∧
        clamped 1 60 b.settings.minSleep c.settings.minSleep ∧ clamped 5 3600 b.settings.offGap c.settings.offGap ∧
        (b.settings.idleWake = 0 → c.settings.idleWake = 0) ∧
        (b.settings.idleWake ≠ 0 → clamped 60 86400 b.settings.idleWake c.settings.idleWake) ∧
        clamped 60 86400 b.settings.alertHoldoff c.settings.alertHoldoff ∧
        clamped 60 3600 b.settings.recheckPeriod c.settings.recheckPeriod ∧
        clamped 0 500 b.settings.hyst c.settings.hyst ∧ clamped 100 60000 b.tuning.statWait c.tuning.statWait ∧
        clamped 1 4095 b.tuning.clipLevel c.tuning.clipLevel ∧ clamped 0 86399 b.tuning.dailyFrom c.tuning.dailyFrom ∧
        clamped 0 86399 b.tuning.dailyTo c.tuning.dailyTo ∧ c.settings.wakeLevels = b.settings.wakeLevels ∧
        c.settings.wakeThreshold = b.settings.wakeThreshold ∧ c.settings.low = b.settings.low ∧
        c.settings.crit = b.settings.crit ∧ c.tuning.depth = b.tuning.depth ∧
        c.tuning.streamSelect = b.tuning.streamSelect ∧ c.tuning.weights = b.tuning.weights)

/-! ### Statistics words -/

/-- A header word with a STAT window in force: an open record is dropped with RESTART; a whole, good word of the selected
stream opens a new record, any other word leads to SKIPPING, with PARITY where its parity is bad. Without a STAT window it
does nothing. -/
def Obligations.HeaderWordOpensARecord : Prop :=
  (∀ f : StickyFlags,
    f.raise .overrun = { f with overrun := true } ∧ f.raise .gap = { f with gap := true } ∧
    f.raise .mismatch = { f with mismatch := true } ∧ f.raise .parity = { f with parity := true } ∧
    f.raise .late = { f with late := true } ∧ f.raise .unknown = { f with unknown := true } ∧
    f.raise .restart = { f with restart := true }) ∧
  (∀ x : Assembler, x.isOpen = true ↔ ∃ r, x = .assembling r) ∧
  ∀ (w : BusWord) (s : State), w.empty = false →
    (s.path.stat = none → Leaves (.statHeaderWord w) s s) ∧
    (s.path.stat.isSome = true →
      let dropped := flaggedIf s.stats.assembler.isOpen .restart s
      let skipping := fun a : State => { a with stats := { a.stats with assembler := .skipping } }
      (w.whole = true → w.good = true →
        ∀ u, s.config.tuning = some u →
          (field w.data 0 4 = u.streamSelect →
            Leaves (.statHeaderWord w) s
              { dropped with
                stats :=
                  { dropped.stats with
                    assembler :=
                      .assembling
                        { stream := u.streamSelect, tag := w.data.extractLsb' 16 16, values := List.replicate 64 0,
                          presence := 0, poisoned := false } } }) ∧
          (field w.data 0 4 ≠ u.streamSelect → Leaves (.statHeaderWord w) s (skipping dropped))) ∧
      (w.whole = false → w.good = true → Leaves (.statHeaderWord w) s (skipping dropped)) ∧
      (w.good = false → Leaves (.statHeaderWord w) s (skipping (flagged .parity dropped))))

/-- A zone word taken while a record is open: whole and good, it replaces the word's two zone values, each at most 4095, and
sets the presence mark; otherwise it clears the mark and, of bad parity, poisons the record, raising PARITY if it was not
poisoned. With no open record it does nothing. -/
def Obligations.ZoneWordFillsTheRecord : Prop :=
  ∀ (k : Fin 32) (w : BusWord) (s : State), w.empty = false → s.path.stat.isSome = true →
    (s.stats.assembler = .idle ∨ s.stats.assembler = .skipping → Leaves (.statZoneWord k w) s s) ∧
    (∀ r, s.stats.assembler = .assembling r →
      (w.whole = true → w.good = true →
        ∃ r' : Assembling,
          r'.stream = r.stream ∧ r'.tag = r.tag ∧ r'.poisoned = r.poisoned ∧
          r'.values = (r.values.set (2 * k.val) (min (field w.data 0 16) 4095)).set (2 * k.val + 1)
            (min (field w.data 16 16) 4095) ∧
          (∀ j : Fin 32, r'.presence.getLsbD j.val = (r.presence.getLsbD j.val || decide (j = k))) ∧
          Leaves (.statZoneWord k w) s { s with stats := { s.stats with assembler := .assembling r' } }) ∧
      (¬(w.whole = true ∧ w.good = true) →
        ∃ r' : Assembling,
          r'.stream = r.stream ∧ r'.tag = r.tag ∧ r'.values = r.values ∧
          r'.poisoned = (r.poisoned || !w.good) ∧
          (∀ j : Fin 32, r'.presence.getLsbD j.val = (r.presence.getLsbD j.val && !decide (j = k))) ∧
          Leaves (.statZoneWord k w) s
            (flaggedIf (!w.good && !r.poisoned) .parity
              { s with stats := { s.stats with assembler := .assembling r' } })))

/-- A closing word that leads to no entry: the assembler is IDLE; MISMATCH for a partial word or a tag that differs from the
header's; of an unpoisoned record, UNKNOWN where the tag names an ISSUED entry, or no entry and not the last retired frame,
LATE where it names that frame, OVERRUN where the latched buffer is FULL. A whole word of bad parity poisons the record first, raising
PARITY where it was not poisoned, and is judged then: a poisoned record that names no TRIGGERED entry raises nothing more. With no open
record a closing word does nothing. -/
def Obligations.ClosingWordDiscards : Prop :=
  ∀ (w : BusWord) (s : State), w.empty = false → s.path.stat.isSome = true →
    let closed : State := { s with stats := { s.stats with assembler := .idle } }
    let tag := w.data.extractLsb' 16 16
    let names := fun e : Entry => e.frame.setWidth 16 == tag
    (s.stats.assembler = .idle ∨ s.stats.assembler = .skipping → Leaves (.statClosingWord w) s s) ∧
    (∀ r, s.stats.assembler = .assembling r →
      (w.whole = false → Leaves (.statClosingWord w) s (flagged .mismatch closed)) ∧
      (w.whole = true → w.good = true →
        (tag ≠ r.tag → Leaves (.statClosingWord w) s (flagged .mismatch closed)) ∧
        (tag = r.tag → r.poisoned = false →
          (∀ e, s.sched.queue.find? names = some e → e.triggered = false →
            Leaves (.statClosingWord w) s (flagged .unknown closed)) ∧
          (s.sched.queue.find? names = none →
            ((∃ f, s.sched.lastRetired = some f ∧ f.setWidth 16 = tag) →
              Leaves (.statClosingWord w) s (flagged .late closed)) ∧
            ((∀ f, s.sched.lastRetired = some f → f.setWidth 16 ≠ tag) →
              Leaves (.statClosingWord w) s (flagged .unknown closed))) ∧
          (∀ e, s.sched.queue.find? names = some e → e.triggered = true → s.stats.latched.isSome = true →
            Leaves (.statClosingWord w) s (flagged .overrun closed))) ∧
        (tag = r.tag → r.poisoned = true →
          (∀ e, s.sched.queue.find? names = some e → e.triggered = false → Leaves (.statClosingWord w) s closed) ∧
          (s.sched.queue.find? names = none → Leaves (.statClosingWord w) s closed))) ∧
      (w.whole = true → w.good = false →
        let poisoned := flaggedIf (!r.poisoned) .parity closed
        (tag ≠ r.tag → Leaves (.statClosingWord w) s (flagged .mismatch poisoned)) ∧
        (tag = r.tag → (∀ e, s.sched.queue.find? names = some e → e.triggered = false) →
          Leaves (.statClosingWord w) s poisoned)))

/-- A closing word whose tag agrees and names a TRIGGERED entry retires it. Of bad parity it poisons the record, raising PARITY where it
was not poisoned; a poisoned record is reported whether the latched buffer is FULL or not, any other where it is EMPTY, an incomplete one
raising GAP. The entry retires UNMETERED for a poisoned record or a discounted entry or without weight; else METERED, with the frame's
EL, brightness level and clip count held for the issue that follows. Where it is the second of the queue, the head retires UNMETERED
first; the issue that this one owes is made in between, which may discount the entry named or end the plan, with the queue abandoned
(the model's reading, log entry 11). An unpoisoned record fills the latched buffer with its stream, tag, values, presence and gap, and a
poisoned one leaves the buffer; afterwards it is FULL while an issue stays owed, and EMPTY once none is. -/
def Obligations.ClosingWordRetiresTheHead : Prop :=
  ∀ (w : BusWord) (r : Assembling) (e : Entry) (u : Tuning) (s : State),
    w.whole = true → s.path.stat.isSome = true → s.stats.assembler = .assembling r → r.tag = w.data.extractLsb' 16 16 →
    e.triggered = true → e.frame.setWidth 16 = r.tag → s.config.tuning = some u →
    let bad := r.poisoned || !w.good
    bad = true ∨ s.stats.latched = none →
    let closed : State :=
      flaggedIf (!w.good && !r.poisoned) .parity { s with stats := { s.stats with assembler := .idle } }
    let gap := decide (r.presence ≠ BitVec.allOnes 32)
    let buffer :=
      if bad then s.stats.latched
      else some { stream := r.stream, tag := r.tag, values := r.values, presence := r.presence, gap := gap }
    let report :=
      if bad then closed else flaggedIf gap .gap { closed with stats := { closed.stats with latched := buffer } }
    let buffered := fun t : State => t.stats.latched = if t.sched.owed = [] then none else buffer
    let retires := fun (x : Entry) (a t : State) =>
      (bad = true ∨ x.discounted = true → Follows (retired x .unmetered a) t) ∧
      (bad = false → x.discounted = false → ∀ c, a.seg.copyRead = some c →
        let sums := meterFrom u c.weightSet r.presence 0 r.values
        (sums.wsum = 0 → Follows (retired x .unmetered a) t) ∧
        (sums.wsum ≠ 0 →
          Follows
            (retired x .metered
              { a with
                expo :=
                  { a.expo with
                    held :=
                      some { frame := x.frame, el := x.el, bl := brightness (sums.total / sums.wsum), clip := sums.clip } } })
            t))
    (∀ rest, s.sched.queue = e :: rest →
      ∃ t, exec (.statClosingWord w) s = .next t ∧ StatusStands t ∧ buffered t ∧ retires e report t) ∧
    (∀ h, s.sched.queue = [h, e] → h.frame.setWidth 16 ≠ r.tag →
      ∃ t m, exec (.statClosingWord w) s = .next t ∧ StatusStands t ∧ buffered t ∧
        IssuesMade (retired h .unmetered report) m ∧
        (m.sched.queue = [] → m.sched.runState = .stopped ∧ Follows m t) ∧
        (∀ x rest, m.sched.queue = x :: rest → x.plain = e.plain ∧ retires x m t))

/-- The level of an issue under a segment copy with its bounds in order. An ordinary TRACK issue owed by a METERED retirement
moves the base by the correction of that frame's error, compensated for the orders still in the pipe, and is marked by the
bound it would pass; RAMP moves it by the ramp rate; every other issue keeps it. The level lies in the bounds. -/
def Obligations.IssueLevelStaysInBounds : Prop :=
  ∀ (c : Segment) (bias base : Int) (h : Metering), c.lo ≤ c.hi →
    let bounded := fun x : Int => ((c.clampLevel x : Nat) : Int) = max (c.lo : Int) (min (c.hi : Int) x)
    let track := base + correction c (guardError c h.clip ((brightness c.target : Int) + bias - h.bl) - (base - h.el))
    (∀ kind, c.lo ≤ (newLevel c kind bias base).1 ∧ (newLevel c kind bias base).1 ≤ c.hi) ∧
    newLevel c .carry bias base = (c.clampLevel base, .noLimit) ∧
    (c.mode = .hold → ∀ m, newLevel c (.mode m) bias base = (c.clampLevel base, .noLimit)) ∧
    (c.mode = .ramp → ∀ m, newLevel c (.mode m) bias base = (c.clampLevel (base + c.rampRate), .noLimit)) ∧
    (c.mode = .track → newLevel c (.mode none) bias base = (c.clampLevel base, .noLimit)) ∧
    (c.mode = .track → (newLevel c (.mode (some h)) bias base).1 = c.clampLevel track ∧
      ((newLevel c (.mode (some h)) bias base).2 = .high ↔ (c.hi : Int) < track) ∧
      ((newLevel c (.mode (some h)) bias base).2 = .low ↔ track < c.lo)) ∧
    (∀ x, bounded x) ∧ ∀ lo hi x : Int, lo ≤ hi → clampInt lo hi x = max lo (min hi x)

/-! ### Snooped words -/

/-- Control words snooped. A word is whole with its four byte enables set, empty with none, and good where the ones of each enabled byte
and its parity bit are odd in number. An argument word that is whole and of good parity sets its latch and no other. A consumer index
word that is so and lies below the log capacity becomes the consumer index; without a LOG window it does nothing. Any other
argument word, consumer index word, and a command word that is partial or of bad parity, counts one BUS_ANOMALY and nothing
else: the latches, the index and the last decided command stand. That a damaged consumer index word raises nothing without a LOG
window is the model's reading (log entry 40). In power-on reset no argument or command word is taken (R147; log entry 7). -/
def Obligations.ControlWordsSnooped : Prop :=
  (∀ w : BusWord,
    (w.whole = true ↔ w.enables = 15) ∧ (w.empty = true ↔ w.enables = 0) ∧
    (w.good = true ↔
      ∀ i < 4, w.enables.getLsbD i = true →
        (((List.range 8).filter fun j => w.data.getLsbD (8 * i + j)).length + (if w.parity.getLsbD i then 1 else 0)) % 2 =
          1)) ∧
  ∀ (i : ArgIndex) (w : BusWord) (s : State), w.empty = false →
    let anomaly := fun c : Instr => Reports c s (countEvent .busAnomaly s)
    (s.pins.inReset = true → Leaves (.argumentWordWrite i w) s s ∧ Leaves (.commandWordDamaged w) s s) ∧
    (s.pins.inReset = false → w.whole = true → w.good = true →
      Leaves (.argumentWordWrite i w) s
        { s with
          path :=
            match i with
            | .first => { s.path with arg1 := w.data }
            | .second => { s.path with arg2 := w.data }
            | .third => { s.path with arg3 := w.data } }) ∧
    (s.pins.inReset = false → ¬(w.whole = true ∧ w.good = true) →
      anomaly (.argumentWordWrite i w) ∧ anomaly (.commandWordDamaged w)) ∧
    (s.path.log = none → Leaves (.consumerIndexWrite w) s s) ∧
    (∀ v, s.path.log = some v →
      let capacity := min ((v.limit - v.base + 1) / 32) 4096
      (w.whole = true → w.good = true → w.data.toNat < capacity →
        Leaves (.consumerIndexWrite w) s { s with path := { s.path with consumer := some w.data.toNat } }) ∧
      (¬(w.whole = true ∧ w.good = true ∧ w.data.toNat < capacity) → anomaly (.consumerIndexWrite w)))

/-- A PLAN word written with at least one byte enabled makes the VALID entry of its slot STALE and marks a fetch of it in flight as
written; a word beyond slot 63, a word of a slot without an entry and an address outside the PLAN window touch no entry. With no fetch in
flight and no load walk, what follows this or any row requests the fetch wanted: of the current segment's entry where it is STALE in a
capturing run or FAULT awaiting its refetch; else of the entry of the next slot that its decoded record names, or of the slot of a
transition decided; else of the most recent FAULT entry that awaits. The entry then is FETCHING, a FAULT one stays FAULT, its mark is
cleared, and a PLAN_FETCH of the slot's eight words is in the engine's queue. That of two entries in the second place the next slot's goes
first is the model's choice (log entry 45), and so is that a FAULT entry awaiting its refetch that is also the current segment's, the next
slot's or the decided slot's is fetched in that place, and not in the last (log entry 15). -/
def Obligations.PlanWordTouchesItsSlot : Prop :=
  (∀ s : State,
    let wants := fun n =>
      ∃ e, s.cache.entry? n = some e ∧
        ((e.state = .stale ∧ (s.sched.runState = .running ∨ s.sched.runState = .faultHold)) ∨
          (e.state = .fault ∧ e.awaiting = true))
    let own := ∃ n, s.seg.current = some n ∧ wants n
    let leads := fun m =>
      ∃ n e g, s.seg.current = some n ∧ s.cache.entry? n = some e ∧ e.record = some g ∧ g.next = some m ∧ wants m
    let awaits := fun x : CacheEntry => x.state = .fault ∧ x.awaiting = true
    (∀ n, s.seg.current = some n → wants n → wantedFetch s = some n) ∧
    (∀ m, ¬own → leads m → wantedFetch s = some m) ∧
    (∀ m, ¬own → (∀ n, ¬leads n) → s.seg.decided = some m → wants m → wantedFetch s = some m) ∧
    (¬own → (∀ n, ¬leads n) → (∀ m, s.seg.decided = some m → ¬wants m) →
      (∀ pre x post, s.cache.entries = pre ++ x :: post → awaits x → (∀ y ∈ post, ¬awaits y) →
        wantedFetch s = some x.slot) ∧
      ((∀ x ∈ s.cache.entries, ¬awaits x) → wantedFetch s = none)) ∧
    (NoIssue s → s.cache.fetch = none → s.cache.walk = none → ∀ n, wantedFetch s = some n →
      ∃ t, exec .triggerPulseEnd s = .next t ∧
        t.cache =
          { s.cache with
            fetch := some { slot := n, orphan := false }
            entries :=
              s.cache.entries.map fun e =>
                if e.slot = n then
                  { e with state := if e.state = .fault then .fault else .fetching, writtenDuringFetch := false }
                else e } ∧
        Request.planFetch n (s.path.planBase + 32 * n) ∈ t.engine.queued)) ∧
  ∀ (a : Addr) (enables : BitVec 4) (s : State), enables ≠ 0 →
    (s.path.plan = none → Leaves (.planWordWrite a enables) s s) ∧
    (∀ w, s.path.plan = some w →
      let slot := (a.toNat - w.base) / 32
      (a.toNat < w.base ∨ w.limit < a.toNat ∨ 64 ≤ slot → Leaves (.planWordWrite a enables) s s) ∧
      (w.base ≤ a.toNat → a.toNat ≤ w.limit → slot < 64 →
        let inFlight := s.cache.fetch = some { slot := slot, orphan := false }
        Leaves (.planWordWrite a enables) s
          { s with
            cache :=
              { s.cache with
                entries :=
                  s.cache.entries.map fun e =>
                    if e.slot = slot then
                      (match e.state with
                        | .valid => { e with state := .stale }
                        | .fetching => { e with writtenDuringFetch := true }
                        | .fault => if inFlight then { e with writtenDuringFetch := true } else e
                        | .stale => e
                        | .invalid => e)
                    else e } }))

/-! ### Due times, deadlines and retirements -/

/-- An armed ISSUED entry that comes due in a capturing run with the session OPEN is triggered: TRIGGER is pulsed, the
triggers counter rises, the session timer restarts, and its statistics deadline is its due time plus the least number of ticks
that covers its shutter time and the stat wait. A deadline beyond the largest time value is a free value (log entry 8). The
end of the pulse lowers the pin and does nothing else. -/
def Obligations.DueTimeTriggersAnArmedEntry : Prop :=
  ∀ s : State,
    Leaves .triggerPulseEnd s { s with pins := { s.pins with trigger := false } } ∧
    ∀ (e : Entry) (u : Tuning),
      (s.sched.queue.find? fun x => !x.triggered && decide (x.due.toNat ≤ s.tb.time.toNat)) = some e →
      s.sched.runState = .running ∨ s.sched.runState = .faultHold → s.session.state = .open → e.armed = true →
      s.config.tuning = some u →
      ∃ (ticks : Nat) (deadline : Time),
        (e.shutterUs + 1000 * u.statWait) * 16 ≤ ticks * 15625 ∧
        ticks * 15625 < (e.shutterUs + 1000 * u.statWait) * 16 + 15625 ∧
        (e.due.toNat + ticks < 2 ^ 42 → deadline.toNat = e.due.toNat + ticks) ∧
        e.trigger u.statWait = { e with triggered := true, deadline := some deadline } ∧
        Leaves .dueTime s
          { s with
            pins := { s.pins with trigger := true }
            sched :=
              { s.sched with
                queue := s.sched.queue.map fun x => if x = e then { e with triggered := true, deadline := some deadline } else x
                triggers := min 4294967295 (s.sched.triggers + 1) }
            session :=
              { s.session with
                timer := some (s.tb.elapsed + BitVec.ofNat 48 (s.config.settings.sessionLimit * 1024)) } }

/-- An ISSUED entry that comes due and cannot be triggered retires MISSED, and a TRIGGERED entry at its statistics deadline retires
UNMETERED: the entry leaves the queue, its frame number is the last retired, its run counter rises, and a capturing run owes one issue.
With no entry due, or none at its deadline, nothing happens (the model's choice, log entry 5). Of two at their deadlines the first in
queue order retires first (the model's choice, log entry 37). -/
def Obligations.DueTimesAndDeadlinesRetire : Prop :=
  (∀ e : Entry,
    laterKept none e = some (e.due, e.el) ∧
    ∀ x : Time × Nat, laterKept (some x) e = if x.1.toNat < e.due.toNat then some (e.due, e.el) else some x) ∧
  ∀ s : State,
    let due := fun x : Entry => !x.triggered && decide (x.due.toNat ≤ s.tb.time.toNat)
    let late := fun x : Entry =>
      x.triggered && (match x.deadline with
        | none => false
        | some d => decide (d.toNat ≤ s.tb.time.toNat))
    let gone := fun (e : Entry) (o : FrameOutcome) (q : Scheduler) =>
      { q with
        queue := s.sched.queue.erase e
        lastRetired := some e.frame
        latestKept := laterKept s.sched.latestKept e
        owed :=
          if s.sched.runState = .running ∨ s.sched.runState = .faultHold then
            s.sched.owed ++ [.retirement e.frame (o == .metered)]
          else s.sched.owed }
    (∀ e, s.sched.queue.find? due = some e →
      ¬((s.sched.runState = .running ∨ s.sched.runState = .faultHold) ∧ s.session.state = .open ∧ e.armed = true) →
      Reports .dueTime s
        { s with sched := gone e .missed { s.sched with misses := min 4294967295 (s.sched.misses + 1) } }) ∧
    (s.sched.queue.find? due = none → Leaves .dueTime s s) ∧
    (∀ e, s.sched.queue.find? late = some e →
      Reports .statisticsDeadline s
        { s with sched := gone e .unmetered { s.sched with unmetered := min 4294967295 (s.sched.unmetered + 1) } }) ∧
    (s.sched.queue.find? late = none → Leaves .statisticsDeadline s s)

/-- The log record of a retirement carries the entry, its outcome and cause, the brightness level and the error of a METERED one, and the
GAP of its record; it stands in the engine's queue, or a lost record is counted. The cause of a miss is SUSPENDED, else ASLEEP outside
OPEN, else NOT_ARMED; that of a passed deadline TIMEOUT, of a superseded head SUPERSEDED, of a poisoned record PARITY, without weight
NO_WEIGHT, each SETTLING for a discounted entry. The error of a METERED retirement is that of the target with the bias as it stands,
after the guard, under the metering copy. STOP and the end of the plan log each entry ABANDONED, a VOID transition each ISSUED one
VOIDED. Of two entries at their deadlines the first in queue order is logged (the model's choice, log entry 37). -/
def Obligations.RetirementsRequestTheirLog : Prop :=
  ∀ (e : Entry) (s : State), s.engine.lost < 4294967295 →
    let stands := fun (t : State) (o : FrameOutcome) (cause : Cause) (bl : Option Nat) (error : Int) (gap : Bool) =>
      Request.log
          { entry := e, outcome := o, cause := cause, bl := bl, error := error, gap := gap, degraded := s.tb.degraded,
            sample := s.supply.lastSample } ∈ t.engine.queued ∨ s.engine.lost < t.engine.lost
    let logged := fun (c : Instr) (o : FrameOutcome) (cause : Cause) =>
      ∃ t, exec c s = .next t ∧ stands t o cause none 0 false
    let settling := fun cause : Cause => if e.discounted then Cause.settling else cause
    ((s.sched.queue.find? fun x => !x.triggered && decide (x.due.toNat ≤ s.tb.time.toNat)) = some e →
      (s.sched.runState = .suspended → logged .dueTime .missed .suspended) ∧
      (s.sched.runState ≠ .suspended → s.session.state ≠ .open → logged .dueTime .missed .asleep) ∧
      (s.sched.runState ≠ .suspended → s.session.state = .open → e.armed = false → logged .dueTime .missed .notArmed)) ∧
    ((s.sched.queue.find? fun x => x.triggered && (match x.deadline with
          | none => false
          | some d => decide (d.toNat ≤ s.tb.time.toNat))) = some e →
      logged .statisticsDeadline .unmetered (settling .timeout)) ∧
    (∀ (w : BusWord) (r : Assembling) (u : Tuning), w.whole = true → s.path.stat.isSome = true →
      s.stats.assembler = .assembling r → r.tag = w.data.extractLsb' 16 16 → s.config.tuning = some u →
      let bad := r.poisoned || !w.good
      bad = true ∨ s.stats.latched = none →
      let gap := decide (r.presence ≠ BitVec.allOnes 32)
      (∀ rest, s.sched.queue = e :: rest → e.triggered = true → e.frame.setWidth 16 = r.tag →
        ∃ t, exec (.statClosingWord w) s = .next t ∧
          (bad = true → stands t .unmetered (settling .parity) none 0 false) ∧
          (bad = false → e.discounted = true → stands t .unmetered .settling none 0 gap) ∧
          (bad = false → e.discounted = false → ∀ c, s.seg.copyRead = some c →
            let sums := meterFrom u c.weightSet r.presence 0 r.values
            let bl := brightness (sums.total / sums.wsum)
            (sums.wsum = 0 → stands t .unmetered .noWeight none 0 gap) ∧
            (sums.wsum ≠ 0 →
              stands t .metered .noCause (some bl)
                (guardError c sums.clip ((brightness c.target : Int) + s.seg.bias - bl)) gap))) ∧
      (∀ x, s.sched.queue = [e, x] → x.triggered = true → x.frame.setWidth 16 = r.tag → e.frame.setWidth 16 ≠ r.tag →
        logged (.statClosingWord w) .unmetered (settling .superseded))) ∧
    (∀ seq, s.cmd.busy = none → s.pins.inReset = false → s.sched.runState = .suspended ∨ s.sched.runState.capturing = true →
      e ∈ s.sched.queue → logged (.stop seq) .abandoned .noCause) ∧
    (∀ (frame : Word) (metered : Bool) (rest : List Origin) (c : Segment),
      s.sched.owed = .retirement frame metered :: rest → s.sched.runState = .running →
      s.sched.heldCopy = none ∨ s.seg.decided = none → readableCopy s.cache s.seg.current = some c →
      exitDecided s.seg c (provisionalDue s c) = true → e ∈ s.sched.queue →
      let a := attemptIssue (.retirement frame metered) s
      (c.next = none → stands a.state .abandoned .noCause none 0 false) ∧
      (∀ n x d, c.next = some n → s.cache.entry? n = some x → x.state = .valid → x.record = some d → c.settle = .void →
        e.triggered = false → stands a.state .voided .noCause none 0 false))

/-! ### Sessions and wakes -/

/-- A scheduled wake of a sleeping session whose supply is not CRITICAL begins when the present time reaches the first ISSUED entry's due
time less the wake lead, and is late past it; an idle wake of a run at rest begins one idle wake period of elapsed time after the sleep. A
wake with the port not ACTIVE waits for the memory; a cold one with the port ACTIVE asserts PWR_EN with the controller held in reset, a
standby one raises WAKE. Neither begins in an awake session or while CRITICAL: the session's state, its timers and its lines stay. After
any row a sleeping session whose supply is not CRITICAL finds neither wake time reached: each begins its wake at once. That neither row
acts in an awake session or while CRITICAL is the model's choice (log entry 5). That the two conditions are judged at the end of every row
is the model's inference (log entry 35), and so is how a time on the wrapping elapsed count is told as reached (log entry 21). -/
def Obligations.WakeTimesBeginWakes : Prop :=
  ∀ s : State,
    ((s.session.asleep = true ↔ s.session.state = .asleepOff ∨ s.session.state = .asleepStandby) ∧
      (s.sched.runState.capturing = true ↔ s.sched.runState = .running ∨ s.sched.runState = .faultHold) ∧
      (s.sched.runState.resting = true ↔ s.sched.runState = .unconfigured ∨ s.sched.runState = .stopped) ∧
      let next := fun e : Entry =>
        s.sched.runState.capturing = true ∧ (s.sched.queue.find? fun x => !x.triggered) = some e
      (scheduledReached s = true ↔
        ∃ e, next e ∧ e.due.toNat ≤ s.tb.time.toNat + s.config.settings.wakeLead * 1024) ∧
      (scheduledLate s = true ↔ ∃ e, next e ∧ e.due.toNat < s.tb.time.toNat + s.config.settings.wakeLead * 1024) ∧
      (idleReached s = true ↔
        s.sched.runState.resting = true ∧ s.config.settings.idleWake ≠ 0 ∧
          ∃ z, s.session.sleepTime = some z ∧
            (s.tb.elapsed - (z + BitVec.ofNat 48 (s.config.settings.idleWake * 1024))).toNat < 2 ^ 47)) ∧
    let begun := fun (cause : WakeCause) (late : Bool) (phase : WakePhase) (pins : Pins) =>
      { s with
        pins := pins
        session :=
          { s.session with
            state := .waking, cause := if s.session.forcedRecovery then .forcedRecovery else cause, late := late,
            phase := phase } }
    let begins := fun (c : Instr) (cause : WakeCause) (late : Bool) =>
      let cold := s.session.sleepKind = .off ∨ s.session.forcedRecovery = true
      (s.port.retention ≠ .active → Leaves c s (begun cause late .memory s.pins)) ∧
      (s.port.retention = .active → cold →
        Leaves c s (begun cause late .resetHold { s.pins with pwrEn := true, ctrlReset := true, wake := false })) ∧
      (s.port.retention = .active → ¬cold → Leaves c s (begun cause late .wakePulse { s.pins with wake := true }))
    (s.session.asleep = true → s.supply.state ≠ .critical → s.sched.runState.capturing = true →
      ∀ e, (s.sched.queue.find? fun x => !x.triggered) = some e →
        let lead := s.config.settings.wakeLead * 1024
        (e.due.toNat = s.tb.time.toNat + lead → begins .scheduledWake .scheduled false) ∧
        (e.due.toNat < s.tb.time.toNat + lead → begins .scheduledWake .scheduled true)) ∧
    (s.session.asleep = true → s.supply.state ≠ .critical → s.sched.runState.resting = true →
      s.config.settings.idleWake ≠ 0 →
      s.session.sleepTime = some (s.tb.elapsed - BitVec.ofNat 48 (s.config.settings.idleWake * 1024)) →
      begins .idleWake .idle false) ∧
    (∀ c t, exec c s = .next t → t.session.asleep = true → t.supply.state ≠ .critical →
      scheduledReached t = false ∧ idleReached t = false) ∧
    (s.session.asleep = false ∨ s.supply.state = .critical →
      ∀ c ∈ [Instr.scheduledWake, .idleWake], Leaves c s s ∧ ∃ t, exec c s = .next t ∧ SameSession s t)

/-- The reset hold or the WAKE pulse of a wake ends: the line is released, a cold wake clears the forced-recovery mark, a supply sample is
taken and judged, and the waking STATUS_WRITE is requested. The sample may leave the supply state as it is, or make it CRITICAL, which
suspends a capturing run that owes no START issue and leaves another as it is, or LOW, from CRITICAL too, which resumes a suspended run,
or NORMAL; it does not stop the wake. With no such wake in progress, in another phase of one too, nothing happens (the model's choice,
log entry 5). -/
def Obligations.ControllerStepEnds : Prop :=
  ∀ (battery : Nat) (s : State),
    (s.session.state = .waking → s.session.phase = .resetHold →
      Reports (.resetHoldExpiry battery) s
        (supplyJudged battery
          { s with
            pins := { s.pins with ctrlReset := false }
            session := { s.session with forcedRecovery := false, phase := .status } })) ∧
    (s.session.state = .waking → s.session.phase = .wakePulse →
      Reports (.wakePulseEnd battery) s
        (supplyJudged battery
          { s with pins := { s.pins with wake := false }, session := { s.session with phase := .status } })) ∧
    (¬(s.session.state = .waking ∧ s.session.phase = .resetHold) → Leaves (.resetHoldExpiry battery) s s) ∧
    (¬(s.session.state = .waking ∧ s.session.phase = .wakePulse) → Leaves (.wakePulseEnd battery) s s)

/-- The status record of a wake, its content taken after the wake's step 4, is written by its commit access: the session
opens, the pending marks that the record showed are removed, the session timer starts and the sleep time is absent. -/
def Obligations.WakingStatusOpensTheSession : Prop :=
  ∀ (a : EngineAccess) (sv : Service) (s : State), s.port.access = .engine a → s.engine.service = some sv →
    sv.request = .status → sv.todo = [a] → sv.ended = false → sv.opens = true → a.write = true → a.group = none →
    s.session.state = .waking → s.session.phase = .status →
    Leaves .engineAccessComplete s
      { s with
        ram := writeWords s.ram a.addrs a.words
        pins := { s.pins with pwrEn := true, ctrlReset := false, wake := false }
        session :=
          { s.session with
            state := .open, pendingSet := s.session.pendingSet &&& ~~~sv.shown,
            timer := some (s.tb.elapsed + BitVec.ofNat 48 (s.config.settings.sessionLimit * 1024)), sleepTime := none,
            phase := .noWake } }

/-- The session timer's expiry in OPEN forces a sleep: the session is ASLEEP_OFF of kind OFF with the forced-recovery mark, the
controller unpowered and in reset, its timer stopped; then a supply sample is taken and judged, which may change the supply state and
with it the run; then FORCED_SLEEP is counted and pending. Where the supply is not CRITICAL after it, a scheduled or idle wake whose
time has already come begins at once, with cause FORCED_RECOVERY. Outside OPEN nothing happens (the model's choice, log entry 5). -/
def Obligations.SessionTimerForcesSleep : Prop :=
  ∀ (battery : Nat) (s : State),
    (s.session.state = .open → s.session.timer = some s.tb.elapsed →
      let asleep :=
        countEvent .forcedSleep
          (supplyJudged battery
            { s with
              pins := { s.pins with pwrEn := false, ctrlReset := true, wake := false }
              session :=
                { s.session with
                  state := .asleepOff, sleepKind := .off, forcedRecovery := true, timer := none,
                  sleepTime := some s.tb.elapsed } })
      ∃ t, exec (.sessionTimerExpiry battery) s = .next t ∧ StatusStands t ∧ Follows asleep t ∧
        (asleep.supply.state ≠ .critical → scheduledReached t = true ∨ idleReached t = true →
          t.session.state = .waking ∧ t.session.cause = .forcedRecovery)) ∧
    (s.session.state ≠ .open → Leaves (.sessionTimerExpiry battery) s s)

/-- An event of a class whose level exceeds the wake threshold, raised while the session is asleep, the supply not CRITICAL and the alert
holdoff timer stopped, begins a wake with cause ALERT, or FORCED_RECOVERY under that mark, and starts the alert holdoff timer. While that
timer runs, or the supply is CRITICAL, or where the class is not above the threshold, whatever the others are, the event is counted and
pending, and the session, its timers and its lines are as they were. In CLOSING an event above the threshold sets the deferred alert mark
and another leaves it; in OPEN and WAKING neither does. So it is for every class, and in rows for TIME_DEGRADED by a crystal stop and
BUS_ANOMALY by a stray access; an event counts up to 65535 and is pending under its class's bit. The alert holdoff timer's expiry stops
the timer and does nothing else. With no holdoff timer running its expiry does nothing (the model's choice, log entry 5). That an alert is
taken first where a scheduled or idle wake time has been reached too is the model's choice (log entry 35). -/
def Obligations.AlertsWakeASleepingSession : Prop :=
  (∀ (k : EventClass) (s : State),
    let t := raiseEvent k s
    let above := s.config.settings.wakeThreshold < s.config.settings.wakeLevels.get k
    let wakes := s.session.asleep = true ∧ s.supply.state ≠ .critical ∧ s.session.holdoff = none ∧ above
    let counts := s.session.counts.set k (min 65535 (s.session.counts.get k + 1))
    let pendingSet := s.session.pendingSet ||| BitVec.ofNat 8 (2 ^ k.index)
    (s.config.settings.alerts k = true ↔ above) ∧
    countEvent k s = { s with session := { s.session with counts := counts, pendingSet := pendingSet } } ∧
    (∀ j, counts.get j = if j = k then min 65535 (s.session.counts.get k + 1) else s.session.counts.get j) ∧
    StatusStands t ∧
    (wakes →
      t.session.state = .waking ∧ t.session.late = false ∧
        t.session.cause = (if s.session.forcedRecovery then .forcedRecovery else .alert) ∧
        t.session.holdoff = some (s.tb.elapsed + BitVec.ofNat 48 (s.config.settings.alertHoldoff * 1024)) ∧
        t.session.counts = counts ∧ t.session.pendingSet = pendingSet) ∧
    (¬wakes →
      t.pins = s.pins ∧
        t.session =
          { s.session with
            counts := counts, pendingSet := pendingSet
            deferredAlert := s.session.deferredAlert || decide (s.session.state = .closing ∧ above) })) ∧
  ∀ s : State,
    (s.tb.source = .crystal → s.pins.inReset = false →
      let above := s.config.settings.wakeThreshold < s.config.settings.wakeLevels.timeDegraded
      let noted := fun t : State =>
        t.session.counts.timeDegraded = min 65535 (s.session.counts.timeDegraded + 1) ∧ t.session.pendingSet.getLsbD 4 = true
      (above → s.session.asleep = true → s.supply.state ≠ .critical → s.session.holdoff = none →
        ∃ t, exec .crystalStop s = .next t ∧ t.session.state = .waking ∧ t.session.late = false ∧
          t.session.cause = (if s.session.forcedRecovery then .forcedRecovery else .alert) ∧
          t.session.holdoff = some (s.tb.elapsed + BitVec.ofNat 48 (s.config.settings.alertHoldoff * 1024)) ∧ noted t) ∧
      (s.session.asleep = true → s.session.holdoff ≠ none ∨ s.supply.state = .critical ∨ (¬above ∧ NoLogWaiting s) →
        NoIssue s → scheduledReached s = false → idleReached s = false →
        ∃ t, exec .crystalStop s = .next t ∧ SameSession s t ∧ noted t) ∧
      (s.session.state = .closing → above →
        ∃ t, exec .crystalStop s = .next t ∧ t.session.state = .closing ∧ t.session.deferredAlert = true ∧ noted t) ∧
      (s.session.state = .closing → ¬above → NoIssue s → NoLogWaiting s →
        ∃ t, exec .crystalStop s = .next t ∧ SameSession s t ∧ t.session.deferredAlert = s.session.deferredAlert ∧ noted t)) ∧
    (∀ tx, s.pins.inReset = false → outstanding s = false → s.session.asleep = true →
      let above := s.config.settings.wakeThreshold < s.config.settings.wakeLevels.busAnomaly
      let noted := fun t : State =>
        t.session.counts.busAnomaly = min 65535 (s.session.counts.busAnomaly + 1) ∧ t.session.pendingSet.getLsbD 7 = true
      (above → s.supply.state ≠ .critical → s.session.holdoff = none →
        ∃ t, exec (.passThroughArrival tx) s = .next t ∧ t.session.state = .waking ∧ t.session.late = false ∧
          t.session.cause = (if s.session.forcedRecovery then .forcedRecovery else .alert) ∧
          t.session.holdoff = some (s.tb.elapsed + BitVec.ofNat 48 (s.config.settings.alertHoldoff * 1024)) ∧ noted t) ∧
      (s.session.holdoff ≠ none ∨ s.supply.state = .critical ∨ (¬above ∧ NoLogWaiting s) →
        NoIssue s → scheduledReached s = false → idleReached s = false →
        ∃ t, exec (.passThroughArrival tx) s = .next t ∧ SameSession s t ∧ noted t)) ∧
    (s.session.holdoff = some s.tb.elapsed →
      Leaves .alertHoldoffExpiry s { s with session := { s.session with holdoff := none } }) ∧
    (s.session.holdoff = none → Leaves .alertHoldoffExpiry s s)

/-! ### Supply and crystal -/

/-- A sample below crit with the supply not CRITICAL makes it so, whichever row takes it: the recheck timer starts, BATT_CRIT is counted and
pending, and a capturing run that owes no START issue is suspended, its state recorded to resume, its owed issues dropped and the latched
buffer freed. A run that is not capturing stays as it is, and one that owes a START issue is not suspended at the sample: its issues are
made first. At a wake's third step, a cold or a standby one's, the session stays WAKING; at a forced sleep it is ASLEEP_OFF; at a close it
ends ASLEEP_OFF of kind OFF, whatever kind was chosen, with no wake begun. -/
def Obligations.CriticalSampleSuspendsTheRun : Prop :=
  (∀ o : Origin, o.isStart = true ↔ ∃ first, o = .start first) ∧
  ∀ (battery : Nat) (s : State), s.supply.state ≠ .critical → min battery 8191 < s.config.settings.crit →
    let critical := fun (pins : Pins) (x : Session) =>
      countEvent .battCrit
        { s with
          pins := { pins with batterySense := battery }
          session := x
          supply :=
            { state := .critical, lastSample := min battery 8191,
              recheck := some (s.tb.elapsed + BitVec.ofNat 48 (s.config.settings.recheckPeriod * 1024)) } }
    let judged := fun (c : Instr) (a : State) =>
      (s.sched.runState.capturing = true → (∀ o ∈ s.sched.owed, o.isStart = false) →
        Reports c s
          { a with
            sched :=
              { s.sched with
                runState := .suspended, resumeState := some s.sched.runState, owed := [], heldCopy := none,
                startRequest := none }
            seg := { s.seg with decided := none }
            stats := { s.stats with latched := none } }) ∧
      (s.sched.runState.capturing = false ∨ (∃ o ∈ s.sched.owed, o.isStart = true) → Reports c s a)
    (s.session.state = .waking → s.session.phase = .wakePulse →
      judged (.wakePulseEnd battery) (critical { s.pins with wake := false } { s.session with phase := .status })) ∧
    (s.session.state = .waking → s.session.phase = .resetHold →
      judged (.resetHoldExpiry battery)
        (critical { s.pins with ctrlReset := false } { s.session with forcedRecovery := false, phase := .status })) ∧
    (s.session.state = .open → s.session.timer = some s.tb.elapsed →
      judged (.sessionTimerExpiry battery)
        (countEvent .forcedSleep
          (critical { s.pins with pwrEn := false, ctrlReset := true, wake := false }
            { s.session with
              state := .asleepOff, sleepKind := .off, forcedRecovery := true, timer := none,
              sleepTime := some s.tb.elapsed }))) ∧
    (s.session.state = .closing → s.port.retention = .entering → s.port.anyWaiting = false →
      s.port.exitAfterEntry = false →
      judged (.retentionEntryComplete battery)
        (critical { s.pins with pwrEn := false, ctrlReset := true, wake := false }
          { s.session with state := .asleepOff, sleepKind := .off, timer := none, sleepTime := some s.tb.elapsed }))

/-- The judgement of a supply sample, row by row. The recheck timer's expiry takes a sample: CRITICAL stays, with the timer
started again, for a sample below crit + hyst; else the supply is LOW, the timer stops, BATT_LOW is counted and a suspended
run resumes in its recorded state, judged against the cache, owing issues up to D. A scheduled or idle wake of a sleeping session whose
time has come by then, one that those issues make among them, begins at once. With the timer stopped, as it is in NORMAL and LOW, nothing
happens (the model's choice, log entry 5). -/
def Obligations.SamplesJudgedAndRechecked : Prop :=
  (∀ (c : Settings) (mv : Nat), c.crit < c.low →
    (mv < c.crit → judgeSample c .normal mv = (.critical, some .battCrit) ∧
      judgeSample c .low mv = (.critical, some .battCrit)) ∧
    (c.crit ≤ mv → mv < c.low → judgeSample c .normal mv = (.low, some .battLow)) ∧
    (c.low ≤ mv → judgeSample c .normal mv = (.normal, none)) ∧
    (c.low + c.hyst ≤ mv → judgeSample c .low mv = (.normal, none)) ∧
    (c.crit ≤ mv → mv < c.low + c.hyst → judgeSample c .low mv = (.low, none)) ∧
    (c.crit + c.hyst ≤ mv → judgeSample c .critical mv = (.low, some .battLow)) ∧
    (mv < c.crit + c.hyst → judgeSample c .critical mv = (.critical, none))) ∧
  (∀ (battery : Nat) (s : State), s.supply.recheck = none → Leaves (.recheckTimerExpiry battery) s s) ∧
  ∀ (battery : Nat) (s : State), s.supply.state = .critical →
    let period := s.tb.elapsed + BitVec.ofNat 48 (s.config.settings.recheckPeriod * 1024)
    let recovered :=
      countEvent .battLow
        { s with
          pins := { s.pins with batterySense := battery }
          supply := { state := .low, lastSample := min battery 8191, recheck := none } }
    (s.supply.recheck = some s.tb.elapsed →
      (min battery 8191 < s.config.settings.crit + s.config.settings.hyst →
        Leaves (.recheckTimerExpiry battery) s
          { s with
            pins := { s.pins with batterySense := battery }
            supply := { s.supply with lastSample := min battery 8191, recheck := some period } }) ∧
      (s.config.settings.crit + s.config.settings.hyst ≤ min battery 8191 →
        (s.sched.runState ≠ .suspended → Reports (.recheckTimerExpiry battery) s recovered) ∧
        (s.sched.runState = .suspended →
          Reports (.recheckTimerExpiry battery) s
            { recovered with
              sched :=
                { s.sched with
                  resumeState := none
                  runState :=
                    if s.sched.resumeState = some .faultHold then
                      (if s.cache.hasFault then .faultHold else .running)
                    else if watchedFault s then .faultHold else .running
                  owed :=
                    if s.sched.depth ≤ s.sched.queue.length then []
                    else
                      .resumption true ::
                        List.replicate (s.sched.depth - s.sched.queue.length - 1) (.resumption false) } }) ∧
        ∀ t, exec (.recheckTimerExpiry battery) s = .next t → s.session.asleep = true →
          scheduledReached t = true ∨ idleReached t = true →
          t.session.state = .waking ∧ (s.session.forcedRecovery = true → t.session.cause = .forcedRecovery) ∧
            (AlertsOff s → scheduledReached t = true → t.session.late = scheduledLate t)))

/-- A crystal stop while the source is CRYSTAL makes it RC, with TIME_DEGRADED set and counted; with the source already RC only the
indication changes. The crystal is judged running when 1,024 RC ticks have passed since its last stop, which changes the indication
alone: the source stays RC until CLEAR. Before that it is not. Each stop begins the count of those ticks anew (log entry 42). Neither
row acts in power-on reset (log entry 7). -/
def Obligations.CrystalStopFallsBackToRc : Prop :=
  ∀ s : State,
    (s.pins.inReset = false →
      (s.tb.source = .crystal →
        Reports .crystalStop s
          (countEvent .timeDegraded
            { s with tb := { s.tb with source := .rc, degraded := true, crystalRunning := false, sinceStop := 0 } })) ∧
      (s.tb.source = .rc →
        Leaves .crystalStop s { s with tb := { s.tb with crystalRunning := false, sinceStop := 0 } }) ∧
      (1024 ≤ s.tb.sinceStop → Leaves .crystalRunning s { s with tb := { s.tb with crystalRunning := true } }) ∧
      (s.tb.sinceStop < 1024 → Leaves .crystalRunning s s)) ∧
    (s.pins.inReset = true → Leaves .crystalStop s s ∧ Leaves .crystalRunning s s)

/-! ### The path, the port and the engine -/

/-- An arriving transaction is held where it is a read that touches a record under write; else it waits at the port, which an
ACTIVE, free port grants at once, raising the starvation count where an engine request waits, unless that count is 4, which grants the
engine, as an engine access in progress makes it wait; and it brings a RETAINED port into EXITING. In an awake session nothing else
changes; in a sleeping one it is a stray access and counts one BUS_ANOMALY. In power-on reset it is neither held nor counted and asks
the port alike. One given while another is outstanding is kept as the one that the controller makes the moment that one completes, and a
third does nothing (the model's choice, log entries 43 and 5). -/
def Obligations.ArrivalWaitsOrIsHeld : Prop :=
  (∀ s : State,
    outstanding s = true ↔
      s.path.held.isSome = true ∨ s.port.waitPass.isSome = true ∨ ∃ tx, s.port.access = .pass tx) ∧
  (∀ (tx : Transaction) (rs : List RecordRange),
    (txIsRead tx = true ↔ ∃ n, tx.transfer = .read n) ∧
    (txTouches tx rs = true ↔
      ∃ k, ((∃ n, tx.transfer = .read n ∧ k < n) ∨ ∃ ws, tx.transfer = .write ws ∧ k < ws.length) ∧
        ∃ r ∈ rs, r.base ≤ (tx.addr + BitVec.ofNat 24 (4 * k)).toNat ∧
          (tx.addr + BitVec.ofNat 24 (4 * k)).toNat < r.base + r.size)) ∧
  (∀ (tx : Transaction) (s : State), outstanding s = true →
    (s.path.following = none → Leaves (.passThroughArrival tx) s { s with path := { s.path with following := some tx } }) ∧
    (s.path.following.isSome = true → Leaves (.passThroughArrival tx) s s)) ∧
  (∀ (tx : Transaction) (s : State), s.pins.inReset = false → outstanding s = false →
    let touches := txIsRead tx = true ∧ txTouches tx s.path.underWrite = true
    ∃ t, exec (.passThroughArrival tx) s = .next t ∧
      Follows (if s.session.asleep then countEvent .busAnomaly s else s) t ∧
      (touches → NoIssue s → t.path.held = some tx ∧ t.port.waitPass = none) ∧
      (¬touches → s.port.retention = .active → s.port.access = .noAccess → s.port.starvation < 4 →
        t.port.access = .pass tx ∧ t.port.waitPass = none) ∧
      (NoIssue s → s.engine.service.isSome = true → ∀ a, s.port.waitEngine = some a → s.port.retention = .active →
        s.port.access = .noAccess →
        (¬touches → s.port.starvation < 4 →
          t.port.starvation = s.port.starvation + 1 ∧ t.port.waitEngine = some a) ∧
        (touches ∨ 4 ≤ s.port.starvation →
          t.port.access = .engine a ∧ t.port.starvation = 0 ∧ t.port.waitEngine = none ∧
            (¬touches → t.port.waitPass = some tx ∨ t.path.held = some tx))) ∧
      (¬touches → s.port.retention = .active → ∀ a, s.port.access = .engine a →
        t.port.access = .engine a ∧ t.port.waitPass = some tx ∧ t.path.held = none) ∧
      (¬touches → s.port.retention = .retained → t.port.retention = .exiting ∧ t.port.waitPass = some tx) ∧
      (¬touches → s.port.retention = .entering ∨ s.port.retention = .exiting →
        t.port.retention = s.port.retention ∧ t.port.waitPass = some tx)) ∧
  (∀ (tx : Transaction) (s : State), s.pins.inReset = true → outstanding s = false → s.sched.owed = [] →
    s.engine.waiting = [] → s.engine.service = none → s.port.waitEngine = none → s.port.starvation < 4 →
    ∃ t, exec (.passThroughArrival tx) s = .next t ∧ Follows s t ∧ t.path.held = none ∧
      (s.port.retention = .active → s.port.access = .noAccess → t.port.access = .pass tx ∧ t.port.waitPass = none) ∧
      (s.port.retention = .retained → t.port.retention = .exiting ∧ t.port.waitPass = some tx) ∧
      (s.port.retention = .entering ∨ s.port.retention = .exiting →
        t.port.retention = s.port.retention ∧ t.port.waitPass = some tx))

/-- A pass-through read returns the words of memory with their parity and changes nothing else; a write puts its enabled bytes in memory
with their parity, so that a byte read there afterwards is the one written, and no other byte changes, whatever its words are handed on
to. The port, ACTIVE, is then ENTERING where the session is CLOSING or asleep and no request, transaction or access is left. In power-on
reset no word is handed on. Otherwise a word, once it is in memory, runs the row of its place: argument, consumer index, damaged command,
PLAN, STAT. One in the status record sets its group's dirty mark; there, in the order ring and in the LOG window it counts one BUS_ANOMALY
where it lies in a record under write, once for a burst. A word elsewhere, or with no byte enabled, does nothing. The words of a burst
into the PLAN or STAT window run their rows in order of address, each on what the one before left; a PLAN burst makes the VALID entries of
its slots STALE, and leaves none marked as written during the refetch that it calls for itself (log entry 47). A burst of a command word
and its arguments latches the arguments before the command runs. A transaction made the moment this one completes arrives then, a stray
access where the session sleeps, and waits at the grant that follows: it is granted, the starvation count raised where an engine request
waits, unless that count is 4, which grants the engine; a read of a record under write is held. That the completion takes the rows inline,
and how the sender gives such a transaction, are the model's choices (log entries 18 and 43). -/
def Obligations.PassThroughAccessCompletes : Prop :=
  ((∀ (a : Addr) (n : Nat), wordAddrs a n = (List.range n).map fun k => (a + BitVec.ofNat 24 (4 * k)).toNat) ∧
    (∀ (v : Window) (a : Nat), v.holds a = true ↔ v.base ≤ a ∧ a ≤ v.limit) ∧
    (∀ (v : Option Window) (a : Nat), inWindow v a = true ↔ ∃ x, v = some x ∧ x.base ≤ a ∧ a ≤ x.limit) ∧
    (∀ base, controlWindow base = { base := base, limit := base + 4095 }) ∧
    (∀ (m : List (Nat × RamByte)) (as : List Nat), readWords m as = as.map (readWord m)) ∧
    (∀ (m : List (Nat × RamByte)) (a : Nat),
      (readWord m a).enables = 15 ∧
      ∀ i < 4, byteOf (readWord m a).data i = (readRam m (a + i)).setWidth 8 ∧
        (readWord m a).parity.getLsbD i = (readRam m (a + i)).getLsbD 8) ∧
    (∀ (m : List (Nat × RamByte)) (a x : Nat) (w : BusWord), ramWf m = true →
      (∀ i < 4, x = a + i → w.enables.getLsbD i = true →
        readRam (writeWord m a w) x = BitVec.ofBool (w.parity.getLsbD i) ++ (w.data >>> (8 * i)).setWidth 8) ∧
      ((∀ i < 4, x = a + i → w.enables.getLsbD i = false) → readRam (writeWord m a w) x = readRam m x)) ∧
    (∀ (m : List (Nat × RamByte)) (a : Nat) (as : List Nat) (w : BusWord) (ws : List BusWord),
      writeWords m (a :: as) (w :: ws) = writeWords (writeWord m a w) as ws ∧ writeWords m [] ws = m ∧
        writeWords m as [] = m)) ∧
  (∀ (tx : Transaction) (s : State), s.port.access = .pass tx → s.port.retention = .active →
    ∃ t, exec .passThroughCompletion s = .next t ∧
      t.port.retention =
        (if t.session.mayRetain = true ∧ t.engine.waiting = [] ∧ t.engine.service = none ∧ t.path.held = none ∧
            t.port.waitPass = none ∧ t.port.access = .noAccess then .entering
          else .active)) ∧
  (∀ (tx : Transaction) (s : State), s.port.access = .pass tx →
    let alone := s.path.following = none ∨ (s.port.waitPass = none ∧ s.path.held = none)
    (∀ n, tx.transfer = .read n → alone →
      let stray := s.path.following.isSome = true ∧ s.pins.inReset = false ∧ s.session.asleep = true
      let read : State :=
        { s with path := { s.path with returned := (wordAddrs tx.addr n).map (readWord s.ram), following := none } }
      Leaves .passThroughCompletion s (if stray then countEvent .busAnomaly read else read)) ∧
    (∀ ws, tx.transfer = .write ws →
      (∃ t, exec .passThroughCompletion s = .next t ∧
        t.ram = writeWords s.ram (wordAddrs tx.addr ws.length) ws ∧
        (RamCanonical s → ws.length ≤ 8 → ∀ k w, ws[k]? = some w → ∀ i < 4,
          let x := (tx.addr + BitVec.ofNat 24 (4 * k)).toNat + i
          readRam t.ram x =
            if w.enables.getLsbD i then BitVec.ofBool (w.parity.getLsbD i) ++ (w.data >>> (8 * i)).setWidth 8
            else readRam s.ram x) ∧
        ∀ x, (∀ a ∈ wordAddrs tx.addr ws.length, x < a ∨ a + 4 ≤ x) → readRam t.ram x = readRam s.ram x) ∧
      (s.pins.inReset = true → alone →
        Leaves .passThroughCompletion s
          { s with ram := writeWords s.ram (wordAddrs tx.addr ws.length) ws, path := { s.path with following := none } }))) ∧
  (∀ (tx next : Transaction) (s : State), s.port.access = .pass tx → s.path.following = some next →
    s.pins.inReset = false → s.port.waitPass = none → s.path.held = none → s.port.retention = .active →
    let plain := fun a => ∀ v ∈ [some (controlWindow s.path.controlBase), s.path.plan, s.path.stat, s.path.log],
      ∀ x, v = some x → a < x.base ∨ x.limit < a
    (∀ ws, tx.transfer = .write ws → ∀ a ∈ wordAddrs tx.addr ws.length, plain a) →
    let touches := txIsRead next = true ∧ txTouches next s.path.underWrite = true
    ∃ t, exec .passThroughCompletion s = .next t ∧ t.path.following = none ∧
      (¬touches → s.port.starvation < 4 → t.port.access = .pass next) ∧
      (touches → NoIssue s → t.path.held = some next) ∧
      (NoIssue s → s.engine.service.isSome = true → ∀ a, s.port.waitEngine = some a →
        (¬touches → s.port.starvation < 4 →
          t.port.starvation = s.port.starvation + 1 ∧ t.port.waitEngine = some a ∧ t.port.waitPass = none) ∧
        (touches ∨ 4 ≤ s.port.starvation → t.port.access = .engine a ∧ t.port.starvation = 0 ∧ t.port.waitEngine = none ∧
          (¬touches → t.port.waitPass = some next ∨ t.path.held = some next)))) ∧
  (∀ (addr : Addr) (w : BusWord) (s : State), s.port.access = .pass { addr := addr, transfer := .write [w] } →
    s.pins.inReset = false → s.path.following = none →
    let a := addr.toNat
    let written : State := { s with ram := writeWord s.ram a w, port := { s.port with access := .noAccess } }
    let runs := fun c : Instr => exec .passThroughCompletion s = exec c written
    let base := s.path.controlBase
    let holds := fun v : Option Window => ∃ x, v = some x ∧ x.base ≤ a ∧ a ≤ x.limit
    let outside := a < base ∨ base + 4095 < a
    let underWrite := ∃ r ∈ s.path.underWrite, r.base ≤ a ∧ a < r.base + r.size
    let judged := fun x : State =>
      (underWrite → Reports .passThroughCompletion s (countEvent .busAnomaly x)) ∧
        (¬underWrite → Leaves .passThroughCompletion s x)
    (w.empty = true → Leaves .passThroughCompletion s written) ∧
    (w.empty = false →
      (a = base → ¬(w.whole = true ∧ w.good = true) → runs (.commandWordDamaged w)) ∧
      (a = base + 4 → runs (.argumentWordWrite .first w)) ∧ (a = base + 8 → runs (.argumentWordWrite .second w)) ∧
      (a = base + 12 → runs (.argumentWordWrite .third w)) ∧ (a = base + 16 → runs (.consumerIndexWrite w)) ∧
      (base + 0x200 ≤ a → a < base + 0x280 →
        judged
          { written with engine := { s.engine with dirty := s.engine.dirty.set ((a - base - 0x200) / 32) true } }) ∧
      (base + 0x280 ≤ a → a < base + 0x300 → judged written) ∧
      ((base + 16 < a ∧ a < base + 0x200 ∨ base + 0x300 ≤ a ∧ a ≤ base + 4095) →
        Leaves .passThroughCompletion s written) ∧
      (outside → holds s.path.plan → runs (.planWordWrite addr w.enables)) ∧
      (outside → ¬holds s.path.plan → ∀ x, s.path.stat = some x → x.base ≤ a → a ≤ x.limit →
        let i := (a - x.base) / 4
        (i = 0 → runs (.statHeaderWord w)) ∧ (∀ k : Fin 32, i = k.val + 1 → runs (.statZoneWord k w)) ∧
          (i = 33 → runs (.statClosingWord w)) ∧ (33 < i → Leaves .passThroughCompletion s written)) ∧
      (outside → ¬holds s.path.plan → ¬holds s.path.stat → holds s.path.log → judged written) ∧
      (outside → ¬holds s.path.plan → ¬holds s.path.stat → ¬holds s.path.log →
        Leaves .passThroughCompletion s written))) ∧
  (∀ (high : BitVec 16) (c : CommandName) (seq : BitVec 8) (w0 w1 w2 w3 : BusWord) (s : State),
    (∀ code, c = .unassigned code → codeAssigned code = false) → w0.data = encodeCommandWord high c seq →
    (∀ w ∈ [w0, w1, w2, w3], w.whole = true ∧ w.good = true) → s.pins.inReset = false → s.path.following = none →
    s.path.controlBase + 16 ≤ 2 ^ 24 →
    s.port.access = .pass { addr := BitVec.ofNat 24 s.path.controlBase, transfer := .write [w0, w1, w2, w3] } →
    let latched : State :=
      { s with
        ram := writeWords s.ram (wordAddrs (BitVec.ofNat 24 s.path.controlBase) 4) [w0, w1, w2, w3]
        path := { s.path with arg1 := w1.data, arg2 := w2.data, arg3 := w3.data }
        port := { s.port with access := .noAccess } }
    ∃ x, exec .passThroughCompletion s = exec (rowOfCommand s.pins.straps seq c) x ∧ Fixed latched x ∧
      (NoIssue s → NoFetch s → SameRun latched x ∧ x.cache = s.cache) ∧
      (s.session.asleep = false → SameSession latched x)) ∧
  (∀ (addr : Addr) (ws : List BusWord) (s : State), s.port.access = .pass { addr := addr, transfer := .write ws } →
    s.pins.inReset = false → s.path.following = none → ws ≠ [] → (∀ w ∈ ws, w.empty = false) →
    s.engine.dirty.length = 4 →
    (∀ a ∈ wordAddrs addr ws.length, s.path.controlBase + 0x200 ≤ a ∧ a < s.path.controlBase + 0x280) →
    { base := s.path.controlBase + 0x200, size := 128 } ∈ s.path.underWrite →
    ∃ t, exec .passThroughCompletion s = .next t ∧ t.session.tally = (countEvent .busAnomaly s).session.tally ∧
      ∀ a ∈ wordAddrs addr ws.length, t.engine.dirty.getD ((a - s.path.controlBase - 0x200) / 32) false = true) ∧
  (∀ (addr : Addr) (ws : List BusWord) (s : State), s.port.access = .pass { addr := addr, transfer := .write ws } →
    s.pins.inReset = false → s.path.following = none →
    (∀ a ∈ wordAddrs addr ws.length, ¬(s.path.controlBase ≤ a ∧ a ≤ s.path.controlBase + 4095) ∧
      (inWindow s.path.plan a = true ∨ inWindow s.path.stat a = true)) →
    let written : State :=
      { s with ram := writeWords s.ram (wordAddrs addr ws.length) ws, port := { s.port with access := .noAccess } }
    let rows :=
      ((wordAddrs addr ws.length).zip ws).filterMap fun x => rowOfWindowWord s.path.plan s.path.stat x.1 x.2
    (rows = [] → Leaves .passThroughCompletion s written) ∧
    (∀ before last, rows = before ++ [last] →
      ∃ m, RunInOrder before written m ∧ exec .passThroughCompletion s = exec last m) ∧
    (∀ v, s.path.plan = some v → (∀ w ∈ ws, w.empty = false) →
      (∀ a ∈ wordAddrs addr ws.length, v.base ≤ a ∧ a ≤ v.limit ∧ (a - v.base) / 32 < 64) →
      s.cache.fetch = none → (∀ e ∈ s.cache.entries, e.state ≠ .fetching ∧ e.writtenDuringFetch = false) →
      (NoIssue s →
        Leaves .passThroughCompletion s
          { written with
            cache :=
              { s.cache with
                entries :=
                  s.cache.entries.map fun e =>
                    if e.state = .valid ∧ ∃ a ∈ wordAddrs addr ws.length, (a - v.base) / 32 = e.slot then
                      { e with state := .stale }
                    else e } }) ∧
      ∃ t, exec .passThroughCompletion s = .next t ∧ ∀ e ∈ t.cache.entries, e.writtenDuringFetch = false))

/-- A command word written whole and with good parity as a transaction of its own runs the row of the opcode table that its
code names, with its sequence number, once the word is in memory. That the completion takes the row inline is the model's
choice (log entry 18). -/
def Obligations.CommandWordRunsItsRow : Prop :=
  (∀ (straps : BitVec 3) (seq code : BitVec 8),
    [CommandName.configure, .setTime, .trimTime, .loadPlan, .setEv, .start, .stop, .arm, .sleep, .clear, .resetPart,
        .unassigned code].map (rowOfCommand straps seq) =
      [.configure seq, .setTime seq, .trimTime seq, .loadPlan seq, .setEv seq, .start seq, .stop seq, .arm seq, .sleep seq,
        .clear seq, .resetPart seq straps, .unassignedCommandCode code seq]) ∧
  ∀ (high : BitVec 16) (c : CommandName) (seq : BitVec 8) (w : BusWord) (s : State),
    (∀ code, c = .unassigned code → codeAssigned code = false) → w.data = encodeCommandWord high c seq →
    w.whole = true → w.good = true → s.pins.inReset = false → s.path.following = none →
    s.path.controlBase < 2 ^ 24 →
    s.port.access = .pass { addr := BitVec.ofNat 24 s.path.controlBase, transfer := .write [w] } →
    exec .passThroughCompletion s =
      exec (rowOfCommand s.pins.straps seq c)
        { s with ram := writeWord s.ram s.path.controlBase w, port := { s.port with access := .noAccess } }

/-- An engine access completes: a write puts its enabled bytes in memory with their parity and no other byte changes, a read changes no
memory. The port, ACTIVE, is then ENTERING where the session is CLOSING or asleep and no request, transaction or access is left.
With no engine access in progress nothing happens. The commit access of a log record advances the producer index modulo the
capacity. A group of the status record written becomes that group's copy, its dirty mark cleared. A record leaves the list of records
under write at its commit access, or where its service was ended, and not before; it is there afterwards only where the grant that
follows has begun it again, and a record whose engine access is in progress is in the list. A held read that touches no other record is
released and granted, but for the engine at a starvation count of 4. That nothing happens with no access in progress is the model's
choice (log entry 5). -/
def Obligations.EngineAccessCompletes : Prop :=
  ∀ s : State,
    (∀ a : EngineAccess, a.addrs = (List.range a.length).map fun k => (BitVec.ofNat 24 a.addr + BitVec.ofNat 24 (4 * k)).toNat) ∧
    (∀ a, s.port.access = .engine a →
      ∃ t, exec .engineAccessComplete s = .next t ∧
        t.ram = (if a.write then writeWords s.ram a.addrs a.words else s.ram) ∧
        (RamCanonical s → a.write = true → a.length ≤ 8 → ∀ k w, k < a.length → a.words[k]? = some w → ∀ i < 4,
          let x := (BitVec.ofNat 24 a.addr + BitVec.ofNat 24 (4 * k)).toNat + i
          readRam t.ram x =
            if w.enables.getLsbD i then BitVec.ofBool (w.parity.getLsbD i) ++ (w.data >>> (8 * i)).setWidth 8
            else readRam s.ram x) ∧
        (s.port.retention = .active →
          t.port.retention =
            (if t.session.mayRetain = true ∧ t.engine.waiting = [] ∧ t.engine.service = none ∧ t.path.held = none ∧
                t.port.waitPass = none ∧ t.port.access = .noAccess then .entering
              else .active)) ∧
        (∀ x, (a.write = true → ∀ y ∈ a.addrs, x < y ∨ y + 4 ≤ x) → readRam t.ram x = readRam s.ram x) ∧
        (∀ sv l v, s.engine.service = some sv → sv.request = .log l → sv.todo = [a] → sv.ended = false → a.group = none →
          s.path.log = some v →
          t.engine.producer = (s.engine.producer + 1) % min ((v.limit - v.base + 1) / 32) 4096 ∧ StatusStands t) ∧
        (∀ sv g next rest, s.engine.service = some sv → sv.todo = a :: next :: rest → sv.ended = false → a.group = some g →
          t.engine.copies = s.engine.copies.set g (some (a.words.map BusWord.data)) ∧
            t.engine.dirty = s.engine.dirty.set g false) ∧
        (∀ b, t.port.access = .engine b → ∀ r, b.record = some r → r ∈ t.path.underWrite) ∧
        (∀ r, a.record = some r →
          a.commit = true ∨ (∃ sv, s.engine.service = some sv ∧ sv.ended = true) →
          (r ∈ t.path.underWrite → ∃ b, t.port.access = .engine b ∧ b.record = some r) ∧
          (∀ tx, s.path.held = some tx → txTouches tx (s.path.underWrite.filter (· ≠ r)) = false →
            s.port.retention = .active → s.port.starvation < 4 →
            t.port.access = .pass tx ∧ t.path.held = none ∧ t.port.waitPass = none)) ∧
        (∀ sv next rest, s.engine.service = some sv → sv.todo = a :: next :: rest → sv.ended = false → a.commit = false →
          NoIssue s → ∀ r ∈ s.path.underWrite, r ∈ t.path.underWrite)) ∧
    ((∀ a, s.port.access ≠ .engine a) → Leaves .engineAccessComplete s s)

/-- The RAM reports that it has entered retention: with a request waiting, or after a soft reset, the port is EXITING at once; else it is
RETAINED, and EXITING in its turn only where what follows has brought a request, and a CLOSING session closes: a supply sample is taken
and judged, and the session is asleep of its kind, or of kind OFF where the supply is then CRITICAL, with its lines, its sleep time set; a
deferred alert, the sample's own event among them, then begins a wake with cause ALERT and the holdoff timer, which waits for the memory,
unless the supply is CRITICAL or that timer runs; and a scheduled or idle wake whose time has come begins at once. It reports the exit:
the port is ACTIVE, ENTERING in its turn only where the conditions of entry hold again, no wake waits there, a waiting wake goes on to its
controller step, and the access waiting is granted. A report in another state of the port does nothing (the model's choice, log entry 5).
That the deferred alert is taken first at a close at which a scheduled or idle wake time has been reached too is the model's choice (log
entry 35). -/
def Obligations.RetentionReports : Prop :=
  ∀ (battery : Nat) (s : State),
    ((s.port.anyWaiting = true ↔
        s.port.waitPass.isSome = true ∨ s.port.waitEngine.isSome = true ∨ s.port.waitWake = true) ∧
      (s.session.mayRetain = true ↔
        s.session.state = .closing ∨ s.session.state = .asleepOff ∨ s.session.state = .asleepStandby)) ∧
    (s.port.retention = .entering → s.port.anyWaiting = true ∨ s.port.exitAfterEntry = true →
      ∃ t, exec (.retentionEntryComplete battery) s = .next t ∧ Follows s t ∧ t.port.retention = .exiting ∧
        t.port.exitAfterEntry = false) ∧
    (s.port.retention = .entering → s.port.anyWaiting = false → s.port.exitAfterEntry = false →
      ∃ t, exec (.retentionEntryComplete battery) s = .next t ∧
        t.port.retention = (if t.port.anyWaiting then .exiting else .retained) ∧
        (s.session.state ≠ .closing →
          Follows s t ∧
            (NoIssue s → NoFetch s → s.engine.waiting = [] → s.engine.service = none →
              s.session.asleep = false ∨ scheduledReached s = false ∧ idleReached s = false →
              t.port.retention = .retained)) ∧
        (s.session.state = .closing →
          StatusStands t ∧ t.session.state ≠ .closing ∧
            let x := supplyJudged battery s
            let off := x.supply.state = .critical ∨ s.session.sleepKind = .off
            let asleep : Session :=
              { x.session with
                state := if off then .asleepOff else .asleepStandby
                sleepKind := if x.supply.state = .critical then .off else s.session.sleepKind
                timer := none
                sleepTime := some s.tb.elapsed }
            let closed := fun y : Session =>
              { x with
                pins :=
                  if off then { x.pins with pwrEn := false, ctrlReset := true, wake := false }
                  else { x.pins with pwrEn := true, ctrlReset := false, wake := false }
                session := y }
            let alerted := x.session.deferredAlert = true ∧ x.supply.state ≠ .critical ∧ s.session.holdoff = none
            (¬alerted →
              Follows (closed asleep) t ∧
                (x.supply.state ≠ .critical → scheduledReached t = true ∨ idleReached t = true →
                  t.session.state = .waking)) ∧
            (alerted →
              t.session.deferredAlert = false ∧
              Follows
                (closed
                  { asleep with
                    state := .waking, late := false, phase := .memory
                    cause := if s.session.forcedRecovery then .forcedRecovery else .alert
                    holdoff := some (s.tb.elapsed + BitVec.ofNat 48 (s.config.settings.alertHoldoff * 1024)) })
                t))) ∧
    (s.port.retention = .exiting → s.port.access = .noAccess →
      let cold := s.session.sleepKind = .off ∨ s.session.forcedRecovery = true
      ∃ t, exec .retentionExitComplete s = .next t ∧ t.port.waitWake = false ∧
        t.port.retention =
          (if t.session.mayRetain = true ∧ t.engine.waiting = [] ∧ t.engine.service = none ∧ t.path.held = none ∧
              t.port.waitPass = none ∧ t.port.access = .noAccess then .entering
            else .active) ∧
        (NoIssue s →
          (∀ tx, s.port.waitPass = some tx → s.port.starvation < 4 → t.port.access = .pass tx) ∧
          (∀ a, s.port.waitEngine = some a → s.engine.service.isSome = true →
            s.port.waitPass = none ∨ 4 ≤ s.port.starvation → t.port.access = .engine a)) ∧
        (s.port.waitWake = false → Follows s t) ∧
        (s.port.waitWake = true → cold →
          Follows
            { s with
              pins := { s.pins with pwrEn := true, ctrlReset := true, wake := false }
              session := { s.session with phase := .resetHold } } t) ∧
        (s.port.waitWake = true → ¬cold →
          Follows
            { s with pins := { s.pins with wake := true }, session := { s.session with phase := .wakePulse } } t)) ∧
    (s.port.retention ≠ .entering → Leaves (.retentionEntryComplete battery) s s) ∧
    (s.port.retention ≠ .exiting → Leaves .retentionExitComplete s s)

/-! ### Issues, exits and transitions -/

/-- What decides a transition. FRAMES is met at its count of orders, CLOCK where the provisional due time has reached the first time value
after the entry time with its second of day and tick 0, ABOVE, BELOW and LIMIT at their hold count, NEVER never; it is decided once the
minimum dwell is reached too. A METERED retirement raises the hold counter, at most 255, where it qualifies for the exit kind in use and
sets it to 0 where it does not; any other retirement leaves it. The copy that an issue reads of a slot is its VALID entry's record, or a
FAULT one's, the last that passed, and none of an entry in another state. That a mark past the largest time value is one that no due time
reaches is the model's choice (log entry 39). -/
def Obligations.ExitConditions : Prop :=
  (∀ k : PlanCache,
    readableCopy k none = none ∧
    ∀ n,
      (k.entry? n = none → readableCopy k (some n) = none) ∧
      ∀ e, k.entry? n = some e →
        (e.state = .valid ∨ e.state = .fault → readableCopy k (some n) = e.record) ∧
        (e.state = .stale ∨ e.state = .fetching ∨ e.state = .invalid → readableCopy k (some n) = none)) ∧
  ∀ (g : SegmentControl) (c : Segment) (provisional : Time),
    (exitDecided g c provisional = true ↔ exitMet g c provisional = true ∧ c.minDwell ≤ g.frames) ∧
    (c.exitKind = .frames → (exitMet g c provisional = true ↔ c.exitParam ≤ g.frames)) ∧
    (c.exitKind = .never → exitMet g c provisional = false) ∧
    (c.exitKind = .above ∨ c.exitKind = .below ∨ c.exitKind = .limit →
      (exitMet g c provisional = true ↔ c.holdCount ≤ g.hold)) ∧
    (c.exitKind = .clock → c.exitParam < 86400 → ∀ entry, g.entryTime = some entry →
      ∃ mark : Nat, mark % 1024 = 0 ∧ mark / 1024 % 86400 = c.exitParam ∧ entry.toNat < mark ∧
        mark ≤ entry.toNat + 86400 * 1024 ∧ (exitMet g c provisional = true ↔ mark ≤ provisional.toNat)) ∧
    (∀ (el : Nat) (limit : Limit) (o : FrameOutcome),
      let after := holdAfter (some c) g.hold el limit o
      let up := min 255 (g.hold + 1)
      (o ≠ .metered → after = g.hold) ∧
      (o = .metered →
        (c.exitKind = .above → after = if c.exitParam ≤ el then up else 0) ∧
        (c.exitKind = .below → after = if el ≤ c.exitParam then up else 0) ∧
        (c.exitKind = .limit → after = if limit = .high ∨ limit = .low then up else 0) ∧
        (c.exitKind = .frames ∨ c.exitKind = .clock ∨ c.exitKind = .never → after = g.hold)) ∧
      holdAfter none g.hold el limit o = g.hold)

/-- The due time of an ordinary issue: the chain base and one effective interval, stretched while the supply is LOW, advanced
by the fewest whole intervals past the present time, whose number is the skip count; outside the daily window it moves to the
next occurrence of "from". The provisional due time of an exit is that before the daily window. Within the largest time value (log entry
8). -/
def Obligations.OrdinaryDueTime : Prop :=
  (∀ (x : Time) (n : Nat), x.toNat + n < 2 ^ 42 → (addTicks x n).toNat = x.toNat + n) ∧
  (∀ (start stop : Nat) (x : Time),
    let window :=
      if start = stop then True
      else if start < stop then start ≤ x.seconds % 86400 ∧ x.seconds % 86400 < stop
      else start ≤ x.seconds % 86400 ∨ x.seconds % 86400 < stop
    (window → deferDaily start stop x = (x, false)) ∧
    (¬window → start < 86400 → x.toNat + 86400 * 1024 < 2 ^ 42 →
      ∃ due : Time, deferDaily start stop x = (due, true) ∧ due.tick = 0 ∧ due.seconds % 86400 = start ∧
        x.toNat < due.toNat ∧ due.toNat ≤ x.toNat + 86400 * 1024)) ∧
  ∀ (base : Time) (c : Segment) (s : State), s.sched.chainBase = some base →
    let interval := if s.supply.state = .low then c.interval * c.stretch else c.interval
    let now := s.tb.time.toNat
    let window := fun x : Nat =>
      if s.sched.dailyFrom = s.sched.dailyTo then True
      else if s.sched.dailyFrom < s.sched.dailyTo then s.sched.dailyFrom ≤ x ∧ x < s.sched.dailyTo
      else s.sched.dailyFrom ≤ x ∨ x < s.sched.dailyTo
    0 < interval → s.sched.dailyFrom < 86400 → base.toNat + interval + 86400 * 1024 < 2 ^ 42 →
    now + interval + 86400 * 1024 < 2 ^ 42 →
    let d := ordinaryDue s c
    let advanced := base.toNat + interval + d.skips * interval
    (provisionalDue s c).toNat = advanced ∧ now < advanced ∧ (0 < d.skips → advanced ≤ now + interval) ∧
    d.stretched = decide (s.supply.state = .low) ∧
    (window (advanced / 1024 % 86400) → d.due.toNat = advanced ∧ d.deferred = false) ∧
    (¬window (advanced / 1024 % 86400) →
      d.deferred = true ∧ d.due.tick = 0 ∧ d.due.seconds % 86400 = s.sched.dailyFrom ∧ advanced < d.due.toNat ∧
        d.due.toNat ≤ advanced + 86400 * 1024)

/-- The orders that issues append where no exit is decided. An ordinary issue in RUNNING, owed by a retirement or by a resumption's later
issues, applies the segment's mode. A START's first and second issue, every issue in FAULT_HOLD and the first of a resumption carry the
current EL into the bounds without a mode and evaluate no exit. A START's first order, made at once or after a wait, in FAULT_HOLD too,
has its first-of-segment mark set and its due time by the START request, or one interval ahead, at least one second ahead and moved into
the daily window, with no skips counted. Each is made under the segment's copy, takes the next frame number, sets the bias, the exposure
level, the due time and the chain base, counts its skips and one more order under the segment, and requests a STATUS_WRITE and its
ORDER_WRITE, of the entry's fields and not VOID. After a START's last issue with the supply CRITICAL the run is suspended, to resume in
the run state that START chose, and the latched buffer freed. That a START's issue stays one in FAULT_HOLD is the model's choice (log
entry 46). Issues are made one after another in one step until none is owed or the one at the head waits, where their VOID transitions
void no more orders than the cache has entries: a chain that voids more enters a segment twice (log entry 13). -/
def Obligations.OrdinaryIssueAppendsAnOrder : Prop :=
  (∀ (o : Origin) (rest : List Origin) (c : Segment) (s : State),
    s.sched.owed = o :: rest → s.sched.heldCopy = none ∨ s.seg.decided = none →
    readableCopy s.cache s.seg.current = some c →
    let bias := clampInt (-512) 512 (c.biasStart + c.biasRate * s.seg.frames)
    let a := attemptIssue o s
    let appends := fun (first : Bool) (d : DueTime) (level : Nat × Limit) =>
      ∃ e : Entry,
        e.frame = s.sched.nextFrame ∧ e.due = d.due ∧ e.el = level.1 ∧ e.limit = level.2 ∧ e.s = c.shutterPart level.1 ∧
        e.g = c.gainPart level.1 ∧ e.shutterUs = shutterTime e.s ∧ e.gainCode = gainCode e.g ∧
        s.seg.current.getD 0 = e.slot ∧ e.first = first ∧ e.stretched = d.stretched ∧ e.deferred = d.deferred ∧
        e.skipped = min d.skips 65535 ∧ e.armed = false ∧ e.triggered = false ∧ e.deadline = none ∧
        e.discounted = false ∧ a.made = true ∧ StatusStands a.state ∧
        Request.order
            { frame := e.frame, due := e.due, el := e.el, shutterUs := e.shutterUs, gainCode := e.gainCode, slot := e.slot,
              first := e.first, stretched := e.stretched, deferred := e.deferred, skipped := e.skipped,
              void := false } ∈
            a.state.engine.queued ∧
        (let issued : State :=
          { s with
            sched :=
              { s.sched with
                queue := s.sched.queue ++ [e], nextFrame := s.sched.nextFrame + 1, chainBase := some e.due,
                skips := min 4294967295 (s.sched.skips + d.skips), owed := rest, heldCopy := none, startRequest := none }
            expo := { s.expo with el := e.el }
            seg :=
              { s.seg with
                copyRead := some c, bias := bias, frames := min 65535 (s.seg.frames + 1),
                entryTime := some (s.seg.entryTime.getD e.due) } }
        Near
          (if o.isStart = true ∧ s.supply.state = .critical ∧ s.sched.runState.capturing = true ∧
              ∀ x ∈ rest, x.isStart = false then
            { issued with
              sched :=
                { issued.sched with
                  runState := .suspended, resumeState := some (s.sched.startState.getD s.sched.runState), owed := [] }
              seg := { issued.seg with decided := none }
              stats := { s.stats with latched := none } }
          else issued)
          a.state)
    (∀ frame metered, o = .retirement frame metered ∨ (o = .resumption false ∧ metered = false) →
      s.sched.runState = .running → exitDecided s.seg c (provisionalDue s c) = false →
      let held :=
        match s.expo.held with
        | none => none
        | some h => if metered = true ∧ h.frame = frame then some h else none
      appends false (ordinaryDue s c) (newLevel c (.mode held) bias s.expo.el)) ∧
    (o = .start false ∨ o = .resumption true ∨ (s.sched.runState = .faultHold ∧ o.isStart = false) →
      appends false (ordinaryDue s c) (c.clampLevel s.expo.el, .noLimit)) ∧
    (o = .start true →
      let interval := if s.supply.state = .low then c.interval * c.stretch else c.interval
      let cand := s.sched.startRequest.getD (addTicks s.tb.time interval)
      let due :=
        deferDaily s.sched.dailyFrom s.sched.dailyTo
          (if cand.toNat < s.tb.time.toNat + 1024 then addTicks s.tb.time 1024 else cand)
      appends true
        { due := due.1, skips := 0, deferred := due.2
          stretched := decide (s.sched.startRequest = none ∧ s.supply.state = .low) }
        (c.clampLevel s.expo.el, .noLimit))) ∧
  (∀ s : State, s.sched.voids + s.cache.entries.length < 4294967295 →
    let t := issueOwed s
    t.sched.voids ≤ s.sched.voids + s.cache.entries.length → t.sched.runState.capturing = true →
      t.sched.owed = [] ∨ ∃ o rest, t.sched.owed = o :: rest ∧ (attemptIssue o t).made = false) ∧
  (∀ s : State,
    let made := issueOwed { s with pins := { s.pins with trigger := false } }
    ∃ t, exec .triggerPulseEnd s = .next t ∧ t.seg = made.seg ∧ t.expo = made.expo ∧
      t.sched = { made.sched with runState := t.sched.runState } ∧
      (t.sched.runState = made.sched.runState ∨
        (made.sched.runState.capturing = true ∧ t.sched.runState.capturing = true)))

/-- An issue in RUNNING whose exit is decided. With "no slot" next the run ends STOPPED, FINISHED, with no order appended, the queue
abandoned and the latched buffer freed; every other issue leaves the buffer. With the next slot's entry VALID the settle kind of the
segment left is applied: VOID retires the ISSUED entries VOIDED, head first, each with its counter, its owed issue and its slot rewritten
with its fields and VOID, returns the chain base and the current EL to the latest order not voided, and discounts the TRIGGERED entries;
KEEP leaves the queue. The segment is then entered and its first order appended, with the mode applied to the current EL clamped into the
new bounds and its due time reckoned under the new segment. With the entry STALE, FETCHING or absent the issue waits with the transition
decided; an absent entry is created, and of a full cache the least recent entry makes room that is none of the current segment's, the
loaded plan's entry slot's and the one in flight. With the entry FAULT the run enters FAULT_HOLD and the issue is made under the old
segment, without its mode. An issue that has waited so goes on with the slot and the copy it kept, by the entry as it then stands, its
exit not evaluated again; in a FAULT_HOLD that has begun meanwhile it is made under that copy, without its mode. The model's inferences:
where an issue waits (log entry 12), FAULT_HOLD judged after a refused transition's issue (log entry 16), that it continues under the copy
kept (log entry 20), and FAULT_HOLD after the issue where the entered segment's own next entry is FAULT (log entry 38). -/
def Obligations.DecidedExitTakesTheTransition : Prop :=
  ∀ (o : Origin) (frame : Word) (metered : Bool) (rest : List Origin) (c : Segment) (s : State),
    s.sched.owed = o :: rest → o = .retirement frame metered ∨ (o = .resumption false ∧ metered = false) →
    let a := attemptIssue o s
    let decides :=
      (s.sched.heldCopy = none ∨ s.seg.decided = none) ∧ readableCopy s.cache s.seg.current = some c ∧
        exitDecided s.seg c (provisionalDue s c) = true
    let written := fun (x : Entry) (void : Bool) =>
      Request.order
          { frame := x.frame, due := x.due, el := x.el, shutterUs := x.shutterUs, gainCode := x.gainCode, slot := x.slot,
            first := x.first, stretched := x.stretched, deferred := x.deferred, skipped := x.skipped,
            void := void } ∈
          a.state.engine.queued
    let waited := fun n : Nat => s.sched.heldCopy = some c ∧ s.seg.decided = some n
    let copy :=
      match s.sched.heldCopy, s.seg.decided with
      | some _, some _ => s.seg.copyRead
      | _, _ => some c
    let held :=
      let due := ordinaryDue s c
      ∃ e : Entry,
        a.made = true ∧ StatusStands a.state ∧ e.frame = s.sched.nextFrame ∧ e.first = false ∧
        s.seg.current.getD 0 = e.slot ∧ e.el = c.clampLevel s.expo.el ∧ e.limit = .noLimit ∧ e.due = due.due ∧
        e.stretched = due.stretched ∧ e.deferred = due.deferred ∧ e.skipped = min due.skips 65535 ∧
        a.state.sched =
          { s.sched with
            runState := .faultHold, queue := s.sched.queue ++ [e], nextFrame := s.sched.nextFrame + 1,
            chainBase := some e.due, skips := min 4294967295 (s.sched.skips + due.skips), owed := rest,
            heldCopy := none, startRequest := none } ∧
        a.state.expo = { s.expo with el := e.el } ∧
        a.state.seg =
          { s.seg with
            copyRead := copy, decided := none, bias := clampInt (-512) 512 (c.biasStart + c.biasRate * s.seg.frames),
            frames := min 65535 (s.seg.frames + 1), entryTime := some (s.seg.entryTime.getD e.due) } ∧
        a.state.cache = s.cache ∧ a.state.stats = s.stats ∧ written e false
    Fixed s a.state ∧ Undisturbed s a.state ∧
    (s.sched.runState = .running → decides → c.next = none →
      a.made = true ∧ StatusStands a.state ∧ a.state.expo = s.expo ∧ a.state.stats = { s.stats with latched := none } ∧
        a.state.sched =
          { s.sched with
            runState := .stopped, finish := .finished, queue := [], owed := [], heldCopy := none, startRequest := none,
            lastRetired := (s.sched.queue.getLast?.map Entry.frame).or s.sched.lastRetired,
            latestKept := s.sched.queue.foldl laterKept s.sched.latestKept } ∧
        a.state.seg = { s.seg with copyRead := some c, decided := none }) ∧
    (∀ n, s.sched.runState = .faultHold → waited n → held) ∧
    (∀ n, s.sched.runState = .running → (decides ∧ c.next = some n) ∨ waited n →
      (∀ x d, s.cache.entry? n = some x → x.state = .valid → x.record = some d →
        let voided := if c.settle = .void then s.sched.queue.filter fun y => !y.triggered else []
        let kept :=
          if c.settle = .void then
            (s.sched.queue.filter fun y => y.triggered).map fun y => { y with discounted := true }
          else s.sched.queue
        let standing := ((s.sched.queue.filter fun y => y.triggered).foldl laterKept s.sched.latestKept)
        let base := if voided = [] then s.expo.el else (standing.map Prod.snd).getD s.expo.el
        let chain := if voided = [] then s.sched.chainBase else (standing.map Prod.fst).or s.sched.chainBase
        let held :=
          match s.expo.held with
          | none => none
          | some h => if metered = true ∧ h.frame = frame then some h else none
        let bias := clampInt (-512) 512 d.biasStart
        let level := newLevel d (.mode held) bias (d.clampLevel base)
        let due := ordinaryDue { s with sched := { s.sched with chainBase := chain } } d
        ∃ e : Entry,
          a.made = true ∧ StatusStands a.state ∧ e.frame = s.sched.nextFrame ∧ e.first = true ∧ e.slot = n ∧
          e.el = level.1 ∧ e.limit = level.2 ∧ e.s = d.shutterPart e.el ∧ e.g = d.gainPart e.el ∧
          e.shutterUs = shutterTime e.s ∧ e.gainCode = gainCode e.g ∧ e.due = due.due ∧
          e.stretched = due.stretched ∧ e.deferred = due.deferred ∧ e.skipped = min due.skips 65535 ∧
          e.triggered = false ∧ e.armed = false ∧ e.deadline = none ∧ e.discounted = false ∧
          a.state.sched =
            { s.sched with
              queue := kept ++ [e], nextFrame := s.sched.nextFrame + 1, chainBase := some e.due,
              lastRetired := (voided.getLast?.map Entry.frame).or s.sched.lastRetired,
              voids :=
                if voided = [] then s.sched.voids else min 4294967295 (s.sched.voids + voided.length),
              skips := min 4294967295 (s.sched.skips + due.skips),
              owed := rest ++ voided.map fun y => .retirement y.frame false,
              heldCopy := none, startRequest := none } ∧
          a.state.expo = { s.expo with el := e.el } ∧
          a.state.seg =
            { current := some n, frames := 1, hold := 0, bias := bias, entryTime := some e.due, copyRead := some d,
              decided := none } ∧
          a.state.cache = s.cache.touch n ∧ a.state.stats = s.stats ∧
          written e false ∧
          (∀ y, voided = [y] → (∀ r ∈ s.engine.queued, r.orderContent? = none) →
            orderSlot y.frame ≠ orderSlot e.frame → written y true)) ∧
      ((∀ x, s.cache.entry? n = some x → x.state = .stale ∨ x.state = .fetching) →
        a.made = false ∧ a.state.expo = s.expo ∧ a.state.stats = s.stats ∧ a.state.sched = { s.sched with heldCopy := some c } ∧
          a.state.seg = { s.seg with copyRead := copy, decided := some n } ∧
          ((s.cache.entry? n).isSome = true → a.state.cache = s.cache) ∧
          (s.cache.entry? n = none → s.cache.entries.length < 32 →
            a.state.cache = { s.cache with entries := s.cache.entries ++ [newEntry n] }) ∧
          (∀ pre y post, s.cache.entry? n = none → 32 ≤ s.cache.entries.length → s.cache.entries = pre ++ y :: post →
            let stays := fun z : CacheEntry =>
              s.seg.current = some z.slot ∨ s.cache.loaded = some z.slot ∨
                s.cache.fetch = some { slot := z.slot, orphan := false }
            (∀ z ∈ pre, stays z) → ¬stays y →
            a.state.cache =
              { s.cache with entries := (s.cache.entries.filter fun z => z.slot ≠ y.slot) ++ [newEntry n] })) ∧
      (∀ x, s.cache.entry? n = some x → x.state = .fault → held))

/-! ### Exposure arithmetic -/

/-- The brightness level: 64 steps a doubling and linear within the stop, 0 taken as 1; its second term is at most 63; it
never falls as x rises and rises by 64 at each doubling; it is at most 767 to 4095 and 1279 to 1,048,575; and the spec's own
values. -/
def Obligations.BrightnessLevel : Prop :=
  brightness 0 = brightness 1 ∧
  (∀ x k, 2 ^ k ≤ x → x < 2 ^ (k + 1) →
    brightness x = 64 * k + (x - 2 ^ k) * 64 / 2 ^ k ∧ (x - 2 ^ k) * 64 / 2 ^ k ≤ 63) ∧
  (∀ x y, x ≤ y → brightness x ≤ brightness y) ∧ (∀ x, 1 ≤ x → brightness (2 * x) = brightness x + 64) ∧
  (∀ x, x ≤ 4095 → brightness x ≤ 767) ∧ (∀ x, x ≤ 1048575 → brightness x ≤ 1279) ∧
  brightness 1 = 0 ∧ brightness 3 = 96 ∧ brightness 100 = 420 ∧ brightness 480 = 568 ∧ brightness 1200 = 651 ∧
  brightness 4095 = 767 ∧ brightness 1048575 = 1279

/-- The metering sums, the highlight guard and the correction of a metered TRACK issue. The weight sum, the weighted sum and the clip count
run over the zones whose zone word has its presence mark: the weight of the zone in the set, that times its value, and, whatever the
weight, one for a value at or above the clip level. With guard zones above 0 and reached, the error becomes
the smaller of itself and −guard step, in −1279..0 for an error of at least −1279 and a guard step of at most 127; else it is
unchanged. The correction is 0 within the deadband, else error × gain
numerator / 16 truncated toward zero, clamped into −slew..+slew. -/
def Obligations.GuardAndCorrection : Prop :=
  ∀ (c : Segment) (clip : Nat) (e : Int),
    (0 < c.guardZones → c.guardZones ≤ clip →
      guardError c clip e = min e (-(c.guardStep : Int)) ∧
      (-1279 ≤ e → c.guardStep ≤ 127 → -1279 ≤ guardError c clip e ∧ guardError c clip e ≤ 0)) ∧
    (c.guardZones = 0 ∨ clip < c.guardZones → guardError c clip e = e) ∧
    (∀ (u : Tuning) (set : Nat) (p : BitVec 32) (zs : List Nat),
      let sums := meterFrom u set p 0 zs
      let present := (List.range zs.length).filter fun i => p.getLsbD (i / 2)
      sums.wsum = (present.map fun i => u.weight set i).sum ∧
        sums.total = (present.map fun i => u.weight set i * zs.getD i 0).sum ∧
        sums.clip = (present.filter fun i => decide (u.clipLevel ≤ zs.getD i 0)).length) ∧
    (e.natAbs ≤ c.deadband → correction c e = 0) ∧
    (c.deadband < e.natAbs →
      ∃ q : Int,
        (0 ≤ e → 16 * q ≤ e * c.gainNum ∧ e * c.gainNum < 16 * q + 16) ∧
        (e < 0 → 16 * q - 16 < e * c.gainNum ∧ e * c.gainNum ≤ 16 * q) ∧
        correction c e = max (-(c.slew : Int)) (min (c.slew : Int) q)) ∧
    -(c.slew : Int) ≤ correction c e ∧ correction c e ≤ c.slew

/-- The usable exposure time of a copy, floor(interval × 15625 / 16) less 1000 × the readout margin, its shutter ceiling, the lesser of the
shutter max and the brightness level of that time in units of 32 µs, and its bounds, el_min and the lesser of el_max and the ceiling plus
the gain max. The split of a level into shutter and gain under a valid copy, the shutter time and the gain code: their formulas, their
ranges, that both rise with their parts, that the shutter time of BL(x) is at most 32 × x, and that an order's shutter time
fits its segment's usable interval, or is the shortest, 32 µs, where that is shorter. -/
def Obligations.ShutterAndGain : Prop :=
  (∀ c : Segment,
    c.usableUs = c.interval * 15625 / 16 - 1000 * c.readoutMargin ∧
    c.shutterCeiling =
      min c.shutterMax (if c.usableUs < 32 then 0 else brightness (min (c.usableUs / 32) 1048575)) ∧
    c.lo = c.elMin ∧ c.hi = min c.elMax (c.shutterCeiling + c.gainMax) ∧
    (c.inRange = true → 1 ≤ c.usableUs ∧ c.shutterCeiling ≤ 1279 ∧ c.hi ≤ 1663)) ∧
  (∀ (c : Segment) (el : Nat), c.inRange = true → c.elMin ≤ c.hi → el ≤ c.hi →
    let sh := c.shutterPart el
    let ga := c.gainPart el
    sh = min el c.shutterCeiling ∧ ga = el - sh ∧ sh + ga = el ∧ sh ≤ 1279 ∧ ga ≤ c.gainMax ∧ ga ≤ 384 ∧
    32 ≤ shutterTime sh ∧ shutterTime sh ≤ 33292288 ∧ 16 ≤ gainCode ga ∧ gainCode ga ≤ 1024 ∧
    (32 ≤ c.usableUs → shutterTime sh ≤ c.usableUs) ∧
    (c.usableUs < 32 → c.shutterCeiling = 0 ∧ shutterTime sh = 32)) ∧
  (∀ i f, f < 64 → shutterTime (64 * i + f) = (64 + f) * 2 ^ i / 2 ∧ gainCode (64 * i + f) = (64 + f) * 2 ^ i / 4) ∧
  (∀ x y, x ≤ y → shutterTime x ≤ shutterTime y ∧ gainCode x ≤ gainCode y) ∧
  shutterTime 0 = 32 ∧ shutterTime 1279 = 33292288 ∧ gainCode 0 = 16 ∧ gainCode 384 = 1024 ∧
  (∀ x, 1 ≤ x → x ≤ 1048575 → shutterTime (brightness x) ≤ 32 * x)

/-! ### Resets -/

/-- A power-on reset, whatever the state it finds: every block at its reset value, CONTROL at the base of the strap pins, the port EXITING
with the controller's transaction waiting, RAM as it was but for an engine write in progress, whose words transferred so far, the first of
its burst, are in memory, the rest not written and no byte elsewhere changed; and the power-on sample judged from NORMAL with the default
thresholds where the reset has ended. A row given while the part is still held in that reset goes on with the exit begun (log entry 7).
The machine's reset state is one that this row leaves as it is, its pin levels the model's choice (log entry 2). How many words are
transferred is a free value, and that they are the first of the burst the model's choice (log entry 9). The model's choices among the
values: the staging depth and the daily window 0 and no words returned (log entry 27), the crystal-running indication as the row's operand
gives it (log entry 36), the count of ticks since the crystal's last stop 0 (log entry 42), and the transaction held to follow at once
kept (log entry 43). -/
def Obligations.PowerOnResetState : Prop :=
  (exec (.powerOnReset { straps := 0, battery := 3650, crystal := true, ended := true }) State.reset = .next State.reset ∧
    State.reset.ram = [] ∧ State.reset.pending = [] ∧ State.reset.port.waitPass = none ∧
    State.reset.path.following = none) ∧
  ∀ (pins : PowerPins) (s : State),
    ∃ t, exec (.powerOnReset pins) s = .next t ∧
      t.pins =
        { straps := pins.straps, batterySense := pins.battery, pwrEn := true, wake := false, ctrlReset := false,
          trigger := false, inReset := !pins.ended } ∧
      t.tb =
        { time := 0, elapsed := 0, source := .crystal, unset := true, degraded := false, crystalRunning := pins.crystal,
          sinceStop := 0 } ∧
      t.session.course =
        { state := .open, cause := .cold, late := false, sleepKind := .noSleep, forcedRecovery := false,
          timer := some (BitVec.ofNat 48 (600 * 1024)), sleepTime := none, counts := .zero, pendingSet := 0,
          holdoff := none, deferredAlert := false, cold := true, phase := .noWake } ∧
      t.sched =
        { runState := .unconfigured, finish := .noReason, resumeState := none, queue := [], nextFrame := 0,
          lastRetired := none, depth := 0, dailyFrom := 0, dailyTo := 0, owed := [], heldCopy := none,
          startRequest := none, startState := none, chainBase := none, latestKept := none, triggers := 0, misses := 0,
          voids := 0, unmetered := 0, skips := 0 } ∧
      t.seg =
        { current := none, frames := 0, hold := 0, bias := 0, entryTime := none, copyRead := none, decided := none } ∧
      t.expo = { el := 0, held := none } ∧ t.stats = { assembler := .idle, latched := none, flags := .clear } ∧
      t.cache = { entries := [], loaded := none, fetch := none, walk := none, fault := none } ∧
      t.path.table =
        { controlBase := pins.straps.toNat * 0x200000 + 0x1FF000, plan := none, stat := none, log := none,
          underWrite := [], held := none, arg1 := 0, arg2 := 0, arg3 := 0, consumer := none, returned := [],
          following := s.path.following } ∧
      t.port.waitWake = false ∧
      (s.pins.inReset = false ∨ s.port.retention = .exiting →
        t.port.retention = .exiting ∧ t.port.starvation = 0 ∧ t.port.waitPass = s.port.waitPass.or s.path.held ∧
          t.path.underWrite = [] ∧ t.path.held = none ∧
          ((∀ tx, s.port.access ≠ .pass tx) → t.port.access = .noAccess)) ∧
      (s.pins.inReset = true → s.port.retention = .active →
        t.port.retention = .active ∧
          (∀ tx, s.port.waitPass.or s.path.held = some tx → (∀ x, s.port.access ≠ .pass x) → t.port.access = .pass tx)) ∧
      (∀ tx, s.port.access = .pass tx → t.port.access = .pass tx) ∧
      t.engine.kept = (0, [none, none, none, none], [false, false, false, false]) ∧ t.engine.lost = 0 ∧
      t.cmd = { lastDecided := none, busy := none, resetCause := .powerOn } ∧
      t.config.tuning = none ∧
      t.config.settings =
        { wakeLead := 30, sessionLimit := 600, minSleep := 5, offGap := 60, idleWake := 3600, alertHoldoff := 3600,
          wakeThreshold := 7, wakeLevels := ⟨0, 0, 0, 0, 0, 0, 0, 0⟩, low := 3400, crit := 3100, hyst := 100,
          recheckPeriod := 600 } ∧
      t.supply.lastSample = min pins.battery 8191 ∧ t.pending = s.pending ∧
      ((∀ a, s.port.access ≠ .engine a) → t.ram = s.ram) ∧
      (∀ a, s.port.access = .engine a →
        (a.write = false → t.ram = s.ram) ∧
        (a.write = true →
          ∃ n ≤ a.length,
            t.ram = writeWords s.ram (a.addrs.take n) a.words ∧
              ∀ x, (∀ y ∈ a.addrs.take n, x < y ∨ y + 4 ≤ x) → readRam t.ram x = readRam s.ram x)) ∧
      (pins.ended = false ∨ 3400 ≤ pins.battery →
        t.supply.state = .normal ∧ t.supply.recheck = none ∧ t.session.counts = .zero ∧ t.session.pendingSet = 0 ∧
          t.engine.waiting = [] ∧ t.engine.service = none ∧ t.engine.updateCount = 0) ∧
      (pins.ended = true → pins.battery < 3100 →
        t.supply.state = .critical ∧ t.supply.recheck = some (BitVec.ofNat 48 (600 * 1024)) ∧
          t.session.counts.battCrit = 1 ∧ StatusStands t) ∧
      (pins.ended = true → 3100 ≤ pins.battery → pins.battery < 3400 →
        t.supply.state = .low ∧ t.supply.recheck = none ∧ t.session.counts.battLow = 1 ∧ StatusStands t)

/-- The soft reset of RESET_PART, taken in every state, leaves the session OPEN with its timer started afresh with the default
session limit, its wake cause, late mark, sleep kind and the COLD flag kept, its counts, marks and timers cleared, the lines
of OPEN and the default session parameters. -/
def Obligations.SoftResetOpensTheSession : Prop :=
  ∀ (seq : BitVec 8) (straps : BitVec 3) (s : State),
    s.pins.inReset = false → ∃ t, exec (.resetPart seq straps) s = .next t ∧
      t.session =
        { state := .open, cause := s.session.cause, late := s.session.late, sleepKind := s.session.sleepKind,
          forcedRecovery := false, timer := some (s.tb.elapsed + BitVec.ofNat 48 (600 * 1024)), sleepTime := none,
          counts := .zero, pendingSet := 0, holdoff := none, deferredAlert := false, cold := s.session.cold,
          phase := .noWake } ∧
      t.pins.pwrEn = true ∧ t.pins.ctrlReset = false ∧ t.pins.wake = false ∧
      t.config.settings =
        { wakeLead := 30, sessionLimit := 600, minSleep := 5, offGap := 60, idleWake := 3600, alertHoldoff := 3600,
          wakeThreshold := 7, wakeLevels := ⟨0, 0, 0, 0, 0, 0, 0, 0⟩, low := 3400, crit := 3100, hyst := 100,
          recheckPeriod := 600 }

/-- The soft reset of every other block: the run UNCONFIGURED with an empty queue and its counters 0, segment, exposure, intake, cache and
path at their reset values, CONTROL at the base of the strap pins, which the row's operand gives (log entry 28), the time base and the
supply kept, RESET_PART decided OK with cause SOFT, the status record's first write in service with update count 1 and all four groups;
the RAM is as it was but for an engine write in progress, whose words transferred so far, the first of its burst, are in memory, the rest
not written and no byte elsewhere changed, and the port leaves retention. How many words are transferred is a free value, and that they
are the first of the burst the model's choice (log entry 9). The model's choices among the values: the staging depth and the daily window
0 and no words returned (log entry 27), the crystal-running indication kept (log entry 36), the count of ticks since its last stop (log
entry 42), and the transaction held to follow at once kept (log entry 43). -/
def Obligations.SoftResetReturnsTheBlocks : Prop :=
  ∀ (seq : BitVec 8) (straps : BitVec 3) (s : State),
    s.pins.inReset = false → ∃ t, exec (.resetPart seq straps) s = .next t ∧
      t.sched =
        { runState := .unconfigured, finish := .noReason, resumeState := none, queue := [], nextFrame := 0,
          lastRetired := none, depth := 0, dailyFrom := 0, dailyTo := 0, owed := [], heldCopy := none,
          startRequest := none, startState := none, chainBase := none, latestKept := none, triggers := 0, misses := 0,
          voids := 0, unmetered := 0, skips := 0 } ∧
      t.seg =
        { current := none, frames := 0, hold := 0, bias := 0, entryTime := none, copyRead := none, decided := none } ∧
      t.expo = { el := 0, held := none } ∧ t.stats = { assembler := .idle, latched := none, flags := .clear } ∧
      t.cache = { entries := [], loaded := none, fetch := none, walk := none, fault := none } ∧
      t.path.table =
        { controlBase := straps.toNat * 0x200000 + 0x1FF000, plan := none, stat := none, log := none,
          underWrite := [], held := none, arg1 := 0, arg2 := 0, arg3 := 0, consumer := none, returned := [],
          following := s.path.following } ∧
      t.tb = s.tb ∧ t.supply = s.supply ∧ t.pins.trigger = false ∧ t.config.tuning = none ∧
      t.cmd = { lastDecided := some (seq, .ok), busy := none, resetCause := .soft } ∧
      t.engine.producer = 0 ∧ t.engine.lost = 0 ∧ t.engine.waiting = [] ∧ t.engine.updateCount = 1 ∧
      (∃ sv, t.engine.service = some sv ∧ sv.request = .status ∧
        sv.todo.map EngineAccess.group = [some 0, some 1, some 2, some 3, none]) ∧
      t.port.waitWake = false ∧
      (s.port.retention = .active → t.port.retention = .active) ∧
      (s.port.retention = .entering → t.port.retention = .entering ∧ t.port.exitAfterEntry = true) ∧
      (s.port.retention = .retained ∨ s.port.retention = .exiting → t.port.retention = .exiting) ∧
      ((∀ a, s.port.access ≠ .engine a) → t.ram = s.ram) ∧
      (∀ a, s.port.access = .engine a →
        (a.write = false → t.ram = s.ram) ∧
        (a.write = true →
          ∃ n ≤ a.length,
            t.ram = writeWords s.ram (a.addrs.take n) a.words ∧
              ∀ x, (∀ y ∈ a.addrs.take n, x < y ∨ y + 4 ≤ x) → readRam t.ram x = readRam s.ram x)) ∧ t.pending = s.pending

/-! ### Invariants that every step keeps -/

/-- The RAM stays in its canonical form: addresses strictly rising, and no entry equal to what an unlisted address reads as, byte 0 with
good parity. The form and that value are the model's own (log entry 1). -/
def Obligations.RamStaysCanonical : Prop :=
  (∀ m, ramWf m = true ↔ (m.map Prod.fst).Pairwise (· < ·) ∧ ∀ x ∈ m, x.2 ≠ 0x100) ∧ (∀ a, readRam [] a = 0x100) ∧
  ∀ s t : State, RamCanonical s → step s = .next t → RamCanonical t

/-- The starvation count stays at most 4, and 0 whenever no engine request waits. -/
def Obligations.StarvationStaysBounded : Prop :=
  ∀ s t : State, StarvationBounded s → step s = .next t → StarvationBounded t

/-- The session timer runs in OPEN alone, the recheck timer in CRITICAL alone, and TIME_DEGRADED is set exactly while the
source is RC. -/
def Obligations.TimersFollowTheirStates : Prop :=
  ∀ s t : State, TimerRunsInOpen s ∧ RecheckRunsInCritical s ∧ DegradedOnRc s → step s = .next t →
    TimerRunsInOpen t ∧ RecheckRunsInCritical t ∧ DegradedOnRc t

/-- The controller lines stay those of the session state, and the session's marks agree with it. -/
def Obligations.LinesStayThoseOfTheSession : Prop :=
  ∀ s t : State, LinesAgree s → step s = .next t → LinesAgree t

/-- The order book stays balanced: a capturing run holds and owes D orders together, and D is at most 2. -/
def Obligations.OrderBookStaysBalanced : Prop :=
  ∀ s t : State, OrderBookBalances s → step s = .next t → OrderBookBalances t

/-- The Record Engine's queue stays within 2 ORDER_WRITE, 1 STATUS_WRITE, 3 LOG_WRITE, 1 PLAN_FETCH, 1 CONFIG_READ and 8 requests
in all, and its reads stay those asked for: a fetch in flight, a CONFIGURE that is busy. That an ORDER_WRITE in service that has given up
its place is no longer counted while its access still runs is the model's choice (log entry 23). -/
def Obligations.EngineQueueStaysWithinLimits : Prop :=
  ∀ s t : State, EngineQueueLimits s ∧ ReadsAgree s → step s = .next t → EngineQueueLimits t ∧ ReadsAgree t

/-- The state after a power-on reset meets each of the invariants. -/
def Obligations.ResetMeetsTheInvariants : Prop :=
  RamCanonical State.reset ∧ StarvationBounded State.reset ∧ TimerRunsInOpen State.reset ∧
    RecheckRunsInCritical State.reset ∧ DegradedOnRc State.reset ∧ LinesAgree State.reset ∧
    OrderBookBalances State.reset ∧ EngineQueueLimits State.reset ∧ ReadsAgree State.reset
end

