-- ==== Sys2Proof/Laws/State.lean ====
section
/-! SUPPORT. One lemma for each field under each update of the state, so that no proof unfolds a record update. -/

namespace Sys2Proof.Machine

section
variable (f : Pins → Pins) (s : State)
@[simp] theorem State.modPins_pins : (s.modPins f).pins = f s.pins := rfl
@[simp] theorem State.modPins_tb : (s.modPins f).tb = s.tb := rfl
@[simp] theorem State.modPins_supply : (s.modPins f).supply = s.supply := rfl
@[simp] theorem State.modPins_session : (s.modPins f).session = s.session := rfl
@[simp] theorem State.modPins_sched : (s.modPins f).sched = s.sched := rfl
@[simp] theorem State.modPins_seg : (s.modPins f).seg = s.seg := rfl
@[simp] theorem State.modPins_expo : (s.modPins f).expo = s.expo := rfl
@[simp] theorem State.modPins_stats : (s.modPins f).stats = s.stats := rfl
@[simp] theorem State.modPins_cache : (s.modPins f).cache = s.cache := rfl
@[simp] theorem State.modPins_path : (s.modPins f).path = s.path := rfl
@[simp] theorem State.modPins_port : (s.modPins f).port = s.port := rfl
@[simp] theorem State.modPins_engine : (s.modPins f).engine = s.engine := rfl
@[simp] theorem State.modPins_cmd : (s.modPins f).cmd = s.cmd := rfl
@[simp] theorem State.modPins_config : (s.modPins f).config = s.config := rfl
@[simp] theorem State.modPins_ram : (s.modPins f).ram = s.ram := rfl
@[simp] theorem State.modPins_freeCount : (s.modPins f).freeCount = s.freeCount := rfl
@[simp] theorem State.modPins_pending : (s.modPins f).pending = s.pending := rfl
end

section
variable (f : TimeBase → TimeBase) (s : State)
@[simp] theorem State.modTb_pins : (s.modTb f).pins = s.pins := rfl
@[simp] theorem State.modTb_tb : (s.modTb f).tb = f s.tb := rfl
@[simp] theorem State.modTb_supply : (s.modTb f).supply = s.supply := rfl
@[simp] theorem State.modTb_session : (s.modTb f).session = s.session := rfl
@[simp] theorem State.modTb_sched : (s.modTb f).sched = s.sched := rfl
@[simp] theorem State.modTb_seg : (s.modTb f).seg = s.seg := rfl
@[simp] theorem State.modTb_expo : (s.modTb f).expo = s.expo := rfl
@[simp] theorem State.modTb_stats : (s.modTb f).stats = s.stats := rfl
@[simp] theorem State.modTb_cache : (s.modTb f).cache = s.cache := rfl
@[simp] theorem State.modTb_path : (s.modTb f).path = s.path := rfl
@[simp] theorem State.modTb_port : (s.modTb f).port = s.port := rfl
@[simp] theorem State.modTb_engine : (s.modTb f).engine = s.engine := rfl
@[simp] theorem State.modTb_cmd : (s.modTb f).cmd = s.cmd := rfl
@[simp] theorem State.modTb_config : (s.modTb f).config = s.config := rfl
@[simp] theorem State.modTb_ram : (s.modTb f).ram = s.ram := rfl
@[simp] theorem State.modTb_freeCount : (s.modTb f).freeCount = s.freeCount := rfl
@[simp] theorem State.modTb_pending : (s.modTb f).pending = s.pending := rfl
end

section
variable (f : Supply → Supply) (s : State)
@[simp] theorem State.modSupply_pins : (s.modSupply f).pins = s.pins := rfl
@[simp] theorem State.modSupply_tb : (s.modSupply f).tb = s.tb := rfl
@[simp] theorem State.modSupply_supply : (s.modSupply f).supply = f s.supply := rfl
@[simp] theorem State.modSupply_session : (s.modSupply f).session = s.session := rfl
@[simp] theorem State.modSupply_sched : (s.modSupply f).sched = s.sched := rfl
@[simp] theorem State.modSupply_seg : (s.modSupply f).seg = s.seg := rfl
@[simp] theorem State.modSupply_expo : (s.modSupply f).expo = s.expo := rfl
@[simp] theorem State.modSupply_stats : (s.modSupply f).stats = s.stats := rfl
@[simp] theorem State.modSupply_cache : (s.modSupply f).cache = s.cache := rfl
@[simp] theorem State.modSupply_path : (s.modSupply f).path = s.path := rfl
@[simp] theorem State.modSupply_port : (s.modSupply f).port = s.port := rfl
@[simp] theorem State.modSupply_engine : (s.modSupply f).engine = s.engine := rfl
@[simp] theorem State.modSupply_cmd : (s.modSupply f).cmd = s.cmd := rfl
@[simp] theorem State.modSupply_config : (s.modSupply f).config = s.config := rfl
@[simp] theorem State.modSupply_ram : (s.modSupply f).ram = s.ram := rfl
@[simp] theorem State.modSupply_freeCount : (s.modSupply f).freeCount = s.freeCount := rfl
@[simp] theorem State.modSupply_pending : (s.modSupply f).pending = s.pending := rfl
end

section
variable (f : Session → Session) (s : State)
@[simp] theorem State.modSession_pins : (s.modSession f).pins = s.pins := rfl
@[simp] theorem State.modSession_tb : (s.modSession f).tb = s.tb := rfl
@[simp] theorem State.modSession_supply : (s.modSession f).supply = s.supply := rfl
@[simp] theorem State.modSession_session : (s.modSession f).session = f s.session := rfl
@[simp] theorem State.modSession_sched : (s.modSession f).sched = s.sched := rfl
@[simp] theorem State.modSession_seg : (s.modSession f).seg = s.seg := rfl
@[simp] theorem State.modSession_expo : (s.modSession f).expo = s.expo := rfl
@[simp] theorem State.modSession_stats : (s.modSession f).stats = s.stats := rfl
@[simp] theorem State.modSession_cache : (s.modSession f).cache = s.cache := rfl
@[simp] theorem State.modSession_path : (s.modSession f).path = s.path := rfl
@[simp] theorem State.modSession_port : (s.modSession f).port = s.port := rfl
@[simp] theorem State.modSession_engine : (s.modSession f).engine = s.engine := rfl
@[simp] theorem State.modSession_cmd : (s.modSession f).cmd = s.cmd := rfl
@[simp] theorem State.modSession_config : (s.modSession f).config = s.config := rfl
@[simp] theorem State.modSession_ram : (s.modSession f).ram = s.ram := rfl
@[simp] theorem State.modSession_freeCount : (s.modSession f).freeCount = s.freeCount := rfl
@[simp] theorem State.modSession_pending : (s.modSession f).pending = s.pending := rfl
end

section
variable (f : Scheduler → Scheduler) (s : State)
@[simp] theorem State.modSched_pins : (s.modSched f).pins = s.pins := rfl
@[simp] theorem State.modSched_tb : (s.modSched f).tb = s.tb := rfl
@[simp] theorem State.modSched_supply : (s.modSched f).supply = s.supply := rfl
@[simp] theorem State.modSched_session : (s.modSched f).session = s.session := rfl
@[simp] theorem State.modSched_sched : (s.modSched f).sched = f s.sched := rfl
@[simp] theorem State.modSched_seg : (s.modSched f).seg = s.seg := rfl
@[simp] theorem State.modSched_expo : (s.modSched f).expo = s.expo := rfl
@[simp] theorem State.modSched_stats : (s.modSched f).stats = s.stats := rfl
@[simp] theorem State.modSched_cache : (s.modSched f).cache = s.cache := rfl
@[simp] theorem State.modSched_path : (s.modSched f).path = s.path := rfl
@[simp] theorem State.modSched_port : (s.modSched f).port = s.port := rfl
@[simp] theorem State.modSched_engine : (s.modSched f).engine = s.engine := rfl
@[simp] theorem State.modSched_cmd : (s.modSched f).cmd = s.cmd := rfl
@[simp] theorem State.modSched_config : (s.modSched f).config = s.config := rfl
@[simp] theorem State.modSched_ram : (s.modSched f).ram = s.ram := rfl
@[simp] theorem State.modSched_freeCount : (s.modSched f).freeCount = s.freeCount := rfl
@[simp] theorem State.modSched_pending : (s.modSched f).pending = s.pending := rfl
end

section
variable (f : SegmentControl → SegmentControl) (s : State)
@[simp] theorem State.modSeg_pins : (s.modSeg f).pins = s.pins := rfl
@[simp] theorem State.modSeg_tb : (s.modSeg f).tb = s.tb := rfl
@[simp] theorem State.modSeg_supply : (s.modSeg f).supply = s.supply := rfl
@[simp] theorem State.modSeg_session : (s.modSeg f).session = s.session := rfl
@[simp] theorem State.modSeg_sched : (s.modSeg f).sched = s.sched := rfl
@[simp] theorem State.modSeg_seg : (s.modSeg f).seg = f s.seg := rfl
@[simp] theorem State.modSeg_expo : (s.modSeg f).expo = s.expo := rfl
@[simp] theorem State.modSeg_stats : (s.modSeg f).stats = s.stats := rfl
@[simp] theorem State.modSeg_cache : (s.modSeg f).cache = s.cache := rfl
@[simp] theorem State.modSeg_path : (s.modSeg f).path = s.path := rfl
@[simp] theorem State.modSeg_port : (s.modSeg f).port = s.port := rfl
@[simp] theorem State.modSeg_engine : (s.modSeg f).engine = s.engine := rfl
@[simp] theorem State.modSeg_cmd : (s.modSeg f).cmd = s.cmd := rfl
@[simp] theorem State.modSeg_config : (s.modSeg f).config = s.config := rfl
@[simp] theorem State.modSeg_ram : (s.modSeg f).ram = s.ram := rfl
@[simp] theorem State.modSeg_freeCount : (s.modSeg f).freeCount = s.freeCount := rfl
@[simp] theorem State.modSeg_pending : (s.modSeg f).pending = s.pending := rfl
end

section
variable (f : Exposure → Exposure) (s : State)
@[simp] theorem State.modExpo_pins : (s.modExpo f).pins = s.pins := rfl
@[simp] theorem State.modExpo_tb : (s.modExpo f).tb = s.tb := rfl
@[simp] theorem State.modExpo_supply : (s.modExpo f).supply = s.supply := rfl
@[simp] theorem State.modExpo_session : (s.modExpo f).session = s.session := rfl
@[simp] theorem State.modExpo_sched : (s.modExpo f).sched = s.sched := rfl
@[simp] theorem State.modExpo_seg : (s.modExpo f).seg = s.seg := rfl
@[simp] theorem State.modExpo_expo : (s.modExpo f).expo = f s.expo := rfl
@[simp] theorem State.modExpo_stats : (s.modExpo f).stats = s.stats := rfl
@[simp] theorem State.modExpo_cache : (s.modExpo f).cache = s.cache := rfl
@[simp] theorem State.modExpo_path : (s.modExpo f).path = s.path := rfl
@[simp] theorem State.modExpo_port : (s.modExpo f).port = s.port := rfl
@[simp] theorem State.modExpo_engine : (s.modExpo f).engine = s.engine := rfl
@[simp] theorem State.modExpo_cmd : (s.modExpo f).cmd = s.cmd := rfl
@[simp] theorem State.modExpo_config : (s.modExpo f).config = s.config := rfl
@[simp] theorem State.modExpo_ram : (s.modExpo f).ram = s.ram := rfl
@[simp] theorem State.modExpo_freeCount : (s.modExpo f).freeCount = s.freeCount := rfl
@[simp] theorem State.modExpo_pending : (s.modExpo f).pending = s.pending := rfl
end

section
variable (f : Intake → Intake) (s : State)
@[simp] theorem State.modStats_pins : (s.modStats f).pins = s.pins := rfl
@[simp] theorem State.modStats_tb : (s.modStats f).tb = s.tb := rfl
@[simp] theorem State.modStats_supply : (s.modStats f).supply = s.supply := rfl
@[simp] theorem State.modStats_session : (s.modStats f).session = s.session := rfl
@[simp] theorem State.modStats_sched : (s.modStats f).sched = s.sched := rfl
@[simp] theorem State.modStats_seg : (s.modStats f).seg = s.seg := rfl
@[simp] theorem State.modStats_expo : (s.modStats f).expo = s.expo := rfl
@[simp] theorem State.modStats_stats : (s.modStats f).stats = f s.stats := rfl
@[simp] theorem State.modStats_cache : (s.modStats f).cache = s.cache := rfl
@[simp] theorem State.modStats_path : (s.modStats f).path = s.path := rfl
@[simp] theorem State.modStats_port : (s.modStats f).port = s.port := rfl
@[simp] theorem State.modStats_engine : (s.modStats f).engine = s.engine := rfl
@[simp] theorem State.modStats_cmd : (s.modStats f).cmd = s.cmd := rfl
@[simp] theorem State.modStats_config : (s.modStats f).config = s.config := rfl
@[simp] theorem State.modStats_ram : (s.modStats f).ram = s.ram := rfl
@[simp] theorem State.modStats_freeCount : (s.modStats f).freeCount = s.freeCount := rfl
@[simp] theorem State.modStats_pending : (s.modStats f).pending = s.pending := rfl
end

section
variable (f : PlanCache → PlanCache) (s : State)
@[simp] theorem State.modCache_pins : (s.modCache f).pins = s.pins := rfl
@[simp] theorem State.modCache_tb : (s.modCache f).tb = s.tb := rfl
@[simp] theorem State.modCache_supply : (s.modCache f).supply = s.supply := rfl
@[simp] theorem State.modCache_session : (s.modCache f).session = s.session := rfl
@[simp] theorem State.modCache_sched : (s.modCache f).sched = s.sched := rfl
@[simp] theorem State.modCache_seg : (s.modCache f).seg = s.seg := rfl
@[simp] theorem State.modCache_expo : (s.modCache f).expo = s.expo := rfl
@[simp] theorem State.modCache_stats : (s.modCache f).stats = s.stats := rfl
@[simp] theorem State.modCache_cache : (s.modCache f).cache = f s.cache := rfl
@[simp] theorem State.modCache_path : (s.modCache f).path = s.path := rfl
@[simp] theorem State.modCache_port : (s.modCache f).port = s.port := rfl
@[simp] theorem State.modCache_engine : (s.modCache f).engine = s.engine := rfl
@[simp] theorem State.modCache_cmd : (s.modCache f).cmd = s.cmd := rfl
@[simp] theorem State.modCache_config : (s.modCache f).config = s.config := rfl
@[simp] theorem State.modCache_ram : (s.modCache f).ram = s.ram := rfl
@[simp] theorem State.modCache_freeCount : (s.modCache f).freeCount = s.freeCount := rfl
@[simp] theorem State.modCache_pending : (s.modCache f).pending = s.pending := rfl
end

section
variable (f : Path → Path) (s : State)
@[simp] theorem State.modPath_pins : (s.modPath f).pins = s.pins := rfl
@[simp] theorem State.modPath_tb : (s.modPath f).tb = s.tb := rfl
@[simp] theorem State.modPath_supply : (s.modPath f).supply = s.supply := rfl
@[simp] theorem State.modPath_session : (s.modPath f).session = s.session := rfl
@[simp] theorem State.modPath_sched : (s.modPath f).sched = s.sched := rfl
@[simp] theorem State.modPath_seg : (s.modPath f).seg = s.seg := rfl
@[simp] theorem State.modPath_expo : (s.modPath f).expo = s.expo := rfl
@[simp] theorem State.modPath_stats : (s.modPath f).stats = s.stats := rfl
@[simp] theorem State.modPath_cache : (s.modPath f).cache = s.cache := rfl
@[simp] theorem State.modPath_path : (s.modPath f).path = f s.path := rfl
@[simp] theorem State.modPath_port : (s.modPath f).port = s.port := rfl
@[simp] theorem State.modPath_engine : (s.modPath f).engine = s.engine := rfl
@[simp] theorem State.modPath_cmd : (s.modPath f).cmd = s.cmd := rfl
@[simp] theorem State.modPath_config : (s.modPath f).config = s.config := rfl
@[simp] theorem State.modPath_ram : (s.modPath f).ram = s.ram := rfl
@[simp] theorem State.modPath_freeCount : (s.modPath f).freeCount = s.freeCount := rfl
@[simp] theorem State.modPath_pending : (s.modPath f).pending = s.pending := rfl
end

section
variable (f : Port → Port) (s : State)
@[simp] theorem State.modPort_pins : (s.modPort f).pins = s.pins := rfl
@[simp] theorem State.modPort_tb : (s.modPort f).tb = s.tb := rfl
@[simp] theorem State.modPort_supply : (s.modPort f).supply = s.supply := rfl
@[simp] theorem State.modPort_session : (s.modPort f).session = s.session := rfl
@[simp] theorem State.modPort_sched : (s.modPort f).sched = s.sched := rfl
@[simp] theorem State.modPort_seg : (s.modPort f).seg = s.seg := rfl
@[simp] theorem State.modPort_expo : (s.modPort f).expo = s.expo := rfl
@[simp] theorem State.modPort_stats : (s.modPort f).stats = s.stats := rfl
@[simp] theorem State.modPort_cache : (s.modPort f).cache = s.cache := rfl
@[simp] theorem State.modPort_path : (s.modPort f).path = s.path := rfl
@[simp] theorem State.modPort_port : (s.modPort f).port = f s.port := rfl
@[simp] theorem State.modPort_engine : (s.modPort f).engine = s.engine := rfl
@[simp] theorem State.modPort_cmd : (s.modPort f).cmd = s.cmd := rfl
@[simp] theorem State.modPort_config : (s.modPort f).config = s.config := rfl
@[simp] theorem State.modPort_ram : (s.modPort f).ram = s.ram := rfl
@[simp] theorem State.modPort_freeCount : (s.modPort f).freeCount = s.freeCount := rfl
@[simp] theorem State.modPort_pending : (s.modPort f).pending = s.pending := rfl
end

section
variable (f : Engine → Engine) (s : State)
@[simp] theorem State.modEngine_pins : (s.modEngine f).pins = s.pins := rfl
@[simp] theorem State.modEngine_tb : (s.modEngine f).tb = s.tb := rfl
@[simp] theorem State.modEngine_supply : (s.modEngine f).supply = s.supply := rfl
@[simp] theorem State.modEngine_session : (s.modEngine f).session = s.session := rfl
@[simp] theorem State.modEngine_sched : (s.modEngine f).sched = s.sched := rfl
@[simp] theorem State.modEngine_seg : (s.modEngine f).seg = s.seg := rfl
@[simp] theorem State.modEngine_expo : (s.modEngine f).expo = s.expo := rfl
@[simp] theorem State.modEngine_stats : (s.modEngine f).stats = s.stats := rfl
@[simp] theorem State.modEngine_cache : (s.modEngine f).cache = s.cache := rfl
@[simp] theorem State.modEngine_path : (s.modEngine f).path = s.path := rfl
@[simp] theorem State.modEngine_port : (s.modEngine f).port = s.port := rfl
@[simp] theorem State.modEngine_engine : (s.modEngine f).engine = f s.engine := rfl
@[simp] theorem State.modEngine_cmd : (s.modEngine f).cmd = s.cmd := rfl
@[simp] theorem State.modEngine_config : (s.modEngine f).config = s.config := rfl
@[simp] theorem State.modEngine_ram : (s.modEngine f).ram = s.ram := rfl
@[simp] theorem State.modEngine_freeCount : (s.modEngine f).freeCount = s.freeCount := rfl
@[simp] theorem State.modEngine_pending : (s.modEngine f).pending = s.pending := rfl
end

section
variable (f : Interpreter → Interpreter) (s : State)
@[simp] theorem State.modCmd_pins : (s.modCmd f).pins = s.pins := rfl
@[simp] theorem State.modCmd_tb : (s.modCmd f).tb = s.tb := rfl
@[simp] theorem State.modCmd_supply : (s.modCmd f).supply = s.supply := rfl
@[simp] theorem State.modCmd_session : (s.modCmd f).session = s.session := rfl
@[simp] theorem State.modCmd_sched : (s.modCmd f).sched = s.sched := rfl
@[simp] theorem State.modCmd_seg : (s.modCmd f).seg = s.seg := rfl
@[simp] theorem State.modCmd_expo : (s.modCmd f).expo = s.expo := rfl
@[simp] theorem State.modCmd_stats : (s.modCmd f).stats = s.stats := rfl
@[simp] theorem State.modCmd_cache : (s.modCmd f).cache = s.cache := rfl
@[simp] theorem State.modCmd_path : (s.modCmd f).path = s.path := rfl
@[simp] theorem State.modCmd_port : (s.modCmd f).port = s.port := rfl
@[simp] theorem State.modCmd_engine : (s.modCmd f).engine = s.engine := rfl
@[simp] theorem State.modCmd_cmd : (s.modCmd f).cmd = f s.cmd := rfl
@[simp] theorem State.modCmd_config : (s.modCmd f).config = s.config := rfl
@[simp] theorem State.modCmd_ram : (s.modCmd f).ram = s.ram := rfl
@[simp] theorem State.modCmd_freeCount : (s.modCmd f).freeCount = s.freeCount := rfl
@[simp] theorem State.modCmd_pending : (s.modCmd f).pending = s.pending := rfl
end

section
variable (f : Configuration → Configuration) (s : State)
@[simp] theorem State.modConfig_pins : (s.modConfig f).pins = s.pins := rfl
@[simp] theorem State.modConfig_tb : (s.modConfig f).tb = s.tb := rfl
@[simp] theorem State.modConfig_supply : (s.modConfig f).supply = s.supply := rfl
@[simp] theorem State.modConfig_session : (s.modConfig f).session = s.session := rfl
@[simp] theorem State.modConfig_sched : (s.modConfig f).sched = s.sched := rfl
@[simp] theorem State.modConfig_seg : (s.modConfig f).seg = s.seg := rfl
@[simp] theorem State.modConfig_expo : (s.modConfig f).expo = s.expo := rfl
@[simp] theorem State.modConfig_stats : (s.modConfig f).stats = s.stats := rfl
@[simp] theorem State.modConfig_cache : (s.modConfig f).cache = s.cache := rfl
@[simp] theorem State.modConfig_path : (s.modConfig f).path = s.path := rfl
@[simp] theorem State.modConfig_port : (s.modConfig f).port = s.port := rfl
@[simp] theorem State.modConfig_engine : (s.modConfig f).engine = s.engine := rfl
@[simp] theorem State.modConfig_cmd : (s.modConfig f).cmd = s.cmd := rfl
@[simp] theorem State.modConfig_config : (s.modConfig f).config = f s.config := rfl
@[simp] theorem State.modConfig_ram : (s.modConfig f).ram = s.ram := rfl
@[simp] theorem State.modConfig_freeCount : (s.modConfig f).freeCount = s.freeCount := rfl
@[simp] theorem State.modConfig_pending : (s.modConfig f).pending = s.pending := rfl
end

section
variable (f : List (Nat × RamByte) → List (Nat × RamByte)) (s : State)
@[simp] theorem State.modRam_pins : (s.modRam f).pins = s.pins := rfl
@[simp] theorem State.modRam_tb : (s.modRam f).tb = s.tb := rfl
@[simp] theorem State.modRam_supply : (s.modRam f).supply = s.supply := rfl
@[simp] theorem State.modRam_session : (s.modRam f).session = s.session := rfl
@[simp] theorem State.modRam_sched : (s.modRam f).sched = s.sched := rfl
@[simp] theorem State.modRam_seg : (s.modRam f).seg = s.seg := rfl
@[simp] theorem State.modRam_expo : (s.modRam f).expo = s.expo := rfl
@[simp] theorem State.modRam_stats : (s.modRam f).stats = s.stats := rfl
@[simp] theorem State.modRam_cache : (s.modRam f).cache = s.cache := rfl
@[simp] theorem State.modRam_path : (s.modRam f).path = s.path := rfl
@[simp] theorem State.modRam_port : (s.modRam f).port = s.port := rfl
@[simp] theorem State.modRam_engine : (s.modRam f).engine = s.engine := rfl
@[simp] theorem State.modRam_cmd : (s.modRam f).cmd = s.cmd := rfl
@[simp] theorem State.modRam_config : (s.modRam f).config = s.config := rfl
@[simp] theorem State.modRam_ram : (s.modRam f).ram = f s.ram := rfl
@[simp] theorem State.modRam_freeCount : (s.modRam f).freeCount = s.freeCount := rfl
@[simp] theorem State.modRam_pending : (s.modRam f).pending = s.pending := rfl
end

section
variable (f : Nat → Nat) (s : State)
@[simp] theorem State.modFreeCount_pins : (s.modFreeCount f).pins = s.pins := rfl
@[simp] theorem State.modFreeCount_tb : (s.modFreeCount f).tb = s.tb := rfl
@[simp] theorem State.modFreeCount_supply : (s.modFreeCount f).supply = s.supply := rfl
@[simp] theorem State.modFreeCount_session : (s.modFreeCount f).session = s.session := rfl
@[simp] theorem State.modFreeCount_sched : (s.modFreeCount f).sched = s.sched := rfl
@[simp] theorem State.modFreeCount_seg : (s.modFreeCount f).seg = s.seg := rfl
@[simp] theorem State.modFreeCount_expo : (s.modFreeCount f).expo = s.expo := rfl
@[simp] theorem State.modFreeCount_stats : (s.modFreeCount f).stats = s.stats := rfl
@[simp] theorem State.modFreeCount_cache : (s.modFreeCount f).cache = s.cache := rfl
@[simp] theorem State.modFreeCount_path : (s.modFreeCount f).path = s.path := rfl
@[simp] theorem State.modFreeCount_port : (s.modFreeCount f).port = s.port := rfl
@[simp] theorem State.modFreeCount_engine : (s.modFreeCount f).engine = s.engine := rfl
@[simp] theorem State.modFreeCount_cmd : (s.modFreeCount f).cmd = s.cmd := rfl
@[simp] theorem State.modFreeCount_config : (s.modFreeCount f).config = s.config := rfl
@[simp] theorem State.modFreeCount_ram : (s.modFreeCount f).ram = s.ram := rfl
@[simp] theorem State.modFreeCount_freeCount : (s.modFreeCount f).freeCount = f s.freeCount := rfl
@[simp] theorem State.modFreeCount_pending : (s.modFreeCount f).pending = s.pending := rfl
end

section
variable (q : List Instr) (s : State)
@[simp] theorem State.setPending_pins : (s.setPending q).pins = s.pins := rfl
@[simp] theorem State.setPending_tb : (s.setPending q).tb = s.tb := rfl
@[simp] theorem State.setPending_supply : (s.setPending q).supply = s.supply := rfl
@[simp] theorem State.setPending_session : (s.setPending q).session = s.session := rfl
@[simp] theorem State.setPending_sched : (s.setPending q).sched = s.sched := rfl
@[simp] theorem State.setPending_seg : (s.setPending q).seg = s.seg := rfl
@[simp] theorem State.setPending_expo : (s.setPending q).expo = s.expo := rfl
@[simp] theorem State.setPending_stats : (s.setPending q).stats = s.stats := rfl
@[simp] theorem State.setPending_cache : (s.setPending q).cache = s.cache := rfl
@[simp] theorem State.setPending_path : (s.setPending q).path = s.path := rfl
@[simp] theorem State.setPending_port : (s.setPending q).port = s.port := rfl
@[simp] theorem State.setPending_engine : (s.setPending q).engine = s.engine := rfl
@[simp] theorem State.setPending_cmd : (s.setPending q).cmd = s.cmd := rfl
@[simp] theorem State.setPending_config : (s.setPending q).config = s.config := rfl
@[simp] theorem State.setPending_ram : (s.setPending q).ram = s.ram := rfl
@[simp] theorem State.setPending_freeCount : (s.setPending q).freeCount = s.freeCount := rfl
@[simp] theorem State.setPending_pending : (s.setPending q).pending = q := rfl
end

end Sys2Proof.Machine
end

