-- ==== Sys2Proof/Laws/Frame.lean ====
section
/-! SUPPORT. What each shared operation leaves alone, field by field: an operation that is not named for a field of the state
leaves that field as it was. -/

namespace Sys2Proof.Machine

/-! ### Machine/Ops.lean -/

@[simp] theorem requestStatus_frame (s : State) :
    (requestStatus s).pins = s.pins ∧ (requestStatus s).tb = s.tb ∧ (requestStatus s).supply = s.supply ∧
    (requestStatus s).session = s.session ∧ (requestStatus s).sched = s.sched ∧ (requestStatus s).seg = s.seg ∧
    (requestStatus s).expo = s.expo ∧ (requestStatus s).stats = s.stats ∧ (requestStatus s).cache = s.cache ∧
    (requestStatus s).path = s.path ∧ (requestStatus s).port = s.port ∧ (requestStatus s).cmd = s.cmd ∧
    (requestStatus s).config = s.config ∧ (requestStatus s).ram = s.ram ∧ (requestStatus s).freeCount = s.freeCount ∧
    (requestStatus s).pending = s.pending := by
  unfold requestStatus; simp

@[simp] theorem judgeHolds_frame (s : State) :
    (judgeHolds s).pins = s.pins ∧ (judgeHolds s).tb = s.tb ∧ (judgeHolds s).supply = s.supply ∧
    (judgeHolds s).session = s.session ∧ (judgeHolds s).sched = s.sched ∧ (judgeHolds s).seg = s.seg ∧
    (judgeHolds s).expo = s.expo ∧ (judgeHolds s).stats = s.stats ∧ (judgeHolds s).cache = s.cache ∧
    (judgeHolds s).engine = s.engine ∧ (judgeHolds s).cmd = s.cmd ∧ (judgeHolds s).config = s.config ∧
    (judgeHolds s).ram = s.ram ∧ (judgeHolds s).freeCount = s.freeCount ∧ (judgeHolds s).pending = s.pending ∧
    (judgeHolds s).path.table = s.path.table := by
  unfold judgeHolds; (repeat' split) <;> simp <;> rfl

@[simp] theorem leaveList_frame (r : Option RecordRange) (s : State) :
    (leaveList r s).pins = s.pins ∧ (leaveList r s).tb = s.tb ∧ (leaveList r s).supply = s.supply ∧
    (leaveList r s).session = s.session ∧ (leaveList r s).sched = s.sched ∧ (leaveList r s).seg = s.seg ∧
    (leaveList r s).expo = s.expo ∧ (leaveList r s).stats = s.stats ∧ (leaveList r s).cache = s.cache ∧
    (leaveList r s).engine = s.engine ∧ (leaveList r s).cmd = s.cmd ∧ (leaveList r s).config = s.config ∧
    (leaveList r s).ram = s.ram ∧ (leaveList r s).freeCount = s.freeCount ∧ (leaveList r s).pending = s.pending ∧
    (leaveList r s).path.table = s.path.table := by
  unfold leaveList; split <;> simp <;> rfl

@[simp] theorem endOrderService_frame (s : State) :
    (endOrderService s).pins = s.pins ∧ (endOrderService s).tb = s.tb ∧ (endOrderService s).supply = s.supply ∧
    (endOrderService s).session = s.session ∧ (endOrderService s).sched = s.sched ∧ (endOrderService s).seg = s.seg ∧
    (endOrderService s).expo = s.expo ∧ (endOrderService s).stats = s.stats ∧ (endOrderService s).cache = s.cache ∧
    (endOrderService s).cmd = s.cmd ∧ (endOrderService s).config = s.config ∧ (endOrderService s).ram = s.ram ∧
    (endOrderService s).freeCount = s.freeCount ∧ (endOrderService s).pending = s.pending ∧
    (endOrderService s).path.table = s.path.table := by
  unfold endOrderService; (repeat' split) <;> simp

@[simp] theorem evictOrder_frame (s : State) :
    (evictOrder s).pins = s.pins ∧ (evictOrder s).tb = s.tb ∧ (evictOrder s).supply = s.supply ∧
    (evictOrder s).session = s.session ∧ (evictOrder s).sched = s.sched ∧ (evictOrder s).seg = s.seg ∧
    (evictOrder s).expo = s.expo ∧ (evictOrder s).stats = s.stats ∧ (evictOrder s).cache = s.cache ∧
    (evictOrder s).cmd = s.cmd ∧ (evictOrder s).config = s.config ∧ (evictOrder s).ram = s.ram ∧
    (evictOrder s).freeCount = s.freeCount ∧ (evictOrder s).pending = s.pending ∧
    (evictOrder s).path.table = s.path.table := by
  unfold evictOrder; (repeat' split) <;> simp

@[simp] theorem requestOrder_frame (o : OrderContent) (s : State) :
    (requestOrder o s).pins = s.pins ∧ (requestOrder o s).tb = s.tb ∧ (requestOrder o s).supply = s.supply ∧
    (requestOrder o s).session = s.session ∧ (requestOrder o s).sched = s.sched ∧ (requestOrder o s).seg = s.seg ∧
    (requestOrder o s).expo = s.expo ∧ (requestOrder o s).stats = s.stats ∧ (requestOrder o s).cache = s.cache ∧
    (requestOrder o s).cmd = s.cmd ∧ (requestOrder o s).config = s.config ∧ (requestOrder o s).ram = s.ram ∧
    (requestOrder o s).freeCount = s.freeCount ∧ (requestOrder o s).pending = s.pending ∧
    (requestOrder o s).path.table = s.path.table := by
  unfold requestOrder; (repeat' split) <;> simp

@[simp] theorem driveLines_frame (a b c : Bool) (s : State) :
    (driveLines a b c s).tb = s.tb ∧ (driveLines a b c s).supply = s.supply ∧
    (driveLines a b c s).session = s.session ∧ (driveLines a b c s).sched = s.sched ∧
    (driveLines a b c s).seg = s.seg ∧ (driveLines a b c s).expo = s.expo ∧ (driveLines a b c s).stats = s.stats ∧
    (driveLines a b c s).cache = s.cache ∧ (driveLines a b c s).path = s.path ∧ (driveLines a b c s).port = s.port ∧
    (driveLines a b c s).engine = s.engine ∧ (driveLines a b c s).cmd = s.cmd ∧
    (driveLines a b c s).config = s.config ∧ (driveLines a b c s).ram = s.ram ∧
    (driveLines a b c s).freeCount = s.freeCount ∧ (driveLines a b c s).pending = s.pending ∧
    (driveLines a b c s).pins.board = s.pins.board := by
  unfold driveLines; simp; rfl

@[simp] theorem wakeControllerLines_frame (s : State) :
    (wakeControllerLines s).tb = s.tb ∧ (wakeControllerLines s).supply = s.supply ∧
    (wakeControllerLines s).sched = s.sched ∧ (wakeControllerLines s).seg = s.seg ∧
    (wakeControllerLines s).expo = s.expo ∧ (wakeControllerLines s).stats = s.stats ∧
    (wakeControllerLines s).cache = s.cache ∧ (wakeControllerLines s).path = s.path ∧
    (wakeControllerLines s).port = s.port ∧ (wakeControllerLines s).engine = s.engine ∧
    (wakeControllerLines s).cmd = s.cmd ∧ (wakeControllerLines s).config = s.config ∧
    (wakeControllerLines s).ram = s.ram ∧ (wakeControllerLines s).freeCount = s.freeCount ∧
    (wakeControllerLines s).pending = s.pending ∧ (wakeControllerLines s).pins.board = s.pins.board := by
  unfold wakeControllerLines; split <;> simp <;> rfl

@[simp] theorem askPortForWake_frame (s : State) :
    (askPortForWake s).tb = s.tb ∧ (askPortForWake s).supply = s.supply ∧ (askPortForWake s).sched = s.sched ∧
    (askPortForWake s).seg = s.seg ∧ (askPortForWake s).expo = s.expo ∧ (askPortForWake s).stats = s.stats ∧
    (askPortForWake s).cache = s.cache ∧ (askPortForWake s).path = s.path ∧ (askPortForWake s).engine = s.engine ∧
    (askPortForWake s).cmd = s.cmd ∧ (askPortForWake s).config = s.config ∧ (askPortForWake s).ram = s.ram ∧
    (askPortForWake s).freeCount = s.freeCount ∧ (askPortForWake s).pending = s.pending ∧
    (askPortForWake s).pins.board = s.pins.board := by
  unfold askPortForWake; split <;> simp

@[simp] theorem beginWake_frame (c : WakeCause) (l : Bool) (s : State) :
    (beginWake c l s).tb = s.tb ∧ (beginWake c l s).supply = s.supply ∧ (beginWake c l s).sched = s.sched ∧
    (beginWake c l s).seg = s.seg ∧ (beginWake c l s).expo = s.expo ∧ (beginWake c l s).stats = s.stats ∧
    (beginWake c l s).cache = s.cache ∧ (beginWake c l s).path = s.path ∧
    (beginWake c l s).cmd = s.cmd ∧ (beginWake c l s).config = s.config ∧ (beginWake c l s).ram = s.ram ∧
    (beginWake c l s).freeCount = s.freeCount ∧ (beginWake c l s).pending = s.pending ∧
    (beginWake c l s).pins.board = s.pins.board := by
  unfold beginWake; simp

@[simp] theorem beginAlertWake_frame (s : State) :
    (beginAlertWake s).tb = s.tb ∧ (beginAlertWake s).supply = s.supply ∧ (beginAlertWake s).sched = s.sched ∧
    (beginAlertWake s).seg = s.seg ∧ (beginAlertWake s).expo = s.expo ∧ (beginAlertWake s).stats = s.stats ∧
    (beginAlertWake s).cache = s.cache ∧ (beginAlertWake s).path = s.path ∧
    (beginAlertWake s).cmd = s.cmd ∧ (beginAlertWake s).config = s.config ∧ (beginAlertWake s).ram = s.ram ∧
    (beginAlertWake s).freeCount = s.freeCount ∧ (beginAlertWake s).pending = s.pending ∧
    (beginAlertWake s).pins.board = s.pins.board := by
  unfold beginAlertWake; simp

@[simp] theorem judgeAlert_frame (s : State) :
    (judgeAlert s).tb = s.tb ∧ (judgeAlert s).supply = s.supply ∧ (judgeAlert s).sched = s.sched ∧
    (judgeAlert s).seg = s.seg ∧ (judgeAlert s).expo = s.expo ∧ (judgeAlert s).stats = s.stats ∧
    (judgeAlert s).cache = s.cache ∧ (judgeAlert s).path = s.path ∧
    (judgeAlert s).cmd = s.cmd ∧ (judgeAlert s).config = s.config ∧ (judgeAlert s).ram = s.ram ∧
    (judgeAlert s).freeCount = s.freeCount ∧ (judgeAlert s).pending = s.pending ∧
    (judgeAlert s).pins.board = s.pins.board := by
  unfold judgeAlert; split <;> simp

@[simp] theorem keepMark_frame (k : EventClass) (s : State) :
    (keepMark k s).pins = s.pins ∧ (keepMark k s).tb = s.tb ∧ (keepMark k s).supply = s.supply ∧
    (keepMark k s).session = s.session ∧ (keepMark k s).sched = s.sched ∧ (keepMark k s).seg = s.seg ∧
    (keepMark k s).expo = s.expo ∧ (keepMark k s).stats = s.stats ∧ (keepMark k s).cache = s.cache ∧
    (keepMark k s).path = s.path ∧ (keepMark k s).port = s.port ∧ (keepMark k s).cmd = s.cmd ∧
    (keepMark k s).config = s.config ∧ (keepMark k s).ram = s.ram ∧ (keepMark k s).freeCount = s.freeCount ∧
    (keepMark k s).pending = s.pending := by
  unfold keepMark; simp

@[simp] theorem countEvent_frame (k : EventClass) (s : State) :
    (countEvent k s).pins = s.pins ∧ (countEvent k s).tb = s.tb ∧ (countEvent k s).supply = s.supply ∧
    (countEvent k s).sched = s.sched ∧ (countEvent k s).seg = s.seg ∧ (countEvent k s).expo = s.expo ∧
    (countEvent k s).stats = s.stats ∧ (countEvent k s).cache = s.cache ∧ (countEvent k s).path = s.path ∧
    (countEvent k s).port = s.port ∧ (countEvent k s).engine = s.engine ∧ (countEvent k s).cmd = s.cmd ∧
    (countEvent k s).config = s.config ∧ (countEvent k s).ram = s.ram ∧ (countEvent k s).freeCount = s.freeCount ∧
    (countEvent k s).pending = s.pending := by
  unfold countEvent; simp

@[simp] theorem raiseEvent_frame (k : EventClass) (s : State) :
    (raiseEvent k s).tb = s.tb ∧ (raiseEvent k s).supply = s.supply ∧ (raiseEvent k s).sched = s.sched ∧
    (raiseEvent k s).seg = s.seg ∧ (raiseEvent k s).expo = s.expo ∧ (raiseEvent k s).stats = s.stats ∧
    (raiseEvent k s).cache = s.cache ∧ (raiseEvent k s).path = s.path ∧ (raiseEvent k s).cmd = s.cmd ∧
    (raiseEvent k s).config = s.config ∧ (raiseEvent k s).ram = s.ram ∧ (raiseEvent k s).freeCount = s.freeCount ∧
    (raiseEvent k s).pending = s.pending ∧ (raiseEvent k s).pins.board = s.pins.board := by
  unfold raiseEvent; dsimp only; (repeat' split) <;> simp

@[simp] theorem loseLog_frame (s : State) :
    (loseLog s).tb = s.tb ∧ (loseLog s).supply = s.supply ∧ (loseLog s).sched = s.sched ∧ (loseLog s).seg = s.seg ∧
    (loseLog s).expo = s.expo ∧ (loseLog s).stats = s.stats ∧ (loseLog s).cache = s.cache ∧
    (loseLog s).path = s.path ∧ (loseLog s).cmd = s.cmd ∧ (loseLog s).config = s.config ∧ (loseLog s).ram = s.ram ∧
    (loseLog s).freeCount = s.freeCount ∧ (loseLog s).pending = s.pending ∧
    (loseLog s).pins.board = s.pins.board := by
  unfold loseLog; simp

@[simp] theorem requestLog_frame (l : LogContent) (s : State) :
    (requestLog l s).tb = s.tb ∧ (requestLog l s).supply = s.supply ∧ (requestLog l s).sched = s.sched ∧
    (requestLog l s).seg = s.seg ∧ (requestLog l s).expo = s.expo ∧ (requestLog l s).stats = s.stats ∧
    (requestLog l s).cache = s.cache ∧ (requestLog l s).path = s.path ∧ (requestLog l s).cmd = s.cmd ∧
    (requestLog l s).config = s.config ∧ (requestLog l s).ram = s.ram ∧ (requestLog l s).freeCount = s.freeCount ∧
    (requestLog l s).pending = s.pending ∧ (requestLog l s).pins.board = s.pins.board := by
  unfold requestLog; split <;> simp

@[simp] theorem restartTimer_frame (s : State) :
    (restartTimer s).pins = s.pins ∧ (restartTimer s).tb = s.tb ∧ (restartTimer s).supply = s.supply ∧
    (restartTimer s).sched = s.sched ∧ (restartTimer s).seg = s.seg ∧ (restartTimer s).expo = s.expo ∧
    (restartTimer s).stats = s.stats ∧ (restartTimer s).cache = s.cache ∧ (restartTimer s).path = s.path ∧
    (restartTimer s).port = s.port ∧ (restartTimer s).engine = s.engine ∧ (restartTimer s).cmd = s.cmd ∧
    (restartTimer s).config = s.config ∧ (restartTimer s).ram = s.ram ∧ (restartTimer s).freeCount = s.freeCount ∧
    (restartTimer s).pending = s.pending := by
  unfold restartTimer; split <;> simp

@[simp] theorem decideCommand_frame (q : BitVec 8) (r : Result) (s : State) :
    (decideCommand q r s).pins = s.pins ∧ (decideCommand q r s).tb = s.tb ∧ (decideCommand q r s).supply = s.supply ∧
    (decideCommand q r s).sched = s.sched ∧ (decideCommand q r s).seg = s.seg ∧ (decideCommand q r s).expo = s.expo ∧
    (decideCommand q r s).stats = s.stats ∧ (decideCommand q r s).cache = s.cache ∧
    (decideCommand q r s).path = s.path ∧ (decideCommand q r s).port = s.port ∧
    (decideCommand q r s).config = s.config ∧ (decideCommand q r s).ram = s.ram ∧
    (decideCommand q r s).freeCount = s.freeCount ∧ (decideCommand q r s).pending = s.pending := by
  unfold decideCommand; split <;> simp

@[simp] theorem acceptLong_frame (q : BitVec 8) (k : LongKind) (s : State) :
    (acceptLong q k s).pins = s.pins ∧ (acceptLong q k s).tb = s.tb ∧ (acceptLong q k s).supply = s.supply ∧
    (acceptLong q k s).sched = s.sched ∧ (acceptLong q k s).seg = s.seg ∧ (acceptLong q k s).expo = s.expo ∧
    (acceptLong q k s).stats = s.stats ∧ (acceptLong q k s).cache = s.cache ∧ (acceptLong q k s).path = s.path ∧
    (acceptLong q k s).port = s.port ∧ (acceptLong q k s).config = s.config ∧ (acceptLong q k s).ram = s.ram ∧
    (acceptLong q k s).freeCount = s.freeCount ∧ (acceptLong q k s).pending = s.pending := by
  unfold acceptLong; simp

@[simp] theorem decideLong_frame (r : Result) (s : State) :
    (decideLong r s).pins = s.pins ∧ (decideLong r s).tb = s.tb ∧ (decideLong r s).supply = s.supply ∧
    (decideLong r s).sched = s.sched ∧ (decideLong r s).seg = s.seg ∧ (decideLong r s).expo = s.expo ∧
    (decideLong r s).stats = s.stats ∧ (decideLong r s).cache = s.cache ∧ (decideLong r s).path = s.path ∧
    (decideLong r s).port = s.port ∧ (decideLong r s).config = s.config ∧ (decideLong r s).ram = s.ram ∧
    (decideLong r s).freeCount = s.freeCount ∧ (decideLong r s).pending = s.pending := by
  unfold decideLong; split <;> simp

@[simp] theorem setRunState_frame (r : RunState) (s : State) :
    (setRunState r s).pins = s.pins ∧ (setRunState r s).tb = s.tb ∧ (setRunState r s).supply = s.supply ∧
    (setRunState r s).session = s.session ∧ (setRunState r s).seg = s.seg ∧ (setRunState r s).expo = s.expo ∧
    (setRunState r s).stats = s.stats ∧ (setRunState r s).cache = s.cache ∧ (setRunState r s).path = s.path ∧
    (setRunState r s).port = s.port ∧ (setRunState r s).cmd = s.cmd ∧ (setRunState r s).config = s.config ∧
    (setRunState r s).ram = s.ram ∧ (setRunState r s).freeCount = s.freeCount ∧
    (setRunState r s).pending = s.pending := by
  unfold setRunState; split <;> simp

@[simp] theorem setRun_frame (r : RunState) (f : FinishReason) (s : State) :
    (setRun r f s).pins = s.pins ∧ (setRun r f s).tb = s.tb ∧ (setRun r f s).supply = s.supply ∧
    (setRun r f s).session = s.session ∧ (setRun r f s).seg = s.seg ∧ (setRun r f s).expo = s.expo ∧
    (setRun r f s).stats = s.stats ∧ (setRun r f s).cache = s.cache ∧ (setRun r f s).path = s.path ∧
    (setRun r f s).port = s.port ∧ (setRun r f s).cmd = s.cmd ∧ (setRun r f s).config = s.config ∧
    (setRun r f s).ram = s.ram ∧ (setRun r f s).freeCount = s.freeCount ∧ (setRun r f s).pending = s.pending := by
  unfold setRun; simp

@[simp] theorem dropIssues_frame (s : State) :
    (dropIssues s).pins = s.pins ∧ (dropIssues s).tb = s.tb ∧ (dropIssues s).supply = s.supply ∧
    (dropIssues s).session = s.session ∧ (dropIssues s).expo = s.expo ∧ (dropIssues s).cache = s.cache ∧
    (dropIssues s).path = s.path ∧ (dropIssues s).port = s.port ∧ (dropIssues s).engine = s.engine ∧
    (dropIssues s).cmd = s.cmd ∧ (dropIssues s).config = s.config ∧ (dropIssues s).ram = s.ram ∧
    (dropIssues s).freeCount = s.freeCount ∧ (dropIssues s).pending = s.pending ∧
    (dropIssues s).stats.shown = s.stats.shown := by
  unfold dropIssues; simp; rfl

@[simp] theorem suspendNow_frame (r : RunState) (s : State) :
    (suspendNow r s).pins = s.pins ∧ (suspendNow r s).tb = s.tb ∧ (suspendNow r s).supply = s.supply ∧
    (suspendNow r s).session = s.session ∧ (suspendNow r s).expo = s.expo ∧ (suspendNow r s).cache = s.cache ∧
    (suspendNow r s).path = s.path ∧ (suspendNow r s).port = s.port ∧ (suspendNow r s).cmd = s.cmd ∧
    (suspendNow r s).config = s.config ∧ (suspendNow r s).ram = s.ram ∧ (suspendNow r s).freeCount = s.freeCount ∧
    (suspendNow r s).pending = s.pending ∧ (suspendNow r s).stats.shown = s.stats.shown := by
  unfold suspendNow; simp

@[simp] theorem suspendCapturing_frame (r : RunState) (s : State) :
    (suspendCapturing r s).pins = s.pins ∧ (suspendCapturing r s).tb = s.tb ∧ (suspendCapturing r s).supply = s.supply ∧
    (suspendCapturing r s).session = s.session ∧ (suspendCapturing r s).expo = s.expo ∧ (suspendCapturing r s).cache = s.cache ∧
    (suspendCapturing r s).path = s.path ∧ (suspendCapturing r s).port = s.port ∧ (suspendCapturing r s).cmd = s.cmd ∧
    (suspendCapturing r s).config = s.config ∧ (suspendCapturing r s).ram = s.ram ∧ (suspendCapturing r s).freeCount = s.freeCount ∧
    (suspendCapturing r s).pending = s.pending ∧ (suspendCapturing r s).stats.shown = s.stats.shown := by
  unfold suspendCapturing; split <;> simp

@[simp] theorem suspendRun_frame (s : State) :
    (suspendRun s).pins = s.pins ∧ (suspendRun s).tb = s.tb ∧ (suspendRun s).supply = s.supply ∧
    (suspendRun s).session = s.session ∧ (suspendRun s).expo = s.expo ∧ (suspendRun s).cache = s.cache ∧
    (suspendRun s).path = s.path ∧ (suspendRun s).port = s.port ∧ (suspendRun s).cmd = s.cmd ∧
    (suspendRun s).config = s.config ∧ (suspendRun s).ram = s.ram ∧ (suspendRun s).freeCount = s.freeCount ∧
    (suspendRun s).pending = s.pending ∧ (suspendRun s).stats.shown = s.stats.shown := by
  unfold suspendRun; simp

@[simp] theorem resumeRun_frame (s : State) :
    (resumeRun s).pins = s.pins ∧ (resumeRun s).tb = s.tb ∧ (resumeRun s).supply = s.supply ∧
    (resumeRun s).session = s.session ∧ (resumeRun s).seg = s.seg ∧ (resumeRun s).expo = s.expo ∧
    (resumeRun s).stats = s.stats ∧ (resumeRun s).cache = s.cache ∧ (resumeRun s).path = s.path ∧
    (resumeRun s).port = s.port ∧ (resumeRun s).cmd = s.cmd ∧ (resumeRun s).config = s.config ∧
    (resumeRun s).ram = s.ram ∧ (resumeRun s).freeCount = s.freeCount ∧ (resumeRun s).pending = s.pending := by
  unfold resumeRun; split <;> simp

@[simp] theorem raiseOptional_frame (k : Option EventClass) (s : State) :
    (raiseOptional k s).tb = s.tb ∧ (raiseOptional k s).supply = s.supply ∧ (raiseOptional k s).sched = s.sched ∧
    (raiseOptional k s).seg = s.seg ∧ (raiseOptional k s).expo = s.expo ∧ (raiseOptional k s).stats = s.stats ∧
    (raiseOptional k s).cache = s.cache ∧ (raiseOptional k s).path = s.path ∧ (raiseOptional k s).cmd = s.cmd ∧
    (raiseOptional k s).config = s.config ∧ (raiseOptional k s).ram = s.ram ∧
    (raiseOptional k s).freeCount = s.freeCount ∧ (raiseOptional k s).pending = s.pending ∧
    (raiseOptional k s).pins.board = s.pins.board := by
  unfold raiseOptional; split <;> simp

@[simp] theorem changeSupply_frame (x : SupplyState) (k : Option EventClass) (s : State) :
    (changeSupply x k s).tb = s.tb ∧ (changeSupply x k s).expo = s.expo ∧ (changeSupply x k s).cache = s.cache ∧
    (changeSupply x k s).path = s.path ∧ (changeSupply x k s).cmd = s.cmd ∧ (changeSupply x k s).config = s.config ∧
    (changeSupply x k s).ram = s.ram ∧ (changeSupply x k s).freeCount = s.freeCount ∧
    (changeSupply x k s).pending = s.pending ∧ (changeSupply x k s).pins.board = s.pins.board ∧
    (changeSupply x k s).stats.shown = s.stats.shown := by
  unfold changeSupply; dsimp only; (repeat' split) <;> simp

@[simp] theorem sampleSupply_frame (n : Nat) (s : State) :
    (sampleSupply n s).tb = s.tb ∧ (sampleSupply n s).expo = s.expo ∧ (sampleSupply n s).cache = s.cache ∧
    (sampleSupply n s).path = s.path ∧ (sampleSupply n s).cmd = s.cmd ∧ (sampleSupply n s).config = s.config ∧
    (sampleSupply n s).ram = s.ram ∧ (sampleSupply n s).freeCount = s.freeCount ∧
    (sampleSupply n s).pending = s.pending ∧ (sampleSupply n s).stats.shown = s.stats.shown := by
  unfold sampleSupply; dsimp only; split <;> simp

@[simp] theorem handOver_frame (e : Entry) (o : FrameOutcome) (s : State) :
    (handOver e o s).pins = s.pins ∧ (handOver e o s).tb = s.tb ∧ (handOver e o s).supply = s.supply ∧
    (handOver e o s).session = s.session ∧ (handOver e o s).expo = s.expo ∧ (handOver e o s).stats = s.stats ∧
    (handOver e o s).cache = s.cache ∧ (handOver e o s).path = s.path ∧ (handOver e o s).port = s.port ∧
    (handOver e o s).engine = s.engine ∧ (handOver e o s).cmd = s.cmd ∧ (handOver e o s).config = s.config ∧
    (handOver e o s).ram = s.ram ∧ (handOver e o s).freeCount = s.freeCount ∧
    (handOver e o s).pending = s.pending := by
  unfold handOver; dsimp only; split <;> simp

@[simp] theorem retire_frame (e : Entry) (o : FrameOutcome) (c : Cause) (m : Option (Nat × Int)) (g : Bool) (s : State) :
    (retire e o c m g s).tb = s.tb ∧ (retire e o c m g s).supply = s.supply ∧ (retire e o c m g s).expo = s.expo ∧
    (retire e o c m g s).stats = s.stats ∧ (retire e o c m g s).cache = s.cache ∧
    (retire e o c m g s).path = s.path ∧ (retire e o c m g s).cmd = s.cmd ∧ (retire e o c m g s).config = s.config ∧
    (retire e o c m g s).ram = s.ram ∧ (retire e o c m g s).freeCount = s.freeCount ∧
    (retire e o c m g s).pending = s.pending ∧ (retire e o c m g s).pins.board = s.pins.board := by
  unfold retire; simp

/-! ### Machine/Engine.lean -/

@[simp] theorem askForAccess_frame (s : State) :
    (askForAccess s).pins = s.pins ∧ (askForAccess s).tb = s.tb ∧ (askForAccess s).supply = s.supply ∧
    (askForAccess s).session = s.session ∧ (askForAccess s).sched = s.sched ∧ (askForAccess s).seg = s.seg ∧
    (askForAccess s).expo = s.expo ∧ (askForAccess s).stats = s.stats ∧ (askForAccess s).cache = s.cache ∧
    (askForAccess s).path = s.path ∧ (askForAccess s).engine = s.engine ∧ (askForAccess s).cmd = s.cmd ∧
    (askForAccess s).config = s.config ∧ (askForAccess s).ram = s.ram ∧ (askForAccess s).freeCount = s.freeCount ∧
    (askForAccess s).pending = s.pending := by
  unfold askForAccess; split <;> simp

@[simp] theorem serve_frame (r : Request) (l : List EngineAccess) (b : Bool) (v : BitVec 8) (s : State) :
    (serve r l b v s).pins = s.pins ∧ (serve r l b v s).tb = s.tb ∧ (serve r l b v s).supply = s.supply ∧
    (serve r l b v s).session = s.session ∧ (serve r l b v s).sched = s.sched ∧ (serve r l b v s).seg = s.seg ∧
    (serve r l b v s).expo = s.expo ∧ (serve r l b v s).stats = s.stats ∧ (serve r l b v s).cache = s.cache ∧
    (serve r l b v s).path = s.path ∧ (serve r l b v s).cmd = s.cmd ∧ (serve r l b v s).config = s.config ∧
    (serve r l b v s).ram = s.ram ∧ (serve r l b v s).freeCount = s.freeCount ∧
    (serve r l b v s).pending = s.pending := by
  unfold serve; simp

@[simp] theorem serveStatus_frame (s : State) :
    (serveStatus s).pins = s.pins ∧ (serveStatus s).tb = s.tb ∧ (serveStatus s).supply = s.supply ∧
    (serveStatus s).session = s.session ∧ (serveStatus s).sched = s.sched ∧ (serveStatus s).seg = s.seg ∧
    (serveStatus s).expo = s.expo ∧ (serveStatus s).stats = s.stats ∧ (serveStatus s).cache = s.cache ∧
    (serveStatus s).path = s.path ∧ (serveStatus s).cmd = s.cmd ∧ (serveStatus s).config = s.config ∧
    (serveStatus s).ram = s.ram ∧ (serveStatus s).freeCount = s.freeCount ∧ (serveStatus s).pending = s.pending := by
  unfold serveStatus; simp

@[simp] theorem serveLog_frame (l : LogContent) (s : State) :
    (serveLog l s).tb = s.tb ∧ (serveLog l s).supply = s.supply ∧ (serveLog l s).sched = s.sched ∧
    (serveLog l s).seg = s.seg ∧ (serveLog l s).expo = s.expo ∧ (serveLog l s).stats = s.stats ∧
    (serveLog l s).cache = s.cache ∧ (serveLog l s).path = s.path ∧ (serveLog l s).cmd = s.cmd ∧
    (serveLog l s).config = s.config ∧ (serveLog l s).ram = s.ram ∧ (serveLog l s).freeCount = s.freeCount ∧
    (serveLog l s).pending = s.pending ∧ (serveLog l s).pins.board = s.pins.board := by
  unfold serveLog; (repeat' split) <;> simp

@[simp] theorem beginRequest_frame (r : Request) (s : State) :
    (beginRequest r s).tb = s.tb ∧ (beginRequest r s).supply = s.supply ∧ (beginRequest r s).sched = s.sched ∧
    (beginRequest r s).seg = s.seg ∧ (beginRequest r s).expo = s.expo ∧ (beginRequest r s).stats = s.stats ∧
    (beginRequest r s).cache = s.cache ∧ (beginRequest r s).path = s.path ∧ (beginRequest r s).cmd = s.cmd ∧
    (beginRequest r s).config = s.config ∧ (beginRequest r s).ram = s.ram ∧
    (beginRequest r s).freeCount = s.freeCount ∧ (beginRequest r s).pending = s.pending ∧
    (beginRequest r s).pins.board = s.pins.board := by
  unfold beginRequest; split <;> simp

@[simp] theorem beginOnce_frame (s : State) :
    (beginOnce s).tb = s.tb ∧ (beginOnce s).supply = s.supply ∧ (beginOnce s).sched = s.sched ∧
    (beginOnce s).seg = s.seg ∧ (beginOnce s).expo = s.expo ∧ (beginOnce s).stats = s.stats ∧
    (beginOnce s).cache = s.cache ∧ (beginOnce s).path = s.path ∧ (beginOnce s).cmd = s.cmd ∧
    (beginOnce s).config = s.config ∧ (beginOnce s).ram = s.ram ∧ (beginOnce s).freeCount = s.freeCount ∧
    (beginOnce s).pending = s.pending ∧ (beginOnce s).pins.board = s.pins.board := by
  unfold beginOnce; (repeat' split) <;> simp

@[simp] theorem beginService_frame (s : State) :
    (beginService s).tb = s.tb ∧ (beginService s).supply = s.supply ∧ (beginService s).sched = s.sched ∧
    (beginService s).seg = s.seg ∧ (beginService s).expo = s.expo ∧ (beginService s).stats = s.stats ∧
    (beginService s).cache = s.cache ∧ (beginService s).path = s.path ∧ (beginService s).cmd = s.cmd ∧
    (beginService s).config = s.config ∧ (beginService s).ram = s.ram ∧ (beginService s).freeCount = s.freeCount ∧
    (beginService s).pending = s.pending ∧ (beginService s).pins.board = s.pins.board := by
  unfold beginService; simp

@[simp] theorem retireNow_frame (e : Entry) (o : FrameOutcome) (c : Cause) (m : Option (Nat × Int)) (g : Bool) (s : State) :
    (retireNow e o c m g s).tb = s.tb ∧ (retireNow e o c m g s).supply = s.supply ∧
    (retireNow e o c m g s).expo = s.expo ∧ (retireNow e o c m g s).stats = s.stats ∧
    (retireNow e o c m g s).cache = s.cache ∧ (retireNow e o c m g s).path = s.path ∧
    (retireNow e o c m g s).cmd = s.cmd ∧ (retireNow e o c m g s).config = s.config ∧
    (retireNow e o c m g s).ram = s.ram ∧ (retireNow e o c m g s).freeCount = s.freeCount ∧
    (retireNow e o c m g s).pending = s.pending ∧ (retireNow e o c m g s).pins.board = s.pins.board := by
  unfold retireNow; simp

/-! ### Machine/Port.lean -/

@[simp] theorem beginExit_frame (s : State) :
    (beginExit s).pins = s.pins ∧ (beginExit s).tb = s.tb ∧ (beginExit s).supply = s.supply ∧
    (beginExit s).session = s.session ∧ (beginExit s).sched = s.sched ∧ (beginExit s).seg = s.seg ∧
    (beginExit s).expo = s.expo ∧ (beginExit s).stats = s.stats ∧ (beginExit s).cache = s.cache ∧
    (beginExit s).path = s.path ∧ (beginExit s).engine = s.engine ∧ (beginExit s).cmd = s.cmd ∧
    (beginExit s).config = s.config ∧ (beginExit s).ram = s.ram ∧ (beginExit s).freeCount = s.freeCount ∧
    (beginExit s).pending = s.pending := by
  unfold beginExit; split <;> simp

@[simp] theorem grantPass_frame (tx : Transaction) (n : Nat) (s : State) :
    (grantPass tx n s).pins = s.pins ∧ (grantPass tx n s).tb = s.tb ∧ (grantPass tx n s).supply = s.supply ∧
    (grantPass tx n s).session = s.session ∧ (grantPass tx n s).sched = s.sched ∧ (grantPass tx n s).seg = s.seg ∧
    (grantPass tx n s).expo = s.expo ∧ (grantPass tx n s).stats = s.stats ∧ (grantPass tx n s).cache = s.cache ∧
    (grantPass tx n s).path = s.path ∧ (grantPass tx n s).engine = s.engine ∧ (grantPass tx n s).cmd = s.cmd ∧
    (grantPass tx n s).config = s.config ∧ (grantPass tx n s).ram = s.ram ∧
    (grantPass tx n s).freeCount = s.freeCount ∧ (grantPass tx n s).pending = s.pending := by
  unfold grantPass; simp

@[simp] theorem grantEngine_frame (a : EngineAccess) (s : State) :
    (grantEngine a s).pins = s.pins ∧ (grantEngine a s).tb = s.tb ∧ (grantEngine a s).supply = s.supply ∧
    (grantEngine a s).session = s.session ∧ (grantEngine a s).sched = s.sched ∧ (grantEngine a s).seg = s.seg ∧
    (grantEngine a s).expo = s.expo ∧ (grantEngine a s).stats = s.stats ∧ (grantEngine a s).cache = s.cache ∧
    (grantEngine a s).engine = s.engine ∧ (grantEngine a s).cmd = s.cmd ∧ (grantEngine a s).config = s.config ∧
    (grantEngine a s).ram = s.ram ∧ (grantEngine a s).freeCount = s.freeCount ∧
    (grantEngine a s).pending = s.pending ∧ (grantEngine a s).path.table = s.path.table := by
  unfold grantEngine; dsimp only; (repeat' split) <;> simp <;> rfl

@[simp] theorem grant_frame (s : State) :
    (grant s).pins = s.pins ∧ (grant s).tb = s.tb ∧ (grant s).supply = s.supply ∧ (grant s).session = s.session ∧
    (grant s).sched = s.sched ∧ (grant s).seg = s.seg ∧ (grant s).expo = s.expo ∧ (grant s).stats = s.stats ∧
    (grant s).cache = s.cache ∧ (grant s).engine = s.engine ∧ (grant s).cmd = s.cmd ∧ (grant s).config = s.config ∧
    (grant s).ram = s.ram ∧ (grant s).freeCount = s.freeCount ∧ (grant s).pending = s.pending ∧
    (grant s).path.table = s.path.table := by
  unfold grant; (repeat' split) <;> simp

@[simp] theorem beginEntry_frame (s : State) :
    (beginEntry s).pins = s.pins ∧ (beginEntry s).tb = s.tb ∧ (beginEntry s).supply = s.supply ∧
    (beginEntry s).session = s.session ∧ (beginEntry s).sched = s.sched ∧ (beginEntry s).seg = s.seg ∧
    (beginEntry s).expo = s.expo ∧ (beginEntry s).stats = s.stats ∧ (beginEntry s).cache = s.cache ∧
    (beginEntry s).path = s.path ∧ (beginEntry s).engine = s.engine ∧ (beginEntry s).cmd = s.cmd ∧
    (beginEntry s).config = s.config ∧ (beginEntry s).ram = s.ram ∧ (beginEntry s).freeCount = s.freeCount ∧
    (beginEntry s).pending = s.pending := by
  unfold beginEntry; split <;> simp

@[simp] theorem portSettle_frame (s : State) :
    (portSettle s).pins = s.pins ∧ (portSettle s).tb = s.tb ∧ (portSettle s).supply = s.supply ∧
    (portSettle s).session = s.session ∧ (portSettle s).sched = s.sched ∧ (portSettle s).seg = s.seg ∧
    (portSettle s).expo = s.expo ∧ (portSettle s).stats = s.stats ∧ (portSettle s).cache = s.cache ∧
    (portSettle s).engine = s.engine ∧ (portSettle s).cmd = s.cmd ∧ (portSettle s).config = s.config ∧
    (portSettle s).ram = s.ram ∧ (portSettle s).freeCount = s.freeCount ∧ (portSettle s).pending = s.pending ∧
    (portSettle s).path.table = s.path.table := by
  unfold portSettle; simp

/-! ### Machine/Plan.lean -/

@[simp] theorem requestFetch_frame (n : Nat) (s : State) :
    (requestFetch n s).pins = s.pins ∧ (requestFetch n s).tb = s.tb ∧ (requestFetch n s).supply = s.supply ∧
    (requestFetch n s).session = s.session ∧ (requestFetch n s).sched = s.sched ∧ (requestFetch n s).seg = s.seg ∧
    (requestFetch n s).expo = s.expo ∧ (requestFetch n s).stats = s.stats ∧ (requestFetch n s).path = s.path ∧
    (requestFetch n s).port = s.port ∧ (requestFetch n s).cmd = s.cmd ∧ (requestFetch n s).config = s.config ∧
    (requestFetch n s).ram = s.ram ∧ (requestFetch n s).freeCount = s.freeCount ∧
    (requestFetch n s).pending = s.pending := by
  unfold requestFetch; simp

@[simp] theorem walkCreate_frame (n : Nat) (s : State) :
    (walkCreate n s).pins = s.pins ∧ (walkCreate n s).tb = s.tb ∧ (walkCreate n s).supply = s.supply ∧
    (walkCreate n s).session = s.session ∧ (walkCreate n s).sched = s.sched ∧ (walkCreate n s).seg = s.seg ∧
    (walkCreate n s).expo = s.expo ∧ (walkCreate n s).stats = s.stats ∧ (walkCreate n s).path = s.path ∧
    (walkCreate n s).port = s.port ∧ (walkCreate n s).cmd = s.cmd ∧ (walkCreate n s).config = s.config ∧
    (walkCreate n s).ram = s.ram ∧ (walkCreate n s).freeCount = s.freeCount ∧
    (walkCreate n s).pending = s.pending := by
  unfold walkCreate; simp

@[simp] theorem cacheSettle_frame (s : State) :
    (cacheSettle s).pins = s.pins ∧ (cacheSettle s).tb = s.tb ∧ (cacheSettle s).supply = s.supply ∧
    (cacheSettle s).session = s.session ∧ (cacheSettle s).sched = s.sched ∧ (cacheSettle s).seg = s.seg ∧
    (cacheSettle s).expo = s.expo ∧ (cacheSettle s).stats = s.stats ∧ (cacheSettle s).path = s.path ∧
    (cacheSettle s).port = s.port ∧ (cacheSettle s).cmd = s.cmd ∧ (cacheSettle s).config = s.config ∧
    (cacheSettle s).ram = s.ram ∧ (cacheSettle s).freeCount = s.freeCount ∧ (cacheSettle s).pending = s.pending := by
  unfold cacheSettle; (repeat' split) <;> simp

@[simp] theorem makeRoom_frame (s : State) :
    (makeRoom s).pins = s.pins ∧ (makeRoom s).tb = s.tb ∧ (makeRoom s).supply = s.supply ∧
    (makeRoom s).session = s.session ∧ (makeRoom s).sched = s.sched ∧ (makeRoom s).seg = s.seg ∧
    (makeRoom s).expo = s.expo ∧ (makeRoom s).stats = s.stats ∧ (makeRoom s).path = s.path ∧
    (makeRoom s).port = s.port ∧ (makeRoom s).engine = s.engine ∧ (makeRoom s).cmd = s.cmd ∧
    (makeRoom s).config = s.config ∧ (makeRoom s).ram = s.ram ∧ (makeRoom s).freeCount = s.freeCount ∧
    (makeRoom s).pending = s.pending := by
  unfold makeRoom; (repeat' split) <;> simp

@[simp] theorem lazyCreate_frame (n : Nat) (s : State) :
    (lazyCreate n s).pins = s.pins ∧ (lazyCreate n s).tb = s.tb ∧ (lazyCreate n s).supply = s.supply ∧
    (lazyCreate n s).session = s.session ∧ (lazyCreate n s).sched = s.sched ∧ (lazyCreate n s).seg = s.seg ∧
    (lazyCreate n s).expo = s.expo ∧ (lazyCreate n s).stats = s.stats ∧ (lazyCreate n s).path = s.path ∧
    (lazyCreate n s).port = s.port ∧ (lazyCreate n s).engine = s.engine ∧ (lazyCreate n s).cmd = s.cmd ∧
    (lazyCreate n s).config = s.config ∧ (lazyCreate n s).ram = s.ram ∧ (lazyCreate n s).freeCount = s.freeCount ∧
    (lazyCreate n s).pending = s.pending := by
  unfold lazyCreate; simp

@[simp] theorem planWritten_frame (n : Nat) (s : State) :
    (planWritten n s).pins = s.pins ∧ (planWritten n s).tb = s.tb ∧ (planWritten n s).supply = s.supply ∧
    (planWritten n s).session = s.session ∧ (planWritten n s).sched = s.sched ∧ (planWritten n s).seg = s.seg ∧
    (planWritten n s).expo = s.expo ∧ (planWritten n s).stats = s.stats ∧ (planWritten n s).path = s.path ∧
    (planWritten n s).port = s.port ∧ (planWritten n s).engine = s.engine ∧ (planWritten n s).cmd = s.cmd ∧
    (planWritten n s).config = s.config ∧ (planWritten n s).ram = s.ram ∧ (planWritten n s).freeCount = s.freeCount ∧
    (planWritten n s).pending = s.pending := by
  unfold planWritten; split <;> simp

@[simp] theorem setPlanFault_frame (n : Nat) (r : FaultReason) (s : State) :
    (setPlanFault n r s).pins = s.pins ∧ (setPlanFault n r s).tb = s.tb ∧ (setPlanFault n r s).supply = s.supply ∧
    (setPlanFault n r s).session = s.session ∧ (setPlanFault n r s).sched = s.sched ∧
    (setPlanFault n r s).seg = s.seg ∧ (setPlanFault n r s).expo = s.expo ∧ (setPlanFault n r s).stats = s.stats ∧
    (setPlanFault n r s).path = s.path ∧ (setPlanFault n r s).port = s.port ∧
    (setPlanFault n r s).engine = s.engine ∧ (setPlanFault n r s).cmd = s.cmd ∧
    (setPlanFault n r s).config = s.config ∧ (setPlanFault n r s).ram = s.ram ∧
    (setPlanFault n r s).freeCount = s.freeCount ∧ (setPlanFault n r s).pending = s.pending := by
  unfold setPlanFault; simp

@[simp] theorem walkFail_frame (n : Nat) (r : FaultReason) (s : State) :
    (walkFail n r s).pins = s.pins ∧ (walkFail n r s).tb = s.tb ∧ (walkFail n r s).supply = s.supply ∧
    (walkFail n r s).sched = s.sched ∧ (walkFail n r s).seg = s.seg ∧ (walkFail n r s).expo = s.expo ∧
    (walkFail n r s).stats = s.stats ∧ (walkFail n r s).path = s.path ∧ (walkFail n r s).port = s.port ∧
    (walkFail n r s).config = s.config ∧ (walkFail n r s).ram = s.ram ∧ (walkFail n r s).freeCount = s.freeCount ∧
    (walkFail n r s).pending = s.pending := by
  unfold walkFail; simp

@[simp] theorem walkSucceed_frame (n : Nat) (s : State) :
    (walkSucceed n s).pins = s.pins ∧ (walkSucceed n s).tb = s.tb ∧ (walkSucceed n s).supply = s.supply ∧
    (walkSucceed n s).sched = s.sched ∧ (walkSucceed n s).seg = s.seg ∧ (walkSucceed n s).expo = s.expo ∧
    (walkSucceed n s).stats = s.stats ∧ (walkSucceed n s).path = s.path ∧ (walkSucceed n s).port = s.port ∧
    (walkSucceed n s).config = s.config ∧ (walkSucceed n s).ram = s.ram ∧ (walkSucceed n s).freeCount = s.freeCount ∧
    (walkSucceed n s).pending = s.pending := by
  unfold walkSucceed; simp

@[simp] theorem walkExtend_frame (n : Nat) (s : State) :
    (walkExtend n s).pins = s.pins ∧ (walkExtend n s).tb = s.tb ∧ (walkExtend n s).supply = s.supply ∧
    (walkExtend n s).sched = s.sched ∧ (walkExtend n s).seg = s.seg ∧ (walkExtend n s).expo = s.expo ∧
    (walkExtend n s).stats = s.stats ∧ (walkExtend n s).path = s.path ∧ (walkExtend n s).port = s.port ∧
    (walkExtend n s).config = s.config ∧ (walkExtend n s).ram = s.ram ∧ (walkExtend n s).freeCount = s.freeCount ∧
    (walkExtend n s).pending = s.pending := by
  unfold walkExtend; split <;> simp

@[simp] theorem walkNext_frame (n m : Nat) (s : State) :
    (walkNext n m s).pins = s.pins ∧ (walkNext n m s).tb = s.tb ∧ (walkNext n m s).supply = s.supply ∧
    (walkNext n m s).sched = s.sched ∧ (walkNext n m s).seg = s.seg ∧ (walkNext n m s).expo = s.expo ∧
    (walkNext n m s).stats = s.stats ∧ (walkNext n m s).path = s.path ∧ (walkNext n m s).port = s.port ∧
    (walkNext n m s).config = s.config ∧ (walkNext n m s).ram = s.ram ∧ (walkNext n m s).freeCount = s.freeCount ∧
    (walkNext n m s).pending = s.pending := by
  unfold walkNext; (repeat' split) <;> simp

@[simp] theorem walkFetched_frame (n m : Nat) (e : CacheEntry) (l : List BusWord) (s : State) :
    (walkFetched n m e l s).pins = s.pins ∧ (walkFetched n m e l s).tb = s.tb ∧
    (walkFetched n m e l s).supply = s.supply ∧ (walkFetched n m e l s).sched = s.sched ∧
    (walkFetched n m e l s).seg = s.seg ∧ (walkFetched n m e l s).expo = s.expo ∧
    (walkFetched n m e l s).stats = s.stats ∧ (walkFetched n m e l s).path = s.path ∧
    (walkFetched n m e l s).port = s.port ∧ (walkFetched n m e l s).config = s.config ∧
    (walkFetched n m e l s).ram = s.ram ∧ (walkFetched n m e l s).freeCount = s.freeCount ∧
    (walkFetched n m e l s).pending = s.pending := by
  unfold walkFetched; (repeat' split) <;> simp

@[simp] theorem fetchDiscarded_frame (n : Nat) (s : State) :
    (fetchDiscarded n s).pins = s.pins ∧ (fetchDiscarded n s).tb = s.tb ∧ (fetchDiscarded n s).supply = s.supply ∧
    (fetchDiscarded n s).session = s.session ∧ (fetchDiscarded n s).sched = s.sched ∧
    (fetchDiscarded n s).seg = s.seg ∧ (fetchDiscarded n s).expo = s.expo ∧ (fetchDiscarded n s).stats = s.stats ∧
    (fetchDiscarded n s).path = s.path ∧ (fetchDiscarded n s).port = s.port ∧
    (fetchDiscarded n s).engine = s.engine ∧ (fetchDiscarded n s).cmd = s.cmd ∧
    (fetchDiscarded n s).config = s.config ∧ (fetchDiscarded n s).ram = s.ram ∧
    (fetchDiscarded n s).freeCount = s.freeCount ∧ (fetchDiscarded n s).pending = s.pending := by
  unfold fetchDiscarded; simp

@[simp] theorem fetchPassed_frame (n : Nat) (g : Segment) (s : State) :
    (fetchPassed n g s).pins = s.pins ∧ (fetchPassed n g s).tb = s.tb ∧ (fetchPassed n g s).supply = s.supply ∧
    (fetchPassed n g s).session = s.session ∧ (fetchPassed n g s).sched = s.sched ∧ (fetchPassed n g s).seg = s.seg ∧
    (fetchPassed n g s).expo = s.expo ∧ (fetchPassed n g s).stats = s.stats ∧ (fetchPassed n g s).path = s.path ∧
    (fetchPassed n g s).port = s.port ∧ (fetchPassed n g s).engine = s.engine ∧ (fetchPassed n g s).cmd = s.cmd ∧
    (fetchPassed n g s).config = s.config ∧ (fetchPassed n g s).ram = s.ram ∧
    (fetchPassed n g s).freeCount = s.freeCount ∧ (fetchPassed n g s).pending = s.pending := by
  unfold fetchPassed; simp

@[simp] theorem fetchFailed_frame (n : Nat) (r : FaultReason) (s : State) :
    (fetchFailed n r s).tb = s.tb ∧ (fetchFailed n r s).supply = s.supply ∧ (fetchFailed n r s).sched = s.sched ∧
    (fetchFailed n r s).seg = s.seg ∧ (fetchFailed n r s).expo = s.expo ∧ (fetchFailed n r s).stats = s.stats ∧
    (fetchFailed n r s).path = s.path ∧ (fetchFailed n r s).cmd = s.cmd ∧ (fetchFailed n r s).config = s.config ∧
    (fetchFailed n r s).ram = s.ram ∧ (fetchFailed n r s).freeCount = s.freeCount ∧
    (fetchFailed n r s).pending = s.pending ∧ (fetchFailed n r s).pins.board = s.pins.board := by
  unfold fetchFailed; simp

@[simp] theorem judgeRun_frame (s : State) :
    (judgeRun s).pins = s.pins ∧ (judgeRun s).tb = s.tb ∧ (judgeRun s).supply = s.supply ∧
    (judgeRun s).session = s.session ∧ (judgeRun s).seg = s.seg ∧ (judgeRun s).expo = s.expo ∧
    (judgeRun s).stats = s.stats ∧ (judgeRun s).cache = s.cache ∧ (judgeRun s).path = s.path ∧
    (judgeRun s).port = s.port ∧ (judgeRun s).cmd = s.cmd ∧ (judgeRun s).config = s.config ∧
    (judgeRun s).ram = s.ram ∧ (judgeRun s).freeCount = s.freeCount ∧ (judgeRun s).pending = s.pending := by
  unfold judgeRun; (repeat' split) <;> simp

@[simp] theorem fetchDone_frame (l : List BusWord) (s : State) :
    (fetchDone l s).tb = s.tb ∧ (fetchDone l s).supply = s.supply ∧ (fetchDone l s).seg = s.seg ∧
    (fetchDone l s).expo = s.expo ∧ (fetchDone l s).stats = s.stats ∧ (fetchDone l s).path = s.path ∧
    (fetchDone l s).config = s.config ∧ (fetchDone l s).ram = s.ram ∧ (fetchDone l s).freeCount = s.freeCount ∧
    (fetchDone l s).pending = s.pending ∧ (fetchDone l s).pins.board = s.pins.board := by
  unfold fetchDone; dsimp only; (repeat' split) <;> simp

/-! ### Machine/Issue.lean -/

@[simp] theorem appendOrder_frame (e : Entry) (n : Nat) (s : State) :
    (appendOrder e n s).pins = s.pins ∧ (appendOrder e n s).tb = s.tb ∧ (appendOrder e n s).supply = s.supply ∧
    (appendOrder e n s).session = s.session ∧ (appendOrder e n s).stats = s.stats ∧
    (appendOrder e n s).cache = s.cache ∧ (appendOrder e n s).path = s.path ∧ (appendOrder e n s).port = s.port ∧
    (appendOrder e n s).engine = s.engine ∧ (appendOrder e n s).cmd = s.cmd ∧ (appendOrder e n s).config = s.config ∧
    (appendOrder e n s).ram = s.ram ∧ (appendOrder e n s).freeCount = s.freeCount ∧
    (appendOrder e n s).pending = s.pending := by
  unfold appendOrder; simp

@[simp] theorem deferredSuspend_frame (k : IssueKind) (s : State) :
    (deferredSuspend k s).pins = s.pins ∧ (deferredSuspend k s).tb = s.tb ∧ (deferredSuspend k s).supply = s.supply ∧
    (deferredSuspend k s).session = s.session ∧ (deferredSuspend k s).expo = s.expo ∧
    (deferredSuspend k s).cache = s.cache ∧ (deferredSuspend k s).path = s.path ∧
    (deferredSuspend k s).port = s.port ∧ (deferredSuspend k s).cmd = s.cmd ∧
    (deferredSuspend k s).config = s.config ∧ (deferredSuspend k s).ram = s.ram ∧
    (deferredSuspend k s).freeCount = s.freeCount ∧ (deferredSuspend k s).pending = s.pending ∧
    (deferredSuspend k s).stats.shown = s.stats.shown := by
  unfold deferredSuspend; (repeat' split) <;> simp

@[simp] theorem completeIssue_frame (k : IssueKind) (c : Segment) (s : State) :
    (completeIssue k c s).tb = s.tb ∧ (completeIssue k c s).supply = s.supply ∧
    (completeIssue k c s).cache = s.cache ∧ (completeIssue k c s).cmd = s.cmd ∧
    (completeIssue k c s).config = s.config ∧ (completeIssue k c s).ram = s.ram ∧
    (completeIssue k c s).freeCount = s.freeCount ∧ (completeIssue k c s).pending = s.pending ∧
    (completeIssue k c s).pins.board = s.pins.board ∧ (completeIssue k c s).path.table = s.path.table ∧
    (completeIssue k c s).stats.shown = s.stats.shown := by
  unfold completeIssue; simp

@[simp] theorem abandonAll_frame (l : List Entry) (s : State) :
    (abandonAll l s).tb = s.tb ∧ (abandonAll l s).supply = s.supply ∧ (abandonAll l s).expo = s.expo ∧
    (abandonAll l s).stats = s.stats ∧ (abandonAll l s).cache = s.cache ∧ (abandonAll l s).path = s.path ∧
    (abandonAll l s).cmd = s.cmd ∧ (abandonAll l s).config = s.config ∧ (abandonAll l s).ram = s.ram ∧
    (abandonAll l s).freeCount = s.freeCount ∧ (abandonAll l s).pending = s.pending ∧
    (abandonAll l s).pins.board = s.pins.board := by
  induction l generalizing s with
  | nil => simp [abandonAll]
  | cons e es ih => simp [abandonAll, ih]

@[simp] theorem endOfPlan_frame (s : State) :
    (endOfPlan s).tb = s.tb ∧ (endOfPlan s).supply = s.supply ∧ (endOfPlan s).expo = s.expo ∧
    (endOfPlan s).cache = s.cache ∧ (endOfPlan s).path = s.path ∧ (endOfPlan s).cmd = s.cmd ∧
    (endOfPlan s).config = s.config ∧ (endOfPlan s).ram = s.ram ∧ (endOfPlan s).freeCount = s.freeCount ∧
    (endOfPlan s).pending = s.pending ∧ (endOfPlan s).pins.board = s.pins.board ∧
    (endOfPlan s).stats.shown = s.stats.shown := by
  unfold endOfPlan; simp

@[simp] theorem voidEntry_frame (e : Entry) (s : State) :
    (voidEntry e s).tb = s.tb ∧ (voidEntry e s).supply = s.supply ∧ (voidEntry e s).expo = s.expo ∧
    (voidEntry e s).stats = s.stats ∧ (voidEntry e s).cache = s.cache ∧ (voidEntry e s).cmd = s.cmd ∧
    (voidEntry e s).config = s.config ∧ (voidEntry e s).ram = s.ram ∧ (voidEntry e s).freeCount = s.freeCount ∧
    (voidEntry e s).pending = s.pending ∧ (voidEntry e s).pins.board = s.pins.board ∧
    (voidEntry e s).path.table = s.path.table := by
  unfold voidEntry; simp

@[simp] theorem voidIssued_frame (l : List Entry) (s : State) :
    (voidIssued l s).tb = s.tb ∧ (voidIssued l s).supply = s.supply ∧ (voidIssued l s).expo = s.expo ∧
    (voidIssued l s).stats = s.stats ∧ (voidIssued l s).cache = s.cache ∧ (voidIssued l s).cmd = s.cmd ∧
    (voidIssued l s).config = s.config ∧ (voidIssued l s).ram = s.ram ∧ (voidIssued l s).freeCount = s.freeCount ∧
    (voidIssued l s).pending = s.pending ∧ (voidIssued l s).pins.board = s.pins.board ∧
    (voidIssued l s).path.table = s.path.table := by
  induction l generalizing s with
  | nil => simp [voidIssued]
  | cons e es ih => simp only [voidIssued, ih]; split <;> simp

@[simp] theorem returnToStanding_frame (s : State) :
    (returnToStanding s).pins = s.pins ∧ (returnToStanding s).tb = s.tb ∧ (returnToStanding s).supply = s.supply ∧
    (returnToStanding s).session = s.session ∧ (returnToStanding s).seg = s.seg ∧
    (returnToStanding s).stats = s.stats ∧ (returnToStanding s).cache = s.cache ∧
    (returnToStanding s).path = s.path ∧ (returnToStanding s).port = s.port ∧ (returnToStanding s).cmd = s.cmd ∧
    (returnToStanding s).config = s.config ∧ (returnToStanding s).ram = s.ram ∧
    (returnToStanding s).freeCount = s.freeCount ∧ (returnToStanding s).pending = s.pending := by
  unfold returnToStanding; split <;> simp

@[simp] theorem discountTriggered_frame (s : State) :
    (discountTriggered s).pins = s.pins ∧ (discountTriggered s).tb = s.tb ∧ (discountTriggered s).supply = s.supply ∧
    (discountTriggered s).session = s.session ∧ (discountTriggered s).seg = s.seg ∧
    (discountTriggered s).expo = s.expo ∧ (discountTriggered s).stats = s.stats ∧
    (discountTriggered s).cache = s.cache ∧ (discountTriggered s).path = s.path ∧
    (discountTriggered s).port = s.port ∧ (discountTriggered s).engine = s.engine ∧
    (discountTriggered s).cmd = s.cmd ∧ (discountTriggered s).config = s.config ∧ (discountTriggered s).ram = s.ram ∧
    (discountTriggered s).freeCount = s.freeCount ∧ (discountTriggered s).pending = s.pending := by
  unfold discountTriggered; simp

@[simp] theorem settleQueue_frame (k : Settle) (s : State) :
    (settleQueue k s).tb = s.tb ∧ (settleQueue k s).supply = s.supply ∧ (settleQueue k s).stats = s.stats ∧
    (settleQueue k s).cache = s.cache ∧ (settleQueue k s).cmd = s.cmd ∧ (settleQueue k s).config = s.config ∧
    (settleQueue k s).ram = s.ram ∧ (settleQueue k s).freeCount = s.freeCount ∧
    (settleQueue k s).pending = s.pending ∧ (settleQueue k s).pins.board = s.pins.board ∧
    (settleQueue k s).path.table = s.path.table := by
  unfold settleQueue; (repeat' split) <;> simp

@[simp] theorem enterSegment_frame (n : Nat) (c : Option Segment) (s : State) :
    (enterSegment n c s).pins = s.pins ∧ (enterSegment n c s).tb = s.tb ∧ (enterSegment n c s).supply = s.supply ∧
    (enterSegment n c s).session = s.session ∧ (enterSegment n c s).sched = s.sched ∧
    (enterSegment n c s).expo = s.expo ∧ (enterSegment n c s).stats = s.stats ∧ (enterSegment n c s).path = s.path ∧
    (enterSegment n c s).port = s.port ∧ (enterSegment n c s).engine = s.engine ∧ (enterSegment n c s).cmd = s.cmd ∧
    (enterSegment n c s).config = s.config ∧ (enterSegment n c s).ram = s.ram ∧
    (enterSegment n c s).freeCount = s.freeCount ∧ (enterSegment n c s).pending = s.pending := by
  unfold enterSegment; simp

@[simp] theorem takeTransition_frame (m : Option Word) (l : Segment) (n : Nat) (c : Segment) (s : State) :
    (takeTransition m l n c s).tb = s.tb ∧ (takeTransition m l n c s).supply = s.supply ∧
    (takeTransition m l n c s).cmd = s.cmd ∧ (takeTransition m l n c s).config = s.config ∧
    (takeTransition m l n c s).ram = s.ram ∧ (takeTransition m l n c s).freeCount = s.freeCount ∧
    (takeTransition m l n c s).pending = s.pending ∧ (takeTransition m l n c s).pins.board = s.pins.board ∧
    (takeTransition m l n c s).path.table = s.path.table ∧
    (takeTransition m l n c s).stats.shown = s.stats.shown := by
  unfold takeTransition; simp

@[simp] theorem continueFaultHold_frame (c : Segment) (s : State) :
    (continueFaultHold c s).tb = s.tb ∧ (continueFaultHold c s).supply = s.supply ∧
    (continueFaultHold c s).cache = s.cache ∧ (continueFaultHold c s).cmd = s.cmd ∧
    (continueFaultHold c s).config = s.config ∧ (continueFaultHold c s).ram = s.ram ∧
    (continueFaultHold c s).freeCount = s.freeCount ∧ (continueFaultHold c s).pending = s.pending ∧
    (continueFaultHold c s).pins.board = s.pins.board ∧ (continueFaultHold c s).path.table = s.path.table ∧
    (continueFaultHold c s).stats.shown = s.stats.shown := by
  unfold continueFaultHold; simp

@[simp] theorem judgeTransition_state_frame (m : Option Word) (l : Segment) (n : Nat) (s : State) :
    (judgeTransition m l n s).state.tb = s.tb ∧ (judgeTransition m l n s).state.supply = s.supply ∧
    (judgeTransition m l n s).state.cmd = s.cmd ∧ (judgeTransition m l n s).state.config = s.config ∧
    (judgeTransition m l n s).state.ram = s.ram ∧ (judgeTransition m l n s).state.freeCount = s.freeCount ∧
    (judgeTransition m l n s).state.pending = s.pending ∧ (judgeTransition m l n s).state.pins.board = s.pins.board ∧
    (judgeTransition m l n s).state.path.table = s.path.table ∧
    (judgeTransition m l n s).state.stats.shown = s.stats.shown := by
  unfold judgeTransition; (repeat' split) <;> simp

@[simp] theorem ordinaryIssue_state_frame (m : Option Word) (c : Segment) (s : State) :
    (ordinaryIssue m c s).state.tb = s.tb ∧ (ordinaryIssue m c s).state.supply = s.supply ∧
    (ordinaryIssue m c s).state.cmd = s.cmd ∧ (ordinaryIssue m c s).state.config = s.config ∧
    (ordinaryIssue m c s).state.ram = s.ram ∧ (ordinaryIssue m c s).state.freeCount = s.freeCount ∧
    (ordinaryIssue m c s).state.pending = s.pending ∧ (ordinaryIssue m c s).state.pins.board = s.pins.board ∧
    (ordinaryIssue m c s).state.path.table = s.path.table ∧
    (ordinaryIssue m c s).state.stats.shown = s.stats.shown := by
  unfold ordinaryIssue; (repeat' split) <;> simp

@[simp] theorem issueUnder_state_frame (o : Origin) (c : Segment) (s : State) :
    (issueUnder o c s).state.tb = s.tb ∧ (issueUnder o c s).state.supply = s.supply ∧
    (issueUnder o c s).state.cmd = s.cmd ∧ (issueUnder o c s).state.config = s.config ∧
    (issueUnder o c s).state.ram = s.ram ∧ (issueUnder o c s).state.freeCount = s.freeCount ∧
    (issueUnder o c s).state.pending = s.pending ∧ (issueUnder o c s).state.pins.board = s.pins.board ∧
    (issueUnder o c s).state.path.table = s.path.table ∧ (issueUnder o c s).state.stats.shown = s.stats.shown := by
  unfold issueUnder; (repeat' split) <;> simp

@[simp] theorem attemptIssue_state_frame (o : Origin) (s : State) :
    (attemptIssue o s).state.tb = s.tb ∧ (attemptIssue o s).state.supply = s.supply ∧
    (attemptIssue o s).state.cmd = s.cmd ∧ (attemptIssue o s).state.config = s.config ∧
    (attemptIssue o s).state.ram = s.ram ∧ (attemptIssue o s).state.freeCount = s.freeCount ∧
    (attemptIssue o s).state.pending = s.pending ∧ (attemptIssue o s).state.pins.board = s.pins.board ∧
    (attemptIssue o s).state.path.table = s.path.table ∧ (attemptIssue o s).state.stats.shown = s.stats.shown := by
  unfold attemptIssue; (repeat' split) <;> simp

@[simp] theorem makeIssues_frame (n : Nat) (s : State) :
    (makeIssues n s).tb = s.tb ∧ (makeIssues n s).supply = s.supply ∧ (makeIssues n s).cmd = s.cmd ∧
    (makeIssues n s).config = s.config ∧ (makeIssues n s).ram = s.ram ∧ (makeIssues n s).freeCount = s.freeCount ∧
    (makeIssues n s).pending = s.pending ∧ (makeIssues n s).pins.board = s.pins.board ∧
    (makeIssues n s).path.table = s.path.table ∧ (makeIssues n s).stats.shown = s.stats.shown := by
  induction n generalizing s with
  | zero => simp [makeIssues]
  | succ n ih => simp only [makeIssues]; (repeat' split) <;> simp [ih]

@[simp] theorem issueOwed_frame (s : State) :
    (issueOwed s).tb = s.tb ∧ (issueOwed s).supply = s.supply ∧ (issueOwed s).cmd = s.cmd ∧
    (issueOwed s).config = s.config ∧ (issueOwed s).ram = s.ram ∧ (issueOwed s).freeCount = s.freeCount ∧
    (issueOwed s).pending = s.pending ∧ (issueOwed s).pins.board = s.pins.board ∧
    (issueOwed s).path.table = s.path.table ∧ (issueOwed s).stats.shown = s.stats.shown := by
  unfold issueOwed; simp

@[simp] theorem freeBuffer_frame (s : State) :
    (freeBuffer s).pins = s.pins ∧ (freeBuffer s).tb = s.tb ∧ (freeBuffer s).supply = s.supply ∧
    (freeBuffer s).session = s.session ∧ (freeBuffer s).sched = s.sched ∧ (freeBuffer s).seg = s.seg ∧
    (freeBuffer s).expo = s.expo ∧ (freeBuffer s).cache = s.cache ∧ (freeBuffer s).path = s.path ∧
    (freeBuffer s).port = s.port ∧ (freeBuffer s).engine = s.engine ∧ (freeBuffer s).cmd = s.cmd ∧
    (freeBuffer s).config = s.config ∧ (freeBuffer s).ram = s.ram ∧ (freeBuffer s).freeCount = s.freeCount ∧
    (freeBuffer s).pending = s.pending ∧ (freeBuffer s).stats.shown = s.stats.shown := by
  unfold freeBuffer; split <;> simp <;> rfl

@[simp] theorem judgeScheduled_frame (s : State) :
    (judgeScheduled s).tb = s.tb ∧ (judgeScheduled s).supply = s.supply ∧ (judgeScheduled s).sched = s.sched ∧
    (judgeScheduled s).seg = s.seg ∧ (judgeScheduled s).expo = s.expo ∧ (judgeScheduled s).stats = s.stats ∧
    (judgeScheduled s).cache = s.cache ∧ (judgeScheduled s).path = s.path ∧
    (judgeScheduled s).cmd = s.cmd ∧ (judgeScheduled s).config = s.config ∧ (judgeScheduled s).ram = s.ram ∧
    (judgeScheduled s).freeCount = s.freeCount ∧ (judgeScheduled s).pending = s.pending ∧
    (judgeScheduled s).pins.board = s.pins.board := by
  unfold judgeScheduled; split <;> simp

@[simp] theorem judgeIdle_frame (s : State) :
    (judgeIdle s).tb = s.tb ∧ (judgeIdle s).supply = s.supply ∧ (judgeIdle s).sched = s.sched ∧
    (judgeIdle s).seg = s.seg ∧ (judgeIdle s).expo = s.expo ∧ (judgeIdle s).stats = s.stats ∧
    (judgeIdle s).cache = s.cache ∧ (judgeIdle s).path = s.path ∧
    (judgeIdle s).cmd = s.cmd ∧ (judgeIdle s).config = s.config ∧ (judgeIdle s).ram = s.ram ∧
    (judgeIdle s).freeCount = s.freeCount ∧ (judgeIdle s).pending = s.pending ∧
    (judgeIdle s).pins.board = s.pins.board := by
  unfold judgeIdle; split <;> simp

@[simp] theorem judgeWakes_frame (s : State) :
    (judgeWakes s).tb = s.tb ∧ (judgeWakes s).supply = s.supply ∧ (judgeWakes s).sched = s.sched ∧
    (judgeWakes s).seg = s.seg ∧ (judgeWakes s).expo = s.expo ∧ (judgeWakes s).stats = s.stats ∧
    (judgeWakes s).cache = s.cache ∧ (judgeWakes s).path = s.path ∧
    (judgeWakes s).cmd = s.cmd ∧ (judgeWakes s).config = s.config ∧ (judgeWakes s).ram = s.ram ∧
    (judgeWakes s).freeCount = s.freeCount ∧ (judgeWakes s).pending = s.pending ∧
    (judgeWakes s).pins.board = s.pins.board := by
  unfold judgeWakes; simp

@[simp] theorem settleWord_frame (s : State) :
    (settleWord s).tb = s.tb ∧ (settleWord s).supply = s.supply ∧ (settleWord s).cmd = s.cmd ∧
    (settleWord s).config = s.config ∧ (settleWord s).ram = s.ram ∧ (settleWord s).freeCount = s.freeCount ∧
    (settleWord s).pending = s.pending ∧ (settleWord s).pins.board = s.pins.board ∧
    (settleWord s).path.table = s.path.table ∧ (settleWord s).stats.shown = s.stats.shown := by
  unfold settleWord; simp

@[simp] theorem settle_frame (s : State) :
    (settle s).tb = s.tb ∧ (settle s).supply = s.supply ∧ (settle s).cmd = s.cmd ∧ (settle s).config = s.config ∧
    (settle s).ram = s.ram ∧ (settle s).freeCount = s.freeCount ∧ (settle s).pending = s.pending ∧
    (settle s).pins.board = s.pins.board ∧ (settle s).path.table = s.path.table ∧
    (settle s).stats.shown = s.stats.shown := by
  unfold settle; simp

@[simp] theorem finish_frame (s : State) :
    (finish s).tb = s.tb ∧ (finish s).supply = s.supply ∧ (finish s).cmd = s.cmd ∧ (finish s).config = s.config ∧
    (finish s).ram = s.ram ∧ (finish s).freeCount = s.freeCount ∧ (finish s).pending = s.pending ∧
    (finish s).pins.board = s.pins.board ∧ (finish s).path.table = s.path.table ∧
    (finish s).stats.shown = s.stats.shown := by
  unfold finish; simp

/-- What a reset that ends an engine access does to the RAM: nothing to that of a read, or with none in progress; of a write, the words
transferred are written (R159, R160; L9). -/
theorem endEngineAccess_ram (s : State) :
    ((∀ a, s.port.access = .engine a → a.write = false) → (endEngineAccess s).ram = s.ram) ∧
      ∀ a, s.port.access = .engine a → a.write = true →
        (endEngineAccess s).ram = writeWords s.ram (a.addrs.take (transferredWords s a)) a.words := by
  unfold endEngineAccess
  cases h : s.port.access with
  | noAccess => simp
  | pass tx => simp
  | engine a => cases hw : a.write <;> simp [hw, State.modRam, State.modPort, State.modFreeCount]

end Sys2Proof.Machine
end

