-- ==== Sys2Proof/Laws/Kept.lean ====
section
/-! SUPPORT. The producer index, the status copies and their dirty marks are left alone by all that follows a command's effect. -/

namespace Sys2Proof.Machine

@[simp] theorem requestStatus_kept (s : State) : (requestStatus s).engine.kept = s.engine.kept := by
  unfold requestStatus State.modEngine; dsimp only; (repeat' split) <;> rfl

@[simp] theorem keepMark_kept (k : EventClass) (s : State) : (keepMark k s).engine.kept = s.engine.kept := by
  unfold keepMark; simp <;> rfl

@[simp] theorem beginWake_kept (c : WakeCause) (l : Bool) (s : State) : (beginWake c l s).engine.kept = s.engine.kept := by
  unfold beginWake; simp

@[simp] theorem judgeAlert_kept (s : State) : (judgeAlert s).engine.kept = s.engine.kept := by
  unfold judgeAlert beginAlertWake; split <;> simp

@[simp] theorem judgeScheduled_kept (s : State) : (judgeScheduled s).engine.kept = s.engine.kept := by
  unfold judgeScheduled; split <;> simp

@[simp] theorem judgeIdle_kept (s : State) : (judgeIdle s).engine.kept = s.engine.kept := by
  unfold judgeIdle; split <;> simp

@[simp] theorem judgeWakes_kept (s : State) : (judgeWakes s).engine.kept = s.engine.kept := by
  unfold judgeWakes; simp

@[simp] theorem endOrderService_kept (s : State) : (endOrderService s).engine.kept = s.engine.kept := by
  unfold endOrderService; (repeat' split) <;> (try simp) <;> rfl

@[simp] theorem evictOrder_kept (s : State) : (evictOrder s).engine.kept = s.engine.kept := by
  unfold evictOrder; (repeat' split) <;> (try simp) <;> rfl

@[simp] theorem requestOrder_kept (o : OrderContent) (s : State) : (requestOrder o s).engine.kept = s.engine.kept := by
  unfold requestOrder; (repeat' split) <;> first | rfl | exact evictOrder_kept s

@[simp] theorem raiseEvent_kept (k : EventClass) (s : State) : (raiseEvent k s).engine.kept = s.engine.kept := by
  unfold raiseEvent; dsimp only; (repeat' split) <;> simp <;> rfl

@[simp] theorem loseLog_kept (s : State) : (loseLog s).engine.kept = s.engine.kept := by
  unfold loseLog; simp <;> rfl

@[simp] theorem requestLog_kept (l : LogContent) (s : State) : (requestLog l s).engine.kept = s.engine.kept := by
  unfold requestLog; (repeat' split) <;> (try simp) <;> rfl

@[simp] theorem setRunState_kept (r : RunState) (s : State) : (setRunState r s).engine.kept = s.engine.kept := by
  unfold setRunState; (repeat' split) <;> (try simp) <;> rfl

@[simp] theorem setRun_kept (r : RunState) (f : FinishReason) (s : State) : (setRun r f s).engine.kept = s.engine.kept := by
  unfold setRun; simp <;> rfl

@[simp] theorem suspendNow_kept (r : RunState) (s : State) : (suspendNow r s).engine.kept = s.engine.kept := by
  unfold suspendNow; simp <;> rfl

@[simp] theorem suspendCapturing_kept (r : RunState) (s : State) :
    (suspendCapturing r s).engine.kept = s.engine.kept := by
  unfold suspendCapturing; (repeat' split) <;> (try simp) <;> rfl

@[simp] theorem suspendRun_kept (s : State) : (suspendRun s).engine.kept = s.engine.kept := by
  unfold suspendRun; simp

@[simp] theorem retire_kept (e : Entry) (o : FrameOutcome) (c : Cause) (m : Option (Nat × Int)) (g : Bool) (s : State) : (retire e o c m g s).engine.kept = s.engine.kept := by
  unfold retire; simp <;> rfl

@[simp] theorem serve_kept (r : Request) (l : List EngineAccess) (b : Bool) (v : BitVec 8) (s : State) : (serve r l b v s).engine.kept = s.engine.kept := by
  unfold serve; simp <;> rfl

@[simp] theorem serveStatus_kept (s : State) : (serveStatus s).engine.kept = s.engine.kept := by
  unfold serveStatus; simp <;> rfl

@[simp] theorem serveLog_kept (l : LogContent) (s : State) : (serveLog l s).engine.kept = s.engine.kept := by
  unfold serveLog; (repeat' split) <;> (try simp) <;> rfl

@[simp] theorem beginRequest_kept (r : Request) (s : State) : (beginRequest r s).engine.kept = s.engine.kept := by
  unfold beginRequest; (repeat' split) <;> (try simp) <;> rfl

@[simp] theorem beginOnce_kept (s : State) : (beginOnce s).engine.kept = s.engine.kept := by
  unfold beginOnce; (repeat' split) <;> (try simp) <;> rfl

@[simp] theorem beginService_kept (s : State) : (beginService s).engine.kept = s.engine.kept := by
  unfold beginService; simp <;> rfl

@[simp] theorem retireNow_kept (e : Entry) (o : FrameOutcome) (c : Cause) (m : Option (Nat × Int)) (g : Bool) (s : State) : (retireNow e o c m g s).engine.kept = s.engine.kept := by
  unfold retireNow; simp <;> rfl

@[simp] theorem requestFetch_kept (n : Nat) (s : State) : (requestFetch n s).engine.kept = s.engine.kept := by
  unfold requestFetch; simp <;> rfl

@[simp] theorem walkCreate_kept (n : Nat) (s : State) : (walkCreate n s).engine.kept = s.engine.kept := by
  unfold walkCreate; simp <;> rfl

@[simp] theorem cacheSettle_kept (s : State) : (cacheSettle s).engine.kept = s.engine.kept := by
  unfold cacheSettle; (repeat' split) <;> (try simp) <;> rfl

@[simp] theorem judgeRun_kept (s : State) : (judgeRun s).engine.kept = s.engine.kept := by
  unfold judgeRun; (repeat' split) <;> (try simp) <;> rfl

@[simp] theorem deferredSuspend_kept (k : IssueKind) (s : State) : (deferredSuspend k s).engine.kept = s.engine.kept := by
  unfold deferredSuspend; (repeat' split) <;> (try simp) <;> rfl

@[simp] theorem completeIssue_kept (k : IssueKind) (c : Segment) (s : State) : (completeIssue k c s).engine.kept = s.engine.kept := by
  unfold completeIssue; simp <;> rfl

@[simp] theorem abandonAll_kept (l : List Entry) (s : State) : (abandonAll l s).engine.kept = s.engine.kept := by
  induction l generalizing s with
  | nil => rfl
  | cons e es ih => simp [abandonAll, ih]

@[simp] theorem endOfPlan_kept (s : State) : (endOfPlan s).engine.kept = s.engine.kept := by
  unfold endOfPlan; simp <;> rfl

@[simp] theorem voidEntry_kept (e : Entry) (s : State) : (voidEntry e s).engine.kept = s.engine.kept := by
  unfold voidEntry; simp <;> rfl

@[simp] theorem voidIssued_kept (l : List Entry) (s : State) : (voidIssued l s).engine.kept = s.engine.kept := by
  induction l generalizing s with
  | nil => rfl
  | cons e es ih => simp only [voidIssued, ih]; split <;> simp

@[simp] theorem returnToStanding_kept (s : State) : (returnToStanding s).engine.kept = s.engine.kept := by
  unfold returnToStanding; (repeat' split) <;> (try simp) <;> rfl

@[simp] theorem settleQueue_kept (k : Settle) (s : State) : (settleQueue k s).engine.kept = s.engine.kept := by
  unfold settleQueue; (repeat' split) <;> (try simp) <;> rfl

@[simp] theorem takeTransition_kept (m : Option Word) (l : Segment) (n : Nat) (c : Segment) (s : State) : (takeTransition m l n c s).engine.kept = s.engine.kept := by
  unfold takeTransition; simp <;> rfl

@[simp] theorem continueFaultHold_kept (c : Segment) (s : State) : (continueFaultHold c s).engine.kept = s.engine.kept := by
  unfold continueFaultHold; simp <;> rfl

@[simp] theorem judgeTransition_kept (m : Option Word) (l : Segment) (n : Nat) (s : State) : (judgeTransition m l n s).state.engine.kept = s.engine.kept := by
  unfold judgeTransition; (repeat' split) <;> simp

@[simp] theorem ordinaryIssue_kept (m : Option Word) (c : Segment) (s : State) : (ordinaryIssue m c s).state.engine.kept = s.engine.kept := by
  unfold ordinaryIssue; (repeat' split) <;> simp

@[simp] theorem issueUnder_kept (o : Origin) (c : Segment) (s : State) : (issueUnder o c s).state.engine.kept = s.engine.kept := by
  unfold issueUnder; (repeat' split) <;> simp

@[simp] theorem attemptIssue_kept (o : Origin) (s : State) : (attemptIssue o s).state.engine.kept = s.engine.kept := by
  unfold attemptIssue; (repeat' split) <;> simp

@[simp] theorem makeIssues_kept (n : Nat) (s : State) : (makeIssues n s).engine.kept = s.engine.kept := by
  induction n generalizing s with
  | zero => rfl
  | succ n ih => simp only [makeIssues]; (repeat' split) <;> simp [ih]

@[simp] theorem issueOwed_kept (s : State) : (issueOwed s).engine.kept = s.engine.kept := by
  unfold issueOwed; simp <;> rfl

@[simp] theorem settleWord_kept (s : State) : (settleWord s).engine.kept = s.engine.kept := by
  unfold settleWord; simp <;> rfl

@[simp] theorem settle_kept (s : State) : (settle s).engine.kept = s.engine.kept := by
  unfold settle; simp <;> rfl

@[simp] theorem finish_kept (s : State) : (finish s).engine.kept = s.engine.kept := by
  unfold finish; simp <;> rfl

end Sys2Proof.Machine
end

