-- ==== Sys2Proof/Laws/Tally.lean ====
section
/-! SUPPORT. The event counts and pending marks of all classes but LOG_LOST are left alone by all that follows a command's
effect. -/

namespace Sys2Proof.Machine

@[simp] theorem wakeControllerLines_tally (s : State) : (wakeControllerLines s).session.tally = s.session.tally := by
  unfold wakeControllerLines; split <;> rfl

@[simp] theorem askPortForWake_tally (s : State) : (askPortForWake s).session.tally = s.session.tally := by
  unfold askPortForWake; split <;> simp <;> rfl

@[simp] theorem beginWake_tally (c : WakeCause) (l : Bool) (s : State) :
    (beginWake c l s).session.tally = s.session.tally := by
  unfold beginWake; simp <;> rfl

@[simp] theorem judgeAlert_tally (s : State) : (judgeAlert s).session.tally = s.session.tally := by
  unfold judgeAlert beginAlertWake; split <;> simp <;> rfl

@[simp] theorem judgeScheduled_tally (s : State) : (judgeScheduled s).session.tally = s.session.tally := by
  unfold judgeScheduled; split <;> simp

@[simp] theorem judgeIdle_tally (s : State) : (judgeIdle s).session.tally = s.session.tally := by
  unfold judgeIdle; split <;> simp

@[simp] theorem judgeWakes_tally (s : State) : (judgeWakes s).session.tally = s.session.tally := by
  unfold judgeWakes; simp

theorem countEvent_logLost_tally (s : State) : (countEvent .logLost s).session.tally = s.session.tally := by
  simp only [Session.tally, countEvent, PerClass.set]
  refine Prod.ext rfl ?_
  show (s.session.pendingSet ||| EventClass.logLost.mark) &&& ~~~EventClass.logLost.mark =
    s.session.pendingSet &&& ~~~EventClass.logLost.mark
  ext i
  simp only [BitVec.getElem_and, BitVec.getElem_or, BitVec.getElem_not]
  cases s.session.pendingSet[i] <;> cases (EventClass.logLost.mark)[i] <;> rfl

@[simp] theorem raiseEvent_logLost_tally (s : State) : (raiseEvent .logLost s).session.tally = s.session.tally := by
  unfold raiseEvent; dsimp only
  have h := countEvent_logLost_tally s
  (repeat' split) <;> simp [h] <;> exact h

@[simp] theorem loseLog_tally (s : State) : (loseLog s).session.tally = s.session.tally := by
  unfold loseLog; simp <;> rfl

@[simp] theorem requestLog_tally (l : LogContent) (s : State) : (requestLog l s).session.tally = s.session.tally := by
  unfold requestLog; (repeat' split) <;> (try simp) <;> rfl

@[simp] theorem retire_tally (e : Entry) (o : FrameOutcome) (c : Cause) (m : Option (Nat × Int)) (g : Bool) (s : State) : (retire e o c m g s).session.tally = s.session.tally := by
  unfold retire; simp <;> rfl

@[simp] theorem serveLog_tally (l : LogContent) (s : State) : (serveLog l s).session.tally = s.session.tally := by
  unfold serveLog; (repeat' split) <;> (try simp) <;> rfl

@[simp] theorem beginRequest_tally (r : Request) (s : State) : (beginRequest r s).session.tally = s.session.tally := by
  unfold beginRequest; (repeat' split) <;> (try simp) <;> rfl

@[simp] theorem beginOnce_tally (s : State) : (beginOnce s).session.tally = s.session.tally := by
  unfold beginOnce; (repeat' split) <;> (try simp) <;> rfl

@[simp] theorem beginService_tally (s : State) : (beginService s).session.tally = s.session.tally := by
  unfold beginService; simp <;> rfl

@[simp] theorem retireNow_tally (e : Entry) (o : FrameOutcome) (c : Cause) (m : Option (Nat × Int)) (g : Bool) (s : State) : (retireNow e o c m g s).session.tally = s.session.tally := by
  unfold retireNow; simp <;> rfl

@[simp] theorem completeIssue_tally (k : IssueKind) (c : Segment) (s : State) : (completeIssue k c s).session.tally = s.session.tally := by
  unfold completeIssue; simp <;> rfl

@[simp] theorem abandonAll_tally (l : List Entry) (s : State) : (abandonAll l s).session.tally = s.session.tally := by
  induction l generalizing s with
  | nil => rfl
  | cons e es ih => simp [abandonAll, ih]

@[simp] theorem endOfPlan_tally (s : State) : (endOfPlan s).session.tally = s.session.tally := by
  unfold endOfPlan; simp <;> rfl

@[simp] theorem voidEntry_tally (e : Entry) (s : State) : (voidEntry e s).session.tally = s.session.tally := by
  unfold voidEntry; simp <;> rfl

@[simp] theorem voidIssued_tally (l : List Entry) (s : State) : (voidIssued l s).session.tally = s.session.tally := by
  induction l generalizing s with
  | nil => rfl
  | cons e es ih => simp only [voidIssued, ih]; split <;> simp

@[simp] theorem settleQueue_tally (k : Settle) (s : State) : (settleQueue k s).session.tally = s.session.tally := by
  unfold settleQueue; (repeat' split) <;> (try simp) <;> rfl

@[simp] theorem takeTransition_tally (m : Option Word) (l : Segment) (n : Nat) (c : Segment) (s : State) : (takeTransition m l n c s).session.tally = s.session.tally := by
  unfold takeTransition; simp <;> rfl

@[simp] theorem continueFaultHold_tally (c : Segment) (s : State) : (continueFaultHold c s).session.tally = s.session.tally := by
  unfold continueFaultHold; simp <;> rfl

@[simp] theorem judgeTransition_tally (m : Option Word) (l : Segment) (n : Nat) (s : State) : (judgeTransition m l n s).state.session.tally = s.session.tally := by
  unfold judgeTransition; (repeat' split) <;> simp

@[simp] theorem ordinaryIssue_tally (m : Option Word) (c : Segment) (s : State) : (ordinaryIssue m c s).state.session.tally = s.session.tally := by
  unfold ordinaryIssue; (repeat' split) <;> simp

@[simp] theorem issueUnder_tally (o : Origin) (c : Segment) (s : State) : (issueUnder o c s).state.session.tally = s.session.tally := by
  unfold issueUnder; (repeat' split) <;> simp

@[simp] theorem attemptIssue_tally (o : Origin) (s : State) : (attemptIssue o s).state.session.tally = s.session.tally := by
  unfold attemptIssue; (repeat' split) <;> simp

@[simp] theorem makeIssues_tally (n : Nat) (s : State) : (makeIssues n s).session.tally = s.session.tally := by
  induction n generalizing s with
  | zero => rfl
  | succ n ih => simp only [makeIssues]; (repeat' split) <;> simp [ih]

@[simp] theorem issueOwed_tally (s : State) : (issueOwed s).session.tally = s.session.tally := by
  unfold issueOwed; simp <;> rfl

@[simp] theorem settleWord_tally (s : State) : (settleWord s).session.tally = s.session.tally := by
  unfold settleWord; simp <;> rfl

@[simp] theorem settle_tally (s : State) : (settle s).session.tally = s.session.tally := by
  unfold settle; simp <;> rfl

@[simp] theorem finish_tally (s : State) : (finish s).session.tally = s.session.tally := by
  unfold finish; simp <;> rfl

end Sys2Proof.Machine
end

