-- ==== Sys2Proof/Laws/Issued.lean ====
section
/-! SUPPORT. What the issues of a step can do, whichever they are: to the run, where `Issued` composes and holds of every attempt, and
to the Plan Cache. -/

namespace Sys2Proof.Machine

theorem Entry.plain_parts {e x : Entry} (h : e.plain = x.plain) :
    e.frame = x.frame ∧ e.triggered = x.triggered ∧ e.armed = x.armed := by
  have h1 := congrArg Entry.frame h
  have h2 := congrArg Entry.triggered h
  have h3 := congrArg Entry.armed h
  exact ⟨h1, h2, h3⟩

theorem plain_discount (e : Entry) : (if e.triggered then { e with discounted := true } else e).plain = e.plain := by
  split <;> rfl

/-! ### Composition -/

theorem Issued.rfl' (a : State) : Issued 0 a a where
  rest _ := rfl
  counters := ⟨rfl, rfl, rfl⟩
  taken := ⟨rfl, rfl, rfl⟩
  held := rfl
  hold := .inl rfl
  nextFrame := by simp
  queue e h := .inl ⟨e, h, rfl⟩
  voids h := ⟨Nat.le_refl _, h⟩
  standing _ _ _ := ⟨rfl, rfl, by simp, fun _ => by simp⟩

theorem Issued.trans {n m : Nat} {a b c : State} (h : Issued n a b) (k : Issued m b c) : Issued (n + m) a c where
  rest r := by
    have hb := h.rest r
    exact (k.rest (by rw [hb]; exact r)).trans hb
  counters := ⟨k.counters.1.trans h.counters.1, k.counters.2.1.trans h.counters.2.1, k.counters.2.2.trans h.counters.2.2⟩
  taken := ⟨k.taken.1.trans h.taken.1, k.taken.2.1.trans h.taken.2.1, k.taken.2.2.trans h.taken.2.2⟩
  held := k.held.trans h.held
  hold := by
    rcases k.hold with kh | kh
    · rcases h.hold with hh | hh
      · exact .inl (kh.trans hh)
      · exact .inr (kh.trans hh)
    · exact .inr kh
  nextFrame := by
    rw [k.nextFrame, h.nextFrame, BitVec.ofNat_add]
    ac_rfl
  queue e he := by
    rcases k.queue e he with ⟨x, hx, hp⟩ | ⟨j, hj, hf, ht, ha⟩
    · have pe := Entry.plain_parts hp
      rcases h.queue x hx with ⟨y, hy, hq⟩ | ⟨i, hi, hf, ht, ha⟩
      · exact .inl ⟨y, hy, hp.trans hq⟩
      · exact .inr ⟨i, by omega, pe.1.trans hf, pe.2.1.trans ht, pe.2.2.trans ha⟩
    · refine .inr ⟨n + j, by omega, ?_, ht, ha⟩
      rw [hf, h.nextFrame, BitVec.ofNat_add]
      ac_rfl
  voids hv := by
    have hb := h.voids hv
    have hc := k.voids hb.2
    exact ⟨Nat.le_trans hb.1 hc.1, hc.2⟩
  standing hv he hr := by
    have hb := h.voids (Nat.le_of_lt hv)
    have hc := k.voids hb.2
    have eb : b.sched.voids = a.sched.voids := by omega
    have ec : c.sched.voids = b.sched.voids := by omega
    have rb : b.sched.runState ≠ .stopped := fun r => hr (by rw [k.rest (by rw [r]; rfl)]; exact r)
    obtain ⟨l1, q1, p1, o1⟩ := h.standing hv eb rb
    obtain ⟨l2, q2, p2, o2⟩ := k.standing (by omega) ec hr
    refine ⟨l2.trans l1, by omega, ?_, fun hcap => ?_⟩
    · have p := congrArg (List.take a.sched.queue.length) p2
      rw [← List.map_take, ← List.map_take, List.take_take, Nat.min_eq_left (by omega)] at p
      exact p.trans p1
    · have hbc : b.sched.runState.capturing = true := by
        cases hx : b.sched.runState.capturing
        · rw [k.rest hx, hx] at hcap; cases hcap
        · rfl
      rw [o2 hcap, o1 hbc, List.drop_drop]

/-- An operation that leaves what `Issued` looks at issues nothing. -/
theorem Issued.of_same {a b : State} (hs : b.sched = a.sched) (hg : b.seg.hold = a.seg.hold ∨ b.seg.hold = 0)
    (hx : b.expo.held = a.expo.held) : Issued 0 a b := by
  have h := Issued.rfl' a
  refine ⟨?_, ?_, ?_, hx, hg, ?_, ?_, ?_, ?_⟩ <;> rw [hs]
  · exact h.rest
  · exact h.counters
  · exact h.taken
  · exact h.nextFrame
  · exact h.queue
  · exact h.voids
  · exact h.standing

/-! ### The steps of an issue -/

/-- The run of an entry's retirement by the operations that make it (R23). -/
theorem retired_eq (e : Entry) (o : FrameOutcome) (s : State) :
    retired e o s =
      { s with
        sched :=
          { s.sched.retireEntry e o with
            owed := if s.sched.runState.capturing then s.sched.owed ++ [.retirement e.frame (o == .metered)] else s.sched.owed }
        seg := { s.seg with hold := holdAfter s.seg.copyRead s.seg.hold e.el e.limit o } } := by
  cases o <;> rfl

/-- What a retirement leaves of the run, whatever its log record does (R23). -/
theorem retire_run (e : Entry) (o : FrameOutcome) (c : Cause) (m : Option (Nat × Int)) (g : Bool) (s : State) :
    (retire e o c m g s).sched = (retired e o s).sched ∧ (retire e o c m g s).seg = (retired e o s).seg ∧
      (retire e o c m g s).expo = s.expo := by
  have hc : (s.sched.retireEntry e o).runState = s.sched.runState := by cases o <;> rfl
  have ho : (s.sched.retireEntry e o).owed = s.sched.owed := by cases o <;> rfl
  rw [retired_eq]
  unfold retire handOver
  dsimp only
  refine ⟨?_, ?_, ?_⟩
  · cases h : s.sched.runState.capturing
    · have : s.sched.retireEntry e o = { s.sched.retireEntry e o with owed := s.sched.owed } := by rw [← ho]
      simpa [hc, h] using this
    · simp [hc, h, ho]
  · simp only [requestStatus_frame]
    split <;> simp
  · simp only [requestStatus_frame]
    split <;> simp

theorem issued_retire_voided (e : Entry) (c : Cause) (m : Option (Nat × Int)) (g : Bool) (s : State) :
    Issued 0 s (retire e .voided c m g s) := by
  obtain ⟨h1, h2, h3⟩ := retire_run e .voided c m g s
  have hg : (retired e .voided s).seg.hold = s.seg.hold := by
    simp only [retired, holdAfter]
    split <;> simp
  refine ⟨?_, ?_, ?_, by rw [h3], by rw [h2, hg]; exact .inl rfl, ?_, ?_, ?_, ?_⟩ <;> rw [h1]
  · exact fun _ => rfl
  · exact ⟨rfl, rfl, rfl⟩
  · exact ⟨rfl, rfl, rfl⟩
  · simp [retired]
  · exact fun x hx => .inl ⟨x, List.mem_of_mem_erase hx, rfl⟩
  · intro hv
    simp only [retired, if_true]
    unfold max32 at *
    omega
  · intro hv hw
    simp only [retired, if_true] at hw
    unfold max32 at *
    omega

theorem issued_beginService (s : State) : Issued 0 s (beginService s) := .of_same (by simp) (by simp) (by simp)

theorem issued_voidEntry (e : Entry) (s : State) : Issued 0 s (voidEntry e s) :=
  (issued_retire_voided e .noCause none false s).trans (.of_same (by simp [voidEntry]) (by simp [voidEntry]) (by simp [voidEntry]))

theorem issued_voidIssued (l : List Entry) (s : State) : Issued 0 s (voidIssued l s) := by
  induction l generalizing s with
  | nil => exact .rfl' s
  | cons e es ih =>
    refine Issued.trans (b := if e.triggered then s else voidEntry e s) ?_ (ih _)
    split
    · exact .rfl' s
    · exact issued_voidEntry e s

theorem issued_returnToStanding (s : State) : Issued 0 s (returnToStanding s) := by
  unfold returnToStanding
  split
  · exact .rfl' s
  · have h := Issued.rfl' s
    exact ⟨by simp, by simp, by simp, by simp, by simp, by simp, fun e he => .inl ⟨e, by simpa using he, rfl⟩, by simp, by simp⟩

theorem issued_discountTriggered (s : State) : Issued 0 s (discountTriggered s) := by
  refine ⟨fun _ => rfl, ⟨rfl, rfl, rfl⟩, ⟨rfl, rfl, rfl⟩, rfl, .inl rfl, by simp [discountTriggered], ?_, ?_, ?_⟩
  · intro e he
    simp only [discountTriggered, State.modSched, List.mem_map] at he
    obtain ⟨x, hx, rfl⟩ := he
    exact .inl ⟨x, hx, plain_discount x⟩
  · exact fun hv => ⟨Nat.le_refl _, hv⟩
  · intro _ _ _
    refine ⟨rfl, by simp [discountTriggered], ?_, fun _ => by simp [discountTriggered]⟩
    simp only [discountTriggered, State.modSched]
    rw [List.take_of_length_le (by simp), List.map_map]
    exact List.map_congr_left fun x _ => plain_discount x

theorem issued_settleQueue (k : Settle) (s : State) : Issued 0 s (settleQueue k s) := by
  unfold settleQueue
  split
  · exact .rfl' s
  · split
    · exact ((issued_voidIssued _ s).trans (issued_returnToStanding _)).trans (issued_discountTriggered _)
    · exact issued_discountTriggered s

theorem issued_enterSegment (n : Nat) (c : Option Segment) (s : State) : Issued 0 s (enterSegment n c s) :=
  .of_same (by simp) (.inr (by simp [enterSegment])) (by simp)

theorem issued_suspend (r : RunState) {s : State} (h : s.sched.runState.capturing = true) : Issued 0 s (suspendNow r s) := by
  have h2 : (suspendNow r s).sched =
      { s.sched with runState := .suspended, resumeState := some r, owed := [], heldCopy := none, startRequest := none } := by
    have hn : s.sched.runState ≠ .suspended := fun x => by (rw [x] at h; cases h)
    simp [suspendNow, setRunState, dropIssues, hn]
  have h3 : (suspendNow r s).seg.hold = s.seg.hold := by
    have hn : s.sched.runState ≠ .suspended := fun x => by (rw [x] at h; cases h)
    simp [suspendNow, setRunState, dropIssues, hn]
  refine ⟨fun k => by (rw [h] at k; cases k), ?_, ?_, by simp, .inl h3, ?_, ?_, ?_, ?_⟩ <;> rw [h2]
  · exact ⟨rfl, rfl, rfl⟩
  · exact ⟨rfl, rfl, rfl⟩
  · simp
  · exact fun e he => .inl ⟨e, he, rfl⟩
  · exact fun hv => ⟨Nat.le_refl _, hv⟩
  · exact fun _ _ _ => ⟨rfl, rfl, by simp, fun k => by cases k⟩

theorem issued_suspendCapturing (r : RunState) (s : State) : Issued 0 s (suspendCapturing r s) := by
  unfold suspendCapturing
  split
  · rename_i h
    exact issued_suspend r h.1
  · exact .rfl' s

theorem issued_deferredSuspend (k : IssueKind) (s : State) : Issued 0 s (deferredSuspend k s) := by
  unfold deferredSuspend
  split
  · split
    · exact issued_suspendCapturing _ s
    · exact .rfl' s
  all_goals exact .rfl' s

theorem issued_appendOrder (e : Entry) (n : Nat) {s : State} (hf : e.frame = s.sched.nextFrame) (ht : e.triggered = false)
    (ha : e.armed = false) : Issued 1 s (appendOrder e n s) := by
  refine ⟨fun _ => rfl, ⟨rfl, rfl, rfl⟩, ⟨rfl, rfl, rfl⟩, rfl, .inl rfl, rfl, ?_, ?_, ?_⟩
  · intro x hx
    simp only [appendOrder, State.modSched, State.modSeg, State.modExpo, List.mem_append, List.mem_singleton] at hx
    rcases hx with hx | rfl
    · exact .inl ⟨x, hx, rfl⟩
    · exact .inr ⟨0, by omega, by simpa using hf, ht, ha⟩
  · exact fun hv => ⟨Nat.le_refl _, hv⟩
  · intro _ _ _
    refine ⟨rfl, by simp [appendOrder], ?_, fun _ => by simp [appendOrder]⟩
    simp [appendOrder]

theorem issued_completeIssue (k : IssueKind) (c : Segment) (s : State) : Issued 1 s (completeIssue k c s) := by
  let t := s.modSeg fun g => { g with bias := c.biasAt g.frames }
  have h0 : Issued 0 s t := .of_same rfl (.inl rfl) rfl
  have h1 : Issued 1 t (appendOrder (newOrder k c t) (issueDue k t c).skips t) := issued_appendOrder _ _ rfl rfl rfl
  have h2 : Issued 0 (appendOrder (newOrder k c t) (issueDue k t c).skips t)
      (beginService (requestStatus (requestOrder (orderContent (newOrder k c t) false)
        (appendOrder (newOrder k c t) (issueDue k t c).skips t)))) := .of_same (by simp) (by simp) (by simp)
  exact ((h0.trans h1).trans h2).trans (issued_deferredSuspend k _)

theorem issued_setRunState {r : RunState} {s : State} (h : s.sched.runState.capturing = true) (k : r.capturing = true) :
    Issued 0 s (setRunState r s) := by
  unfold setRunState
  split
  · exact .rfl' s
  · exact ⟨fun x => by (rw [h] at x; cases x), by simp, by simp, by simp, by simp, by simp,
      fun e he => .inl ⟨e, by simpa using he, rfl⟩, by simp, by simp [k]⟩

theorem issued_judgeRun (s : State) : Issued 0 s (judgeRun s) := by
  unfold judgeRun
  split
  · rename_i h
    split
    · exact issued_setRunState (by rw [h]; rfl) rfl
    · exact .rfl' s
  · split
    · rename_i h
      split
      · exact .rfl' s
      · exact issued_setRunState (by rw [h]; rfl) rfl
    · exact .rfl' s

/-! ### Attempts -/

theorem abandonAll_run (l : List Entry) (s : State) :
    let t := abandonAll l s
    t.sched.triggers = s.sched.triggers ∧ t.sched.misses = s.sched.misses ∧ t.sched.unmetered = s.sched.unmetered ∧
    t.sched.voids = s.sched.voids ∧ t.sched.depth = s.sched.depth ∧ t.sched.dailyFrom = s.sched.dailyFrom ∧
    t.sched.dailyTo = s.sched.dailyTo ∧ t.sched.nextFrame = s.sched.nextFrame ∧ t.expo = s.expo ∧
    t.seg.hold = s.seg.hold ∧ ∀ e ∈ t.sched.queue, e ∈ s.sched.queue := by
  induction l generalizing s with
  | nil => simp [abandonAll]
  | cons e es ih =>
    obtain ⟨i1, i2, i3, i4, i5, i6, i7, i8, i9, i10, i11⟩ := ih (retireNow e .abandoned .noCause none false s)
    obtain ⟨h1, h2, h3⟩ := retire_run e .abandoned .noCause none false s
    have j1 : (retireNow e .abandoned .noCause none false s).sched = (retired e .abandoned s).sched := by
      rw [← h1]; simp [retireNow]
    have j2 : (retireNow e .abandoned .noCause none false s).seg = (retired e .abandoned s).seg := by
      rw [← h2]; simp [retireNow]
    have j3 : (retireNow e .abandoned .noCause none false s).expo = s.expo := by
      rw [← h3]; simp [retireNow]
    have hg : (retired e .abandoned s).seg.hold = s.seg.hold := by
      simp only [retired, holdAfter]
      split <;> simp
    rw [j1] at i1 i2 i3 i4 i5 i6 i7 i8 i11
    rw [j2] at i10
    simp only [abandonAll]
    exact ⟨i1, i2, i3, i4, i5, i6, i7, i8, i9.trans j3, i10.trans hg, fun x hx => List.mem_of_mem_erase (i11 x hx)⟩

theorem issued_endOfPlan {s : State} (h : s.sched.runState.capturing = true) : Issued 0 s (endOfPlan s) := by
  obtain ⟨i1, i2, i3, i4, i5, i6, i7, i8, i9, i10, i11⟩ := abandonAll_run s.sched.queue s
  refine ⟨fun x => by (rw [h] at x; cases x), ?_, ?_, ?_, ?_, ?_, ?_, ?_, ?_⟩ <;>
    simp only [endOfPlan, setRun, dropIssues, requestStatus_frame, State.modSched, State.modSeg, State.modStats]
  · exact ⟨i1, i2, i3⟩
  · exact ⟨i5, i6, i7⟩
  · rw [i9]
  · exact .inl i10
  · simp [i8]
  · exact fun e he => .inl ⟨e, i11 e he, rfl⟩
  · rw [i4]; exact fun hv => ⟨Nat.le_refl _, hv⟩
  · exact fun _ _ hr => absurd rfl hr

theorem issued_takeTransition (m : Option Word) (l : Segment) (n : Nat) (c : Segment) (s : State) :
    Issued 1 s (takeTransition m l n c s) :=
  ((issued_settleQueue l.settle s).trans (issued_enterSegment n (some c) _)).trans (issued_completeIssue _ c _)

theorem issued_continueFaultHold (c : Segment) {s : State} (h : s.sched.runState.capturing = true) :
    Issued 1 s (continueFaultHold c s) := by
  have h0 : Issued 0 s (s.modSeg fun g => { g with decided := none }) := .of_same rfl (.inl rfl) rfl
  exact (h0.trans (issued_setRunState (by exact h) rfl)).trans (issued_completeIssue .faultHold c _)

theorem issued_judgeTransition (m : Option Word) (l : Segment) (n : Nat) {s : State}
    (h : s.sched.runState.capturing = true) : ∃ k, Issued k s (judgeTransition m l n s).state := by
  have hw : Issued 0 s ((s.modSched fun q => { q with heldCopy := some l }).modSeg fun g => { g with decided := some n }) := by
    refine ⟨fun _ => rfl, ⟨rfl, rfl, rfl⟩, ⟨rfl, rfl, rfl⟩, rfl, .inl rfl, by simp, fun e he => .inl ⟨e, he, rfl⟩,
      fun hv => ⟨Nat.le_refl _, hv⟩, fun _ _ _ => ⟨rfl, rfl, by simp, fun _ => rfl⟩⟩
  unfold judgeTransition
  dsimp only
  split
  · exact ⟨0, hw.trans (.of_same (by simp) (by simp) (by simp))⟩
  · split
    · exact ⟨1, issued_takeTransition m l n _ s⟩
    · exact ⟨0, hw⟩
    · exact ⟨1, issued_continueFaultHold l h⟩
    · exact ⟨0, hw⟩
    · exact ⟨0, hw⟩
    · exact ⟨0, hw⟩

theorem issued_ordinaryIssue (m : Option Word) (c : Segment) {s : State} (h : s.sched.runState.capturing = true) :
    ∃ k, Issued k s (ordinaryIssue m c s).state := by
  unfold ordinaryIssue
  split
  · split
    · exact ⟨0, issued_endOfPlan h⟩
    · exact issued_judgeTransition m c _ h
  · exact ⟨1, issued_completeIssue (.ordinary m false) c s⟩

theorem issued_issueUnder (o : Origin) (c : Segment) {s : State} (h : s.sched.runState.capturing = true) :
    ∃ k, Issued k s (issueUnder o c s).state := by
  unfold issueUnder
  split
  · exact ⟨1, issued_completeIssue (.start _) c s⟩
  · exact ⟨1, issued_completeIssue (if s.sched.runState = .faultHold then .faultHold else .resumption) c s⟩
  · split
    · exact ⟨1, issued_completeIssue .faultHold c s⟩
    · exact issued_ordinaryIssue none c h
  · split
    · exact ⟨1, issued_completeIssue .faultHold c s⟩
    · exact issued_ordinaryIssue _ c h

theorem issued_attemptIssue (o : Origin) {s : State} (h : s.sched.runState.capturing = true) :
    ∃ k, Issued k s (attemptIssue o s).state := by
  unfold attemptIssue
  split
  · split
    · exact ⟨1, issued_continueFaultHold _ h⟩
    · exact issued_judgeTransition _ _ _ h
  · split
    · exact ⟨0, .rfl' s⟩
    · rename_i c _
      have h0 : Issued 0 s (s.modSeg fun g => { g with copyRead := some c }) := .of_same rfl (.inl rfl) rfl
      obtain ⟨k, hk⟩ := issued_issueUnder o c (s := s.modSeg fun g => { g with copyRead := some c }) h
      exact ⟨0 + k, h0.trans hk⟩

theorem issued_makeIssues (n : Nat) (s : State) : ∃ k, Issued k s (makeIssues n s) := by
  induction n generalizing s with
  | zero => exact ⟨0, .rfl' s⟩
  | succ n ih =>
    have h0 := issued_judgeRun s
    simp only [makeIssues]
    split
    · rename_i hc
      split
      · exact ⟨0, h0⟩
      · rename_i o _ _
        obtain ⟨k, hk⟩ := issued_attemptIssue o hc
        split
        · obtain ⟨j, hj⟩ := ih (attemptIssue o (judgeRun s)).state
          exact ⟨_, (h0.trans hk).trans hj⟩
        · exact ⟨_, h0.trans hk⟩
    · exact ⟨0, h0⟩

/-- What follows a step's own effect does to the run: it issues a number of orders. -/
theorem finish_issued (s : State) : ∃ k, Issued k s (finish s) := by
  obtain ⟨k, hk⟩ := issued_makeIssues (issueFuel s) s
  exact ⟨_, (hk.trans (issued_judgeRun _)).trans
    (.of_same (by simp [finish, settle, issueOwed]) (by simp [finish, settle, issueOwed]) (by simp [finish, settle, issueOwed]))⟩

/-! ### The Plan Cache -/

/-- What issues do to the Plan Cache: entries move, one may be created or replaced, all else stands (R45, R46, R52). -/
structure CacheIssued (a b : State) : Prop where
  fields  : b.cache.fault = a.cache.fault ∧ b.cache.loaded = a.cache.loaded ∧ b.cache.fetch = a.cache.fetch
  entries : ∀ x ∈ b.cache.entries, x ∈ a.cache.entries ∨ x = newEntry x.slot

theorem CacheIssued.of_same {a b : State} (h : b.cache = a.cache) : CacheIssued a b := by
  refine ⟨?_, ?_⟩ <;> rw [h]
  · exact ⟨rfl, rfl, rfl⟩
  · exact fun x hx => .inl hx

theorem CacheIssued.trans {a b c : State} (h : CacheIssued a b) (k : CacheIssued b c) : CacheIssued a c :=
  ⟨⟨k.fields.1.trans h.fields.1, k.fields.2.1.trans h.fields.2.1, k.fields.2.2.trans h.fields.2.2⟩,
   fun x hx => (k.entries x hx).elim (h.entries x) .inr⟩

theorem cacheIssued_enterSegment (n : Nat) (c : Option Segment) (s : State) : CacheIssued s (enterSegment n c s) := by
  refine ⟨⟨rfl, rfl, rfl⟩, fun x hx => .inl ?_⟩
  simp only [enterSegment, State.modCache, State.modSeg, PlanCache.touch, List.mem_append, List.mem_filter] at hx
  exact hx.elim And.left And.left

theorem cacheIssued_makeRoom (s : State) : CacheIssued s (makeRoom s) := by
  unfold makeRoom
  split
  · exact .of_same rfl
  · split
    · exact .of_same rfl
    · exact ⟨⟨rfl, rfl, rfl⟩, fun x hx => .inl (List.mem_filter.mp hx).1⟩

theorem cacheIssued_lazyCreate (n : Nat) (s : State) : CacheIssued s (lazyCreate n s) := by
  refine (cacheIssued_makeRoom s).trans ⟨⟨rfl, rfl, rfl⟩, fun x hx => ?_⟩
  rcases List.mem_append.mp hx with h | h
  · exact .inl h
  · rw [List.mem_singleton.mp h]
    exact .inr rfl

theorem cacheIssued_takeTransition (m : Option Word) (l : Segment) (n : Nat) (c : Segment) (s : State) :
    CacheIssued s (takeTransition m l n c s) :=
  ((CacheIssued.of_same (b := settleQueue l.settle s) (by simp)).trans (cacheIssued_enterSegment n (some c) _)).trans
    (.of_same (by simp [takeTransition]))

theorem cacheIssued_judgeTransition (m : Option Word) (l : Segment) (n : Nat) (s : State) :
    CacheIssued s (judgeTransition m l n s).state := by
  unfold judgeTransition
  dsimp only
  split
  · have h0 := cacheIssued_lazyCreate n
      ((s.modSched fun q => { q with heldCopy := some l }).modSeg fun g => { g with decided := some n })
    exact ⟨h0.fields, h0.entries⟩
  · split
    · exact cacheIssued_takeTransition m l n _ s
    all_goals exact .of_same (by simp)

theorem cacheIssued_ordinaryIssue (m : Option Word) (c : Segment) (s : State) :
    CacheIssued s (ordinaryIssue m c s).state := by
  unfold ordinaryIssue
  split
  · split
    · exact .of_same (by simp)
    · exact cacheIssued_judgeTransition m c _ s
  · exact .of_same (by simp)

theorem cacheIssued_attemptIssue (o : Origin) (s : State) : CacheIssued s (attemptIssue o s).state := by
  unfold attemptIssue
  split
  · split
    · exact .of_same (by simp)
    · exact cacheIssued_judgeTransition _ _ _ s
  · split
    · exact .of_same rfl
    · rename_i c _
      have h0 : CacheIssued s (s.modSeg fun g => { g with copyRead := some c }) := .of_same rfl
      refine h0.trans ?_
      unfold issueUnder
      (repeat' split) <;> first | exact cacheIssued_ordinaryIssue _ c _ | exact .of_same (by simp)

theorem cacheIssued_makeIssues (n : Nat) (s : State) : CacheIssued s (makeIssues n s) := by
  induction n generalizing s with
  | zero => exact .of_same rfl
  | succ n ih =>
    refine (CacheIssued.of_same (b := judgeRun s) (by simp)).trans ?_
    simp only [makeIssues]
    split
    · split
      · exact .of_same rfl
      · split
        · exact (cacheIssued_attemptIssue _ _).trans (ih _)
        · exact cacheIssued_attemptIssue _ _
    · exact .of_same rfl

/-- A fetch requested: PLAN_FAULT and the loaded plan stand, and no entry but that of the slot is touched (R39). -/
theorem requestFetch_cache (n : Nat) (s : State) :
    (requestFetch n s).cache.fault = s.cache.fault ∧ (requestFetch n s).cache.loaded = s.cache.loaded ∧
    (requestFetch n s).cache.fetch = some { slot := n, orphan := false } ∧
    ∀ x ∈ (requestFetch n s).cache.entries, x ∈ s.cache.entries ∨ x.slot = n := by
  refine ⟨rfl, rfl, rfl, fun x hx => ?_⟩
  simp only [requestFetch, State.modCache, State.modEngine, PlanCache.update, List.mem_map] at hx
  obtain ⟨y, hy, rfl⟩ := hx
  split
  · rename_i h
    exact .inr h
  · exact .inl hy

theorem cacheSettle_cache (s : State) :
    (cacheSettle s).cache.fault = s.cache.fault ∧ (cacheSettle s).cache.loaded = s.cache.loaded ∧
    ∀ x ∈ (cacheSettle s).cache.entries, x ∈ s.cache.entries ∨
      (s.cache.fetch = none ∧ (cacheSettle s).cache.fetch = some { slot := x.slot, orphan := false }) := by
  unfold cacheSettle
  split
  · exact ⟨rfl, rfl, fun x hx => .inl hx⟩
  · rename_i hf
    have hf : s.cache.fetch = none := by simpa using hf
    split
    · split
      · exact ⟨rfl, rfl, fun x hx => .inl hx⟩
      · rename_i w _ _
        obtain ⟨h1, h2, h3, h4⟩ := requestFetch_cache w.entrySlot
          ((s.modCache fun c => { c with walk := some { w with started := true } }).modCache fun c =>
            { c with entries := c.entries ++ [newEntry w.entrySlot] })
        refine ⟨h1, h2, fun x hx => ?_⟩
        rcases h4 x hx with h | h
        · rcases List.mem_append.mp h with h | h
          · exact .inl h
          · rw [List.mem_singleton.mp h]
            exact .inr ⟨hf, h3⟩
        · exact .inr ⟨hf, by rw [h]; exact h3⟩
    · split
      · exact ⟨rfl, rfl, fun x hx => .inl hx⟩
      · rename_i n _
        obtain ⟨h1, h2, h3, h4⟩ := requestFetch_cache n s
        exact ⟨h1, h2, fun x hx => (h4 x hx).imp id fun h => ⟨hf, by rw [h]; exact h3⟩⟩

end Sys2Proof.Machine
end

