-- ==== Sys2Proof/Laws/Finish.lean ====
section
/-! SUPPORT. What `finish`, the consequences of a step, leaves alone, and under which conditions. -/

namespace Sys2Proof.Machine

/-! ### The parts it never changes -/

theorem Fixed.rfl' (a : State) : Fixed a a := ⟨rfl, rfl, rfl, rfl, rfl, rfl, rfl, rfl, rfl, rfl, rfl, rfl⟩

theorem Fixed.trans {a b c : State} (h : Fixed a b) (k : Fixed b c) : Fixed a c :=
  ⟨k.board.trans h.board, k.tb.trans h.tb, k.supply.trans h.supply, k.shown.trans h.shown, k.kept.trans h.kept, k.tally.trans h.tally, k.table.trans h.table,
   k.cmd.trans h.cmd, k.config.trans h.config, k.ram.trans h.ram, k.freeCount.trans h.freeCount,
   k.pending.trans h.pending⟩

theorem finish_fixed (s : State) : Fixed s (finish s) := by constructor <;> simp

/-! ### The run -/

theorem judgeRun_of_noIssue {s : State} (h : NoIssue s) : judgeRun s = s := by
  obtain ⟨-, h1, h2⟩ := h
  unfold judgeRun
  split
  · rename_i hr; simp [h1 hr]
  · split
    · rename_i hr; simp [h2 hr]
    · rfl

theorem attemptIssue_waits {o : Origin} {s : State} (hd : s.sched.heldCopy = none ∨ s.seg.decided = none)
    (hr : readableCopy s.cache s.seg.current = none) : attemptIssue o s = { state := s, made := false } := by
  unfold attemptIssue
  split
  · rename_i x y
    rcases hd with hd | hd
    · rw [hd] at x; cases x
    · rw [hd] at y; cases y
  · rw [hr]

theorem makeIssues_of_noIssue (n : Nat) {s : State} (h : NoIssue s) : makeIssues n s = s := by
  cases n with
  | zero => rfl
  | succ n =>
    simp only [makeIssues, judgeRun_of_noIssue h]
    split
    · rcases h.1 with h0 | ⟨hd, hr⟩
      · simp [h0]
      · split
        · rfl
        · simp [attemptIssue_waits hd hr]
    · rfl

theorem issueOwed_of_noIssue {s : State} (h : NoIssue s) : issueOwed s = s := makeIssues_of_noIssue _ h

theorem finish_of_noIssue {s : State} (h : NoIssue s) :
    finish s = portSettle (beginService (judgeWakes (cacheSettle (freeBuffer s)))) := by
  simp only [finish, settle, issueOwed_of_noIssue h, judgeRun_of_noIssue h]

theorem finish_sameRun {s : State} (h : NoIssue s) : SameRun s (finish s) := by
  rw [finish_of_noIssue h]; constructor <;> simp

/-- The state of a run that is not capturing stands whatever the cache holds (R44). -/
theorem judgeRun_of_idle {s : State} (h : s.sched.runState.capturing = false) : judgeRun s = s := by
  unfold judgeRun
  cases hs : s.sched.runState <;> simp_all [RunState.capturing]

theorem makeIssues_of_idle (n : Nat) {s : State} (h : s.sched.runState.capturing = false) : makeIssues n s = s := by
  cases n with
  | zero => rfl
  | succ n => simp [makeIssues, judgeRun_of_idle h, h]

theorem issueOwed_of_idle {s : State} (h : s.sched.runState.capturing = false) : issueOwed s = s := makeIssues_of_idle _ h

/-- A run that is not capturing issues nothing and is judged to be what it is. -/
theorem finish_of_idle {s : State} (h : s.sched.runState.capturing = false) :
    finish s = portSettle (beginService (judgeWakes (cacheSettle (freeBuffer s)))) := by
  simp only [finish, settle, issueOwed_of_idle h, judgeRun_of_idle h]

theorem finish_sameRun_of_idle {s : State} (h : s.sched.runState.capturing = false) : SameRun s (finish s) := by
  rw [finish_of_idle h]; constructor <;> simp

/-! ### The session -/

theorem asleep_of_course {x y : Session} (h : y.course = x.course) : y.asleep = x.asleep := by
  have : y.course.state = x.course.state := congrArg Session.state h
  have : y.state = x.state := this
  simp [Session.asleep, this]

theorem SameSession.rfl' (a : State) : SameSession a a := ⟨rfl, rfl⟩

theorem SameSession.trans {a b c : State} (h : SameSession a b) (k : SameSession b c) : SameSession a c :=
  ⟨k.course.trans h.course, k.pins.trans h.pins⟩

theorem AlertsOff.congr {a b : State} (h : AlertsOff a) (hs : b.session.holdoff = a.session.holdoff)
    (hc : b.config = a.config) : AlertsOff b := by
  unfold AlertsOff at *
  rw [hs, hc]
  exact h

theorem holdoff_of_course {x y : Session} (h : y.course = x.course) : y.holdoff = x.holdoff := by
  have k : y.course.holdoff = x.course.holdoff := congrArg Session.holdoff h
  exact k

theorem forced_of_course {x y : Session} (h : y.course = x.course) : y.forcedRecovery = x.forcedRecovery := by
  have k : y.course.forcedRecovery = x.course.forcedRecovery := congrArg Session.forcedRecovery h
  exact k

theorem Calm.congr {a b : State} (h : Calm a) (hs : b.session.course = a.session.course)
    (hc : b.config = a.config ∧ b.supply = a.supply ∧ b.tb = a.tb) : Calm b := by
  unfold Calm at *
  rw [asleep_of_course hs, hc.2.1]
  exact h.imp id (Or.imp id fun k => k.congr (holdoff_of_course hs) hc.1)

theorem Undisturbed.same {a b : State} (h : Undisturbed a b) (hc : Calm a) : SameSession a b :=
  h.resolve_right fun k => k.1 hc

/-- A session whose state is WAKING is not asleep. -/
theorem awake_of_waking {x : Session} (h : x.state = .waking) : x.asleep = false := by simp [Session.asleep, h]

theorem Undisturbed.trans {a b c : State} (h : Undisturbed a b)
    (hc : b.config = a.config ∧ b.supply = a.supply ∧ b.tb = a.tb) (k : Undisturbed b c) : Undisturbed a c := by
  rcases h with h | ⟨hn, p, hp⟩
  · rcases k with k | ⟨kn, q, kq⟩
    · exact .inl (h.trans k)
    · refine .inr ⟨fun ha => kn (ha.congr h.course hc), q, ?_⟩
      rw [kq, h.course, forced_of_course h.course, hc.1, hc.2.2]
  · have hw : b.session.state = .waking := congrArg Session.state hp
    exact .inr ⟨hn, p, (k.same (.inl (awake_of_waking hw))).course.trans hp⟩

theorem Undisturbed.of_eq {a b : State} (h : b.session = a.session) (k : b.pins = a.pins) : Undisturbed a b :=
  .inl ⟨by rw [h], k⟩

theorem Undisturbed.after {a b c : State} (h : Undisturbed a b) (hs : c.session = b.session) (hp : c.pins = b.pins) :
    Undisturbed a c := by
  rcases h with h | ⟨hn, p, q⟩
  · exact .inl ⟨by rw [hs]; exact h.course, hp.trans h.pins⟩
  · exact .inr ⟨hn, p, by rw [hs]; exact q⟩

theorem Undisturbed.before {a b c : State} (hs : b.session = a.session) (hp : b.pins = a.pins)
    (hc : b.config = a.config ∧ b.supply = a.supply ∧ b.tb = a.tb) (h : Undisturbed b c) : Undisturbed a c :=
  (Undisturbed.of_eq hs hp).trans hc h

theorem Undisturbed.congr {a b x y : State} (h : Undisturbed a b)
    (e : x.session = a.session ∧ x.pins = a.pins ∧ x.config = a.config ∧ x.supply = a.supply ∧ x.tb = a.tb)
    (f : y.session = b.session ∧ y.pins = b.pins) : Undisturbed x y :=
  (Undisturbed.before e.1.symm e.2.1.symm ⟨e.2.2.1.symm, e.2.2.2.1.symm, e.2.2.2.2.symm⟩ h).after f.1 f.2

/-- What a wake leaves of the session (R111, R112). -/
theorem beginWake_course (cause : WakeCause) (late : Bool) (s : State) :
    (beginWake cause late s).session.course =
      { s.session.course with
        state := .waking, cause := if s.session.forcedRecovery then .forcedRecovery else cause, late := late
        phase := (beginWake cause late s).session.phase } := by
  have h : ∀ x : State, (askPortForWake x).session = { x.session with phase := (askPortForWake x).session.phase } := by
    intro x
    unfold askPortForWake wakeControllerLines
    (repeat' split) <;> simp
  simp only [beginWake, requestStatus_frame]
  rw [h]
  rfl

theorem beginAlertWake_course (s : State) :
    (beginAlertWake s).session.course =
      { s.session.course with
        state := .waking, cause := if s.session.forcedRecovery then .forcedRecovery else .alert, late := false
        holdoff := some (s.tb.elapsed + BitVec.ofNat 48 (s.config.settings.alertHoldoff * 1024))
        phase := (beginAlertWake s).session.phase } := by
  unfold beginAlertWake
  rw [beginWake_course]
  rfl

theorem raiseEvent_undisturbed (k : EventClass) (s : State) : Undisturbed s (raiseEvent k s) := by
  have hc : (countEvent k s).session.course = s.session.course := rfl
  let t := requestStatus (keepMark k (countEvent k s))
  have ht : t.session = (countEvent k s).session := by simp [t]
  have hp : t.pins = s.pins := by simp [t]
  have same : Undisturbed s t := .inl ⟨by rw [ht, hc], hp⟩
  have ha : t.session.asleep = s.session.asleep := by rw [ht]; exact asleep_of_course hc
  unfold raiseEvent
  dsimp only
  change Undisturbed s (if t.config.settings.alerts k = true then _ else t)
  split
  · rename_i hk
    split
    · rename_i hw
      unfold judgeAlert
      split
      · rename_i hj
        have hx : t.session.holdoff = s.session.holdoff := by rw [ht]; exact holdoff_of_course hc
        have hf : t.session.forcedRecovery = s.session.forcedRecovery := by rw [ht]; exact forced_of_course hc
        have e1 : t.supply = s.supply := by simp [t]
        have e2 : t.config = s.config := by simp [t]
        have e3 : t.tb = s.tb := by simp [t]
        refine .inr ⟨?_, (beginAlertWake t).session.phase, ?_⟩
        · rintro (h | h | h | h)
          · rw [← ha, hw] at h; cases h
          · exact hj.2.1 (by rw [e1]; exact h)
          · exact h (hx ▸ hj.2.2)
          · have := h k
            rw [← e2, hk] at this
            cases this
        · rw [beginAlertWake_course, ← hc, ← ht, hf, e2, e3]
      · exact same
    · split
      · exact .inl ⟨by rw [← hc, ← ht]; rfl, hp⟩
      · exact same
  · exact same

theorem loseLog_undisturbed (s : State) : Undisturbed s (loseLog s) := by
  have h := raiseEvent_undisturbed .logLost (s.modEngine fun e => { e with lost := saturatingAdd max32 e.lost 1 })
  exact .before (by simp) (by simp) (by simp) (h.after (by simp [loseLog]) (by simp [loseLog]))

theorem requestLog_undisturbed (l : LogContent) (s : State) : Undisturbed s (requestLog l s) := by
  unfold requestLog
  split
  · exact .of_eq (by simp) (by simp)
  · exact loseLog_undisturbed s

theorem retire_undisturbed (e : Entry) (o : FrameOutcome) (c : Cause) (m : Option (Nat × Int)) (g : Bool) (s : State) :
    Undisturbed s (retire e o c m g s) := by
  have h := requestLog_undisturbed (logContent (s.modSched fun q => q.retireEntry e o) e o c m g)
    (s.modSched fun q => q.retireEntry e o)
  exact .before (by simp) (by simp) (by simp) (h.after (by simp [retire]) (by simp [retire]))

theorem serveLog_undisturbed (l : LogContent) (s : State) : Undisturbed s (serveLog l s) := by
  unfold serveLog
  split
  · exact loseLog_undisturbed s
  · split
    · exact loseLog_undisturbed s
    · exact .of_eq (by simp) (by simp)

theorem beginRequest_undisturbed (r : Request) (s : State) : Undisturbed s (beginRequest r s) := by
  unfold beginRequest
  split
  · exact .of_eq (by simp) (by simp)
  · exact .of_eq (by simp) (by simp)
  · exact serveLog_undisturbed _ s
  · exact .of_eq (by simp) (by simp)
  · exact .of_eq (by simp) (by simp)

theorem beginOnce_undisturbed (s : State) : Undisturbed s (beginOnce s) := by
  unfold beginOnce
  split
  · exact .of_eq rfl rfl
  · split
    · exact .of_eq rfl rfl
    · exact .before (by simp) (by simp) (by simp) (beginRequest_undisturbed _ (s.modEngine _))

theorem beginService_undisturbed (s : State) : Undisturbed s (beginService s) :=
  (beginOnce_undisturbed s).trans (by simp) (beginOnce_undisturbed _)

theorem retireNow_undisturbed (e : Entry) (o : FrameOutcome) (c : Cause) (m : Option (Nat × Int)) (g : Bool) (s : State) :
    Undisturbed s (retireNow e o c m g s) :=
  (retire_undisturbed e o c m g s).trans (by simp) (beginService_undisturbed _)

theorem completeIssue_undisturbed (k : IssueKind) (c : Segment) (s : State) : Undisturbed s (completeIssue k c s) := by
  unfold completeIssue
  dsimp only
  refine Undisturbed.after (b := beginService _) (.before ?_ ?_ ?_ (beginService_undisturbed _)) (deferredSuspend_frame _ _).2.2.2.1
    (deferredSuspend_frame _ _).1 <;> simp

theorem abandonAll_undisturbed (l : List Entry) (s : State) : Undisturbed s (abandonAll l s) := by
  induction l generalizing s with
  | nil => exact .of_eq rfl rfl
  | cons e es ih => exact (retireNow_undisturbed e _ _ _ _ s).trans (by simp) (ih _)

theorem endOfPlan_undisturbed (s : State) : Undisturbed s (endOfPlan s) :=
  (abandonAll_undisturbed s.sched.queue s).after (by simp [endOfPlan]) (by simp [endOfPlan])

theorem voidEntry_undisturbed (e : Entry) (s : State) : Undisturbed s (voidEntry e s) := by
  unfold voidEntry
  exact (retire_undisturbed e .voided .noCause none false s).trans (by simp)
    (.before (by simp) (by simp) (by simp)
      (beginService_undisturbed (requestOrder (orderContent e true) (retire e .voided .noCause none false s))))

theorem voidIssued_undisturbed (l : List Entry) (s : State) : Undisturbed s (voidIssued l s) := by
  induction l generalizing s with
  | nil => exact .of_eq rfl rfl
  | cons e es ih =>
    refine Undisturbed.trans (b := if e.triggered then s else voidEntry e s) ?_ ?_ (ih _)
    · split
      · exact .of_eq rfl rfl
      · exact voidEntry_undisturbed e s
    · split <;> simp

theorem settleQueue_undisturbed (k : Settle) (s : State) : Undisturbed s (settleQueue k s) := by
  unfold settleQueue
  split
  · exact .of_eq rfl rfl
  · split
    · exact (voidIssued_undisturbed s.sched.queue s).after (by simp) (by simp)
    · exact .of_eq (by simp) (by simp)

theorem takeTransition_undisturbed (m : Option Word) (l : Segment) (n : Nat) (c : Segment) (s : State) :
    Undisturbed s (takeTransition m l n c s) := by
  unfold takeTransition
  exact (settleQueue_undisturbed l.settle s).trans (by simp)
    (.before (by simp) (by simp) (by simp)
      (completeIssue_undisturbed _ _ (enterSegment n (some c) (settleQueue l.settle s))))

theorem continueFaultHold_undisturbed (c : Segment) (s : State) : Undisturbed s (continueFaultHold c s) :=
  .before (b := setRunState .faultHold (s.modSeg fun g => { g with decided := none })) (by simp) (by simp) (by simp)
    (completeIssue_undisturbed _ _ _)

theorem judgeTransition_undisturbed (m : Option Word) (l : Segment) (n : Nat) (s : State) :
    Undisturbed s (judgeTransition m l n s).state := by
  unfold judgeTransition
  dsimp only
  split
  · exact .of_eq (by simp) (by simp)
  · split
    · exact takeTransition_undisturbed _ _ _ _ s
    · exact .of_eq rfl rfl
    · exact continueFaultHold_undisturbed _ s
    · exact .of_eq rfl rfl
    · exact .of_eq rfl rfl
    · exact .of_eq rfl rfl

theorem ordinaryIssue_undisturbed (m : Option Word) (c : Segment) (s : State) :
    Undisturbed s (ordinaryIssue m c s).state := by
  unfold ordinaryIssue
  split
  · split
    · exact endOfPlan_undisturbed s
    · exact judgeTransition_undisturbed _ _ _ s
  · exact completeIssue_undisturbed (.ordinary m false) c s

theorem issueUnder_undisturbed (o : Origin) (c : Segment) (s : State) : Undisturbed s (issueUnder o c s).state := by
  unfold issueUnder
  split
  · exact completeIssue_undisturbed (.start _) c s
  · exact completeIssue_undisturbed (if s.sched.runState = .faultHold then .faultHold else .resumption) c s
  · split
    · exact completeIssue_undisturbed .faultHold c s
    · exact ordinaryIssue_undisturbed none c s
  · split
    · exact completeIssue_undisturbed .faultHold c s
    · exact ordinaryIssue_undisturbed _ c s

theorem attemptIssue_undisturbed (o : Origin) (s : State) : Undisturbed s (attemptIssue o s).state := by
  unfold attemptIssue
  split
  · split
    · exact continueFaultHold_undisturbed _ s
    · exact judgeTransition_undisturbed _ _ _ s
  · split
    · exact .of_eq rfl rfl
    · rename_i c _
      exact .before (b := s.modSeg fun g => { g with copyRead := some c }) rfl rfl ⟨rfl, rfl, rfl⟩ (issueUnder_undisturbed o c _)

theorem makeIssues_undisturbed (n : Nat) (s : State) : Undisturbed s (makeIssues n s) := by
  induction n generalizing s with
  | zero => exact .of_eq rfl rfl
  | succ n ih =>
    refine .before (b := judgeRun s) (by simp) (by simp) (by simp) ?_
    simp only [makeIssues]
    split
    · split
      · exact .of_eq rfl rfl
      · split
        · exact (attemptIssue_undisturbed _ _).trans (by simp) (ih _)
        · exact attemptIssue_undisturbed _ _
    · exact .of_eq rfl rfl

theorem issueOwed_undisturbed (s : State) : Undisturbed s (issueOwed s) := makeIssues_undisturbed _ s

theorem judgeWakes_of_awake {s : State} (h : s.session.asleep = false) : judgeWakes s = s := by
  simp [judgeWakes, judgeIdle, judgeScheduled, h]

/-- In an awake session nothing that follows a command's effect changes the session but for event counts and pending marks. -/
theorem finish_awake {s : State} (h : s.session.asleep = false) : SameSession s (finish s) := by
  have h1 : SameSession s (issueOwed s) := (issueOwed_undisturbed s).same (.inl h)
  have h2 : SameSession s (cacheSettle (freeBuffer (judgeRun (issueOwed s)))) :=
    ⟨by simpa using h1.course, by simpa using h1.pins⟩
  have ha : (cacheSettle (freeBuffer (judgeRun (issueOwed s)))).session.asleep = false :=
    (asleep_of_course h2.course).trans h
  have h3 : SameSession _ (beginService (cacheSettle (freeBuffer (judgeRun (issueOwed s))))) :=
    (beginService_undisturbed _).same (.inl ha)
  have h4 := h2.trans h3
  simp only [finish, settle, judgeWakes_of_awake ha]
  exact ⟨by simpa using h4.course, by simpa using h4.pins⟩

theorem judgeWakes_of_unreached {s : State} (h : scheduledReached s = false) (k : idleReached s = false) :
    judgeWakes s = s := by
  simp [judgeWakes, judgeIdle, judgeScheduled, h, k]

theorem beginWake_sleepTime (c : WakeCause) (l : Bool) (s : State) :
    (beginWake c l s).session.sleepTime = s.session.sleepTime := by
  unfold beginWake askPortForWake wakeControllerLines
  (repeat' split) <;> simp

theorem judgeWakes_sleepTime (s : State) : (judgeWakes s).session.sleepTime = s.session.sleepTime := by
  unfold judgeWakes judgeIdle judgeScheduled
  (repeat' split) <;> simp [beginWake_sleepTime]

theorem beginWake_holdoff (c : WakeCause) (l : Bool) (s : State) :
    (beginWake c l s).session.holdoff = s.session.holdoff := by
  have h := congrArg Session.holdoff (beginWake_course c l s)
  exact h

theorem judgeWakes_holdoff (s : State) : (judgeWakes s).session.holdoff = s.session.holdoff := by
  unfold judgeWakes judgeIdle judgeScheduled
  (repeat' split) <;> simp [beginWake_holdoff]

theorem sleepTime_of_course {x y : Session} (h : y.course = x.course) : y.sleepTime = x.sleepTime := by
  have k : y.course.sleepTime = x.course.sleepTime := congrArg Session.sleepTime h
  exact k

/-- The wake conditions read the run, the clock, the settings and the sleep time alone (R110, R111). -/
theorem reached_congr {a b : State} (hs : b.sched = a.sched) (ht : b.tb = a.tb) (hc : b.config = a.config)
    (hz : b.session.sleepTime = a.session.sleepTime) :
    scheduledReached b = scheduledReached a ∧ idleReached b = idleReached a := by
  unfold scheduledReached idleReached scheduledDue wakeLeadTicks
  rw [hs, ht, hc, hz]
  exact ⟨rfl, rfl⟩

/-- While the supply is CRITICAL no condition begins a wake (R111). -/
theorem judgeWakes_of_critical {s : State} (h : s.supply.state = .critical) : judgeWakes s = s := by
  simp [judgeWakes, judgeIdle, judgeScheduled, h]

/-- While the supply is CRITICAL nothing that follows a command's effect changes the session but for event counts and pending marks. -/
theorem finish_critical {s : State} (h : s.supply.state = .critical) : SameSession s (finish s) := by
  let m := cacheSettle (freeBuffer (judgeRun (issueOwed s)))
  have h1 : SameSession s (issueOwed s) := (issueOwed_undisturbed s).same (.inr (.inl h))
  have h2 : SameSession s m := ⟨by simpa [m] using h1.course, by simpa [m] using h1.pins⟩
  have hm : m.supply.state = .critical := by simpa [m] using h
  have h4 := h2.trans ((beginService_undisturbed m).same (.inr (.inl hm)))
  have h5 : finish s = portSettle (beginService m) := by simp only [finish, settle, m, judgeWakes_of_critical hm]
  rw [h5]
  exact ⟨by simpa using h4.course, by simpa using h4.pins⟩

/-- A session into which nothing breaks stays as it is. -/
theorem finish_noWake {s : State} (h : NoWake s (finish s)) : SameSession s (finish s) := by
  rcases h with h | h | ⟨ha, h1, h2⟩
  · exact finish_awake h
  · exact finish_critical h
  · let m := cacheSettle (freeBuffer (judgeRun (issueOwed s)))
    have hm : SameSession s m := by
      have k := (issueOwed_undisturbed s).same (.inr (.inr ha))
      exact ⟨by simpa [m] using k.course, by simpa [m] using k.pins⟩
    have hz : m.session.sleepTime = s.session.sleepTime := sleepTime_of_course hm.course
    have hb : Undisturbed (judgeWakes m) (beginService (judgeWakes m)) := beginService_undisturbed _
    have aw : AlertsOff (judgeWakes m) :=
      ha.congr ((judgeWakes_holdoff m).trans (holdoff_of_course hm.course)) (by simp [m])
    have hf : (finish s).session.sleepTime = m.session.sleepTime := by
      have h1 := sleepTime_of_course (hb.same (.inr (.inr aw))).course
      have h2 : (finish s).session.sleepTime = (beginService (judgeWakes m)).session.sleepTime := by simp [finish, settle, m]
      exact h2.trans (h1.trans (judgeWakes_sleepTime m))
    obtain ⟨e1, e2⟩ := reached_congr (a := m) (b := finish s) (by simp [finish, settle, m]) (by simp [m]) (by simp [m]) hf
    have hw : judgeWakes m = m := judgeWakes_of_unreached (e1.symm.trans h1) (e2.symm.trans h2)
    have hb' := hb.same (.inr (.inr aw))
    rw [hw] at hb'
    have hq : SameSession m (finish s) := by
      have h3 : finish s = portSettle (beginService (judgeWakes m)) := rfl
      rw [h3, hw]
      exact ⟨by simpa using hb'.course, by simpa using hb'.pins⟩
    exact hm.trans hq

/-- The wake judgement of a sleeping session, the supply not CRITICAL (R111). -/
theorem judgeWakes_asleep {s : State} (h : s.session.asleep = true) (k : s.supply.state ≠ .critical) :
    judgeWakes s =
      if scheduledReached s = true then beginWake .scheduled (scheduledLate s) s
      else if idleReached s = true then beginWake .idle false s
      else s := by
  have aw : ∀ c l, (beginWake c l s).session.asleep = false := fun c l =>
    awake_of_waking (congrArg Session.state (beginWake_course c l s))
  unfold judgeWakes judgeScheduled
  by_cases hs : scheduledReached s = true
  · simp [h, k, hs, judgeIdle, aw]
  · simp [h, k, hs, judgeIdle]

theorem Undisturbed.sleepTime {a b : State} (h : Undisturbed a b) : b.session.sleepTime = a.session.sleepTime := by
  rcases h with h | ⟨-, p, h⟩
  · exact sleepTime_of_course h.course
  · have k := congrArg Session.sleepTime h
    exact k

/-- The wake conditions judged and a service begun after an undisturbed operation (R111). -/
theorem wakes_of {s m f : State} (hm : Undisturbed s m) (hs : m.supply = s.supply)
    (hf : f.session = (beginService (judgeWakes m)).session) (hq : f.sched = m.sched ∧ f.tb = m.tb ∧ f.config = m.config) :
    WakesAtOnce s f := by
  intro ha hc hr
  generalize hw0 : judgeWakes m = w at hf
  have hb : Undisturbed w (beginService w) := beginService_undisturbed w
  have hz : f.session.sleepTime = m.session.sleepTime := by
    rw [hf, hb.sleepTime, ← hw0]; exact judgeWakes_sleepTime m
  obtain ⟨e1, e2⟩ := reached_congr hq.1 hq.2.1 hq.2.2 hz
  have e3 : scheduledLate f = scheduledLate m := by
    unfold scheduledLate scheduledDue wakeLeadTicks
    rw [hq.1, hq.2.1, hq.2.2]
  have hcm : m.supply.state ≠ .critical := by rw [hs]; exact hc
  have awake : ∀ x : Session, w.session.course = x → x.state = .waking → f.session.course = x := by
    intro x hx hw
    have : w.session.state = .waking := (congrArg Session.state hx).trans hw
    rw [hf, (hb.same (.inl (awake_of_waking this))).course, hx]
  rcases hm with hs | ⟨hn, p, hp⟩
  · have hma : m.session.asleep = true := (asleep_of_course hs.course).trans ha
    have hmf : m.session.forcedRecovery = s.session.forcedRecovery := forced_of_course hs.course
    have hw := hw0.symm.trans (judgeWakes_asleep hma hcm)
    by_cases h1 : scheduledReached m = true
    · rw [if_pos h1] at hw
      have k := awake _ ((congrArg (fun x : State => x.session.course) hw).trans (beginWake_course _ _ _)) rfl
      have kc := congrArg Session.cause k
      have kl := congrArg Session.late k
      have ks := congrArg Session.state k
      refine ⟨ks, fun f => ?_, fun _ => ⟨fun _ => ⟨kl.trans e3.symm, fun f => ?_⟩, fun h => ?_⟩⟩
      · rw [← hmf] at f; exact kc.trans (by simp [f])
      · rw [← hmf] at f; exact kc.trans (by simp [f])
      · rw [e1, h1] at h; cases h
    · rw [if_neg h1] at hw
      have h2 : idleReached m = true := by
        rw [e1, e2] at hr
        exact hr.resolve_left h1
      rw [if_pos h2] at hw
      have k := awake _ ((congrArg (fun x : State => x.session.course) hw).trans (beginWake_course _ _ _)) rfl
      have kc := congrArg Session.cause k
      have kl := congrArg Session.late k
      have ks := congrArg Session.state k
      refine ⟨ks, fun f => ?_, fun _ => ⟨fun h => ?_, fun _ => ⟨kl, fun f => ?_⟩⟩⟩
      · rw [← hmf] at f; exact kc.trans (by simp [f])
      · rw [e1] at h; exact absurd h h1
      · rw [← hmf] at f; exact kc.trans (by simp [f])
  · have hw : w = m := hw0.symm.trans (judgeWakes_of_awake (awake_of_waking (congrArg Session.state hp)))
    have k := awake _ ((congrArg (fun x : State => x.session.course) hw).trans hp) rfl
    have kc := congrArg Session.cause k
    refine ⟨congrArg Session.state k, fun f => kc.trans (by simp [f]), fun h => absurd (.inr (.inr h)) hn⟩

/-- In what follows, a wake condition that holds finds no sleeping session (R111). -/
theorem finish_wakes (s : State) : WakesAtOnce s (finish s) := by
  refine wakes_of (m := cacheSettle (freeBuffer (judgeRun (issueOwed s))))
    ((issueOwed_undisturbed s).after (by simp) (by simp)) (by simp) (by simp [finish, settle]) ?_
  simp [finish, settle]

/-- What follows from a state that an undisturbed operation leaves wakes at once as from the state before. -/
theorem WakesAtOnce.after {a b c : State} (h : Undisturbed a b)
    (hc : b.config = a.config ∧ b.supply = a.supply ∧ b.tb = a.tb) (k : WakesAtOnce b c)
    (aw : b.session.asleep = false → SameSession b c) : WakesAtOnce a c := by
  intro ha hs hr
  rcases h with h | ⟨hn, p, hp⟩
  · have hf := forced_of_course h.course
    obtain ⟨k1, k2, k3⟩ := k ((asleep_of_course h.course).trans ha) (by rw [hc.2.1]; exact hs) hr
    refine ⟨k1, fun f => k2 (hf.trans f), fun o => ?_⟩
    have k4 := k3 (o.congr (holdoff_of_course h.course) hc.1)
    exact ⟨fun x => ⟨(k4.1 x).1, fun f => (k4.1 x).2 (hf.trans f)⟩, fun x => ⟨(k4.2 x).1, fun f => (k4.2 x).2 (hf.trans f)⟩⟩
  · have hw : b.session.state = .waking := congrArg Session.state hp
    have q := (aw (awake_of_waking hw)).course.trans hp
    have qc := congrArg Session.cause q
    exact ⟨congrArg Session.state q, fun f => qc.trans (by simp [f]), fun o => absurd (.inr (.inr o)) hn⟩

/-! ### The engine's queue -/

/-- Every request that one state's engine queue holds, another's does. -/
def QueueKept (a b : State) : Prop := ∀ r, r ∈ a.engine.queued → r ∈ b.engine.queued

theorem queued_of_engine {a b : State} {r : Request} (h : b.engine = a.engine) (k : r ∈ a.engine.queued) :
    r ∈ b.engine.queued := by rw [h]; exact k

theorem requestStatus_queued (s : State) : QueueKept s (requestStatus s) := by
  intro r hr
  unfold requestStatus
  simp only [State.modEngine]
  split
  · split
    · simp_all [Engine.queued, Engine.inService]
    · split
      · exact hr
      · simp only [Engine.queued, Engine.inService] at hr ⊢
        simp only [List.mem_append] at hr ⊢
        tauto
  · split
    · exact hr
    · simp only [Engine.queued, Engine.inService] at hr ⊢
      simp only [List.mem_append] at hr ⊢
      tauto

theorem beginWake_queued (c : WakeCause) (l : Bool) (s : State) : QueueKept s (beginWake c l s) := by
  intro r hr
  refine requestStatus_queued _ r (queued_of_engine ?_ hr)
  unfold askPortForWake wakeControllerLines
  (repeat' split) <;> simp

theorem judgeWakes_queued {s : State} {r : Request} (h : r ∈ s.engine.queued) : r ∈ (judgeWakes s).engine.queued := by
  unfold judgeWakes judgeIdle judgeScheduled
  (repeat' split) <;> first | exact h | exact beginWake_queued _ _ _ _ h | exact beginWake_queued _ _ _ _ (beginWake_queued _ _ _ _ h)

theorem raiseEvent_queued (k : EventClass) (s : State) : QueueKept s (raiseEvent k s) := by
  intro r hr
  have h : r ∈ (requestStatus (keepMark k (countEvent k s))).engine.queued := by
    refine requestStatus_queued _ r ?_
    unfold keepMark countEvent
    cases hv : s.engine.service <;> simp_all [Engine.queued, Engine.inService]
  unfold raiseEvent
  dsimp only
  split
  · split
    · unfold judgeAlert
      split
      · exact beginWake_queued _ _ _ _ h
      · exact h
    · split
      · exact h
      · exact h
  · exact h

theorem loseLog_queued (s : State) : QueueKept s (loseLog s) := fun r h =>
  requestStatus_queued _ r (raiseEvent_queued .logLost _ r h)

/-- A request other than a LOG_WRITE keeps its place when a service begins (R163, R169). -/
theorem beginOnce_queued {s : State} {r : Request} (hl : r.isLog = false) (h : r ∈ s.engine.queued) :
    r ∈ (beginOnce s).engine.queued := by
  unfold beginOnce
  split
  · exact h
  · rename_i hs
    have hn : s.engine.service = none := by simpa using hs
    have hw : r ∈ s.engine.waiting := by simpa [Engine.queued, Engine.inService, hn] using h
    split
    · exact h
    · rename_i c hc
      have serves : ∀ (x : Request) (l : List EngineAccess) (b : Bool) (v : BitVec 8) (t : State),
          (r = x ∨ r ∈ t.engine.waiting) → r ∈ (serve x l b v t).engine.queued := by
        intro x l b v t hx
        have : (serve x l b v t).engine =
            { t.engine with
              service := some { request := x, todo := l, rewrite := false, ended := false, got := [], opens := b, shown := v } } := by
          simp [serve, askForAccess]
        rw [this]
        simpa [Engine.queued, Engine.inService, eq_comm] using hx
      have hx : r = c ∨ r ∈ s.engine.waiting.erase c := by
        by_cases e : r = c
        · exact .inl e
        · exact .inr ((List.mem_erase_of_ne e).mpr hw)
      have hk : r ∈ s.engine.waiting.erase c → r ∈ (s.modEngine fun e => { e with waiting := e.waiting.erase c }).engine.queued :=
        fun k => by simpa [Engine.queued, Engine.inService, hn] using k
      unfold beginRequest
      split
      · exact serves _ _ _ _ _ hx
      · exact serves _ _ _ _ _ hx
      · rename_i l
        have he : r ∈ s.engine.waiting.erase (.log l) := hx.resolve_left (by rintro rfl; simp [Request.isLog] at hl)
        unfold serveLog
        split
        · exact loseLog_queued _ r (hk he)
        · split
          · exact loseLog_queued _ r (hk he)
          · exact serves _ _ _ _ _ (.inr he)
      · exact serves _ _ _ _ _ hx
      · exact serves _ _ _ _ _ hx

theorem beginService_queued {s : State} {r : Request} (hl : r.isLog = false) (h : r ∈ s.engine.queued) :
    r ∈ (beginService s).engine.queued := beginOnce_queued hl (beginOnce_queued hl h)

/-! ### The latched record (R12, R82) -/

/-- The latched record stays, or the run has ended or is suspended, with no issue owed and the buffer free. -/
def BufferHeld (a b : State) : Prop :=
  b.stats.latched = a.stats.latched ∨
    (b.sched.runState.capturing = false ∧ b.sched.owed = [] ∧ b.stats.latched = none)

theorem BufferHeld.of_stats {a b : State} (h : b.stats = a.stats) : BufferHeld a b := .inl (by rw [h])

theorem BufferHeld.before {a b c : State} (h : b.stats = a.stats) (k : BufferHeld b c) : BufferHeld a c := by
  unfold BufferHeld at *
  rw [← h]
  exact k

theorem bufferHeld_suspendCapturing (r : RunState) (s : State) : BufferHeld s (suspendCapturing r s) := by
  unfold suspendCapturing
  split
  · refine .inr ?_
    unfold suspendNow setRunState dropIssues
    (repeat' split) <;> simp_all [RunState.capturing]
  · exact .of_stats rfl

theorem bufferHeld_completeIssue (k : IssueKind) (c : Segment) (s : State) : BufferHeld s (completeIssue k c s) := by
  unfold completeIssue deferredSuspend
  dsimp only
  split
  · split
    · exact .before (by simp) (bufferHeld_suspendCapturing _ _)
    · exact .of_stats (by simp)
  all_goals exact .of_stats (by simp)

theorem bufferHeld_endOfPlan (s : State) : BufferHeld s (endOfPlan s) :=
  .inr ⟨by simp [endOfPlan, setRun, RunState.capturing], by simp [endOfPlan, setRun, dropIssues],
    by simp [endOfPlan, dropIssues]⟩

theorem bufferHeld_continueFaultHold (c : Segment) (s : State) : BufferHeld s (continueFaultHold c s) :=
  .before (by simp) (bufferHeld_completeIssue .faultHold c _)

theorem bufferHeld_judgeTransition (m : Option Word) (l : Segment) (n : Nat) (s : State) :
    BufferHeld s (judgeTransition m l n s).state := by
  unfold judgeTransition
  dsimp only
  split
  · exact .of_stats (by simp)
  · split
    · exact .before (by simp) (bufferHeld_completeIssue _ _ _)
    · exact .of_stats rfl
    · exact bufferHeld_continueFaultHold l s
    all_goals exact .of_stats rfl

theorem bufferHeld_ordinaryIssue (m : Option Word) (c : Segment) (s : State) : BufferHeld s (ordinaryIssue m c s).state := by
  unfold ordinaryIssue
  split
  · split
    · exact bufferHeld_endOfPlan s
    · exact bufferHeld_judgeTransition _ _ _ s
  · exact bufferHeld_completeIssue _ c s

theorem bufferHeld_attemptIssue (o : Origin) (s : State) : BufferHeld s (attemptIssue o s).state := by
  unfold attemptIssue
  split
  · split
    · exact bufferHeld_continueFaultHold _ s
    · exact bufferHeld_judgeTransition _ _ _ s
  · split
    · exact .of_stats rfl
    · rename_i c _
      refine .before (b := s.modSeg fun g => { g with copyRead := some c }) rfl ?_
      unfold issueUnder
      (repeat' split) <;> first | exact bufferHeld_ordinaryIssue _ c _ | exact bufferHeld_completeIssue _ c _

theorem bufferHeld_makeIssues (n : Nat) (s : State) : BufferHeld s (makeIssues n s) := by
  induction n generalizing s with
  | zero => exact .of_stats rfl
  | succ n ih =>
    refine .before (b := judgeRun s) (by simp) ?_
    simp only [makeIssues]
    split
    · split
      · exact .of_stats rfl
      · rename_i o _ _
        have h := bufferHeld_attemptIssue o (judgeRun s)
        split
        · rcases h with h | h
          · have k := ih (attemptIssue o (judgeRun s)).state
            unfold BufferHeld at *
            rw [← h]
            exact k
          · rw [makeIssues_of_idle n h.1]
            exact .inr h
        · exact h
    · exact .of_stats rfl

/-- The latched record through the owed issues of a step. -/
theorem issueOwed_buffer (s : State) : (issueOwed s).stats.latched = s.stats.latched ∨
    (s.sched.runState.capturing = true ∧ (issueOwed s).sched.runState.capturing = false ∧ (issueOwed s).sched.owed = [] ∧
      (issueOwed s).stats.latched = none) := by
  cases h : s.sched.runState.capturing
  · exact .inl (by rw [issueOwed_of_idle h])
  · exact (bufferHeld_makeIssues _ s).imp id fun k => ⟨rfl, k⟩

theorem freeBuffer_latched (s : State) :
    (freeBuffer s).stats.latched = if s.sched.owed = [] then none else s.stats.latched := by
  unfold freeBuffer
  cases h : s.sched.owed <;> simp

/-- A retirement's record stays in the buffer while an issue is owed, and no longer. -/
theorem settled_buffer (s : State) : (freeBuffer (judgeRun (issueOwed s))).stats.latched =
    if (judgeRun (issueOwed s)).sched.owed = [] then none else s.stats.latched := by
  rw [freeBuffer_latched]
  rcases bufferHeld_makeIssues (issueFuel s) s with h | ⟨hc, ho, hl⟩
  · have h3 : (judgeRun (issueOwed s)).stats.latched = s.stats.latched := by simpa [issueOwed] using h
    rw [h3]
  · have h3 : judgeRun (issueOwed s) = issueOwed s := judgeRun_of_idle hc
    have h4 : (issueOwed s).sched.owed = [] := ho
    simp [h3, h4]

theorem finish_buffer (s : State) :
    (finish s).stats.latched = if (finish s).sched.owed = [] then none else s.stats.latched := by
  have h1 : (finish s).stats = (freeBuffer (judgeRun (issueOwed s))).stats := by simp [finish, settle]
  have h2 : (finish s).sched.owed = (judgeRun (issueOwed s)).sched.owed := by simp [finish, settle]
  rw [h1, h2]
  exact settled_buffer s

/-! ### Everything at once -/

theorem cacheSettle_of_noFetch {s : State} (h : NoFetch s) : cacheSettle s = s := by
  unfold cacheSettle
  rcases h with h | ⟨h, k⟩
  · simp [h]
  · simp [h, k]

theorem finish_sameCache {s : State} (h : NoIssue s) (k : NoFetch s) : (finish s).cache = s.cache := by
  rw [finish_of_noIssue h]
  have hk : NoFetch (freeBuffer s) := by
    unfold freeBuffer
    split
    · exact k
    · exact k
  rw [cacheSettle_of_noFetch hk]
  simp

/-- Where no issue is made, the fetch wanted is the one change of the cache. -/
theorem finish_fetched {s : State} (h : NoIssue s) (hf : s.cache.fetch = none) (hw : s.cache.walk = none) {n : Nat}
    (k : wantedFetch s = some n) :
    (finish s).cache =
        { s.cache.update n CacheEntry.fetchRequested with fetch := some { slot := n, orphan := false } } ∧
      Request.planFetch n (s.path.planBase + 32 * n) ∈ (finish s).engine.queued := by
  rw [finish_of_noIssue h]
  have hk : wantedFetch (freeBuffer s) = some n := by
    unfold freeBuffer
    split
    · exact k
    · exact k
  have hc : (freeBuffer s).cache = s.cache := by simp
  have e : cacheSettle (freeBuffer s) = requestFetch n (freeBuffer s) := by
    unfold cacheSettle
    simp [hf, hw, hk]
  rw [e]
  refine ⟨by simp [requestFetch], ?_⟩
  refine queued_of_engine (a := beginService (judgeWakes (requestFetch n (freeBuffer s)))) (by simp)
    (beginService_queued rfl (judgeWakes_queued ?_))
  have hp : (freeBuffer s).path = s.path := by simp
  simp [requestFetch, Engine.queued, hp]

/-- What a step's consequences do to the Plan Cache. -/
theorem finish_cacheFollows (s : State) : CacheFollows s (finish s) := by
  have hi : CacheIssued s (freeBuffer (judgeRun (issueOwed s))) :=
    (cacheIssued_makeIssues (issueFuel s) s).trans (.of_same (by simp [issueOwed]))
  obtain ⟨h1, h2, h3⟩ := cacheSettle_cache (freeBuffer (judgeRun (issueOwed s)))
  have e : (finish s).cache = (cacheSettle (freeBuffer (judgeRun (issueOwed s)))).cache := by simp [finish, settle]
  refine ⟨?_, ?_, fun h hf hw n k => finish_fetched h hf hw k⟩
  · rw [e]
    exact ⟨h1.trans hi.fields.1, h2.trans hi.fields.2.1⟩
  · rw [e]
    intro x hx
    rcases h3 x hx with h | ⟨hf, h⟩
    · exact (hi.entries x h).imp id .inl
    · exact .inr (.inr ⟨hi.fields.2.2.symm.trans hf, h⟩)

/-- What follows a word event before its write's next word, in one statement. -/
theorem settleWord_settled (s : State) : WordSettled s (settleWord s) where
  fixed := by constructor <;> simp
  issued := by
    obtain ⟨n, hn⟩ := issued_makeIssues (issueFuel s) s
    exact ⟨n, (hn.trans (issued_judgeRun _)).trans
      (.of_same (by simp [settleWord, issueOwed]) (by simp [settleWord, issueOwed]) (by simp [settleWord, issueOwed]))⟩
  run h := by
    rcases h with h | h
    · constructor <;> simp [settleWord, issueOwed_of_noIssue h, judgeRun_of_noIssue h]
    · constructor <;> simp [settleWord, issueOwed_of_idle h, judgeRun_of_idle h]
  fields := by
    have h := (cacheIssued_makeIssues (issueFuel s) s).fields
    simpa [settleWord, issueOwed] using h
  entries := by
    have h := (cacheIssued_makeIssues (issueFuel s) s).entries
    simpa [settleWord, issueOwed] using h
  cache h := by simp [settleWord, issueOwed_of_noIssue h, judgeRun_of_noIssue h]
  session h := by
    let m := freeBuffer (judgeRun (issueOwed s))
    have hc : Calm s := h.imp id (Or.imp id And.left)
    have hm : SameSession s m := by
      have k := (issueOwed_undisturbed s).same hc
      exact ⟨by simpa [m] using k.course, by simpa [m] using k.pins⟩
    have hb : Undisturbed (judgeWakes m) (beginService (judgeWakes m)) := beginService_undisturbed _
    have hw : judgeWakes m = m := by
      rcases h with h | h | ⟨ha, h1, h2⟩
      · exact judgeWakes_of_awake ((asleep_of_course hm.course).trans h)
      · exact judgeWakes_of_critical (by simpa [m] using h)
      · have aw : AlertsOff (judgeWakes m) :=
      ha.congr ((judgeWakes_holdoff m).trans (holdoff_of_course hm.course)) (by simp [m])
        have hf := (sleepTime_of_course (hb.same (.inr (.inr aw))).course).trans (judgeWakes_sleepTime m)
        obtain ⟨e1, e2⟩ := reached_congr (a := m) (b := settleWord s) (by simp [settleWord, m]) (by simp [m]) (by simp [m]) hf
        exact judgeWakes_of_unreached (e1.symm.trans h1) (e2.symm.trans h2)
    have hs : settleWord s = beginService m := by
      have h3 : settleWord s = beginService (judgeWakes m) := rfl
      rw [h3, hw]
    rw [hs]
    exact hm.trans ((beginService_undisturbed m).same (hc.congr hm.course ⟨by simp [m], by simp [m], by simp [m]⟩))
  buffer := by
    have h1 : (settleWord s).stats = (freeBuffer (judgeRun (issueOwed s))).stats := by simp [settleWord]
    have h2 : (settleWord s).sched.owed = (judgeRun (issueOwed s)).sched.owed := by simp [settleWord]
    rw [h1, h2]
    exact settled_buffer s

/-- What a step's consequences can do, in one statement. -/
theorem finish_follows (s : State) : Follows s (finish s) :=
  ⟨finish_fixed s, finish_issued s, finish_sameRun, finish_sameRun_of_idle, finish_cacheFollows s, finish_sameCache, finish_noWake,
    finish_wakes s, finish_buffer s⟩

/-- What follows a step's own effect follows too where its issues have been made before. -/
theorem issueOwed_follows (s : State) : Follows s (finish (issueOwed s)) where
  fixed := by constructor <;> simp
  issued := by
    obtain ⟨n, hn⟩ := issued_makeIssues _ s
    obtain ⟨m, hm⟩ := finish_issued (issueOwed s)
    exact ⟨n + m, hn.trans hm⟩
  run h := by rw [issueOwed_of_noIssue h]; exact finish_sameRun h
  resting h := by rw [issueOwed_of_idle h]; exact finish_sameRun_of_idle h
  fetches := by
    have hi : CacheIssued s (issueOwed s) := cacheIssued_makeIssues _ s
    have hf := finish_cacheFollows (issueOwed s)
    refine ⟨⟨hf.fields.1.trans hi.fields.1, hf.fields.2.trans hi.fields.2.1⟩, fun x hx => ?_, fun h f w n k => ?_⟩
    · rcases hf.entries x hx with h | h | ⟨h, k⟩
      · exact (hi.entries x h).imp id .inl
      · exact .inr (.inl h)
      · exact .inr (.inr ⟨hi.fields.2.2.symm.trans h, k⟩)
    · rw [issueOwed_of_noIssue h]
      exact finish_fetched h f w k
  cache h k := by rw [issueOwed_of_noIssue h]; exact finish_sameCache h k
  session h := by
    have hu : SameSession s (issueOwed s) := (issueOwed_undisturbed s).same (h.imp id (Or.imp id And.left))
    refine hu.trans (finish_noWake ?_)
    rcases h with h | h | ⟨h, k⟩
    · exact .inl ((asleep_of_course hu.course).trans h)
    · exact .inr (.inl (by simpa using h))
    · exact .inr (.inr ⟨h.congr (holdoff_of_course hu.course) (by simp), k⟩)
  wakes := WakesAtOnce.after (issueOwed_undisturbed s) (by simp) (finish_wakes _) finish_awake
  buffer := by
    rw [finish_buffer (issueOwed s)]
    rcases issueOwed_buffer s with h | ⟨-, hc, ho, -⟩
    · rw [h]
    · have k : (finish (issueOwed s)).sched.owed = [] := by rw [(finish_sameRun_of_idle hc).sched]; exact ho
      simp [k]

/-- `Issued` reads the run of both states alone. -/
theorem Issued.congr {n : Nat} {a a' b : State} (h : Issued n a b) (hs : a'.sched = a.sched) (hg : a'.seg = a.seg)
    (hx : a'.expo = a.expo) : Issued n a' b := by
  refine ⟨?_, ?_, ?_, by rw [hx]; exact h.held, by rw [hg]; exact h.hold, ?_, ?_, ?_, ?_⟩ <;> rw [hs]
  · exact h.rest
  · exact h.counters
  · exact h.taken
  · exact h.nextFrame
  · exact h.queue
  · exact h.voids
  · exact h.standing

/-- The Record Engine's queue takes no part in what follows. -/
theorem Follows.of_queue {a b c : State} (h : Follows a c) (he : a.engine.kept = b.engine.kept)
    (hk : a = { b with engine := a.engine }) : Follows b c := by
  rw [hk] at h
  exact ⟨⟨h.fixed.board, h.fixed.tb, h.fixed.supply, h.fixed.shown, h.fixed.kept.trans he, h.fixed.tally, h.fixed.table, h.fixed.cmd,
    h.fixed.config, h.fixed.ram, h.fixed.freeCount, h.fixed.pending⟩,
    h.issued.imp fun _ k => k.congr rfl rfl rfl,
    fun k => ⟨(h.run k).sched, (h.run k).seg, (h.run k).expo⟩,
    fun k => ⟨(h.resting k).sched, (h.resting k).seg, (h.resting k).expo⟩,
    ⟨h.fetches.fields, h.fetches.entries, h.fetches.fetched⟩,
    fun k l => h.cache k l, fun k => ⟨(h.session k).course, (h.session k).pins⟩, h.wakes, h.buffer⟩

end Sys2Proof.Machine
end

