-- ==== Sys2Proof/Laws/Queue.lean ====
section
/-! SUPPORT. A STATUS_WRITE once requested stands in the engine's queue through all that follows in a step. -/

namespace Sys2Proof.Machine

theorem StatusStands.of_engine {a b : State} (h : b.engine = a.engine) (k : StatusStands a) : StatusStands b := by
  simpa [StatusStands, h] using k

theorem requestStatus_stands (s : State) : StatusStands (requestStatus s) := by
  have hq : ∀ l : List Request, (l ++ [Request.status]).any Request.isStatus = true := by
    intro l; rw [List.any_append]; simp only [List.any_cons, Request.isStatus, Bool.true_or, Bool.or_true]
  unfold StatusStands requestStatus State.modEngine
  dsimp only
  split
  · split
    · rename_i hr; right; exact hr
    · split
      · left; assumption
      · exact .inl (hq _)
  · split
    · left; assumption
    · exact .inl (hq _)

/-- The engine's queue changed with every STATUS_WRITE kept. -/
theorem StatusStands.modEngine {s : State} {f : Engine → Engine} (h : StatusStands s)
    (hw : s.engine.waiting.any Request.isStatus = true → (f s.engine).waiting.any Request.isStatus = true)
    (hs : s.engine.service.any (fun sv => sv.request.isStatus) = true →
      (f s.engine).waiting.any Request.isStatus = true ∨ (f s.engine).service.any (fun sv => sv.request.isStatus) = true) :
    StatusStands (s.modEngine f) := by
  rcases h with h | h
  · exact .inl (hw h)
  · exact hs h

theorem keepMark_stands {s : State} (k : EventClass) (h : StatusStands s) : StatusStands (keepMark k s) := by
  refine h.modEngine id ?_
  intro hs
  right
  cases hv : s.engine.service <;> simp_all

theorem beginWake_stands (c : WakeCause) (l : Bool) (s : State) : StatusStands (beginWake c l s) := requestStatus_stands _

theorem judgeAlert_stands {s : State} (h : StatusStands s) : StatusStands (judgeAlert s) := by
  unfold judgeAlert beginAlertWake
  split
  · exact beginWake_stands _ _ _
  · exact h

theorem judgeWakes_stands {s : State} (h : StatusStands s) : StatusStands (judgeWakes s) := by
  unfold judgeWakes judgeIdle judgeScheduled
  (repeat' split) <;> first | exact h | exact beginWake_stands _ _ _

theorem raiseEvent_stands (k : EventClass) (s : State) : StatusStands (raiseEvent k s) := by
  have h := requestStatus_stands (keepMark k (countEvent k s))
  unfold raiseEvent
  dsimp only
  split
  · split
    · exact judgeAlert_stands h
    · split
      · exact h.of_engine (by simp)
      · exact h
  · exact h

theorem endOrderService_stands {s : State} (h : StatusStands s)
    (hr : s.engine.service.any (fun sv => sv.request.isStatus) = false) : StatusStands (endOrderService s) := by
  have hw : s.engine.waiting.any Request.isStatus = true := by
    rcases h with h | h
    · exact h
    · simp [hr] at h
  unfold endOrderService
  split
  · exact h
  · split
    · exact .inl hw
    · exact .inl (by simpa using hw)

theorem evictOrder_stands {s : State} (h : StatusStands s) : StatusStands (evictOrder s) := by
  unfold evictOrder
  split
  · exact h
  · rename_i c _
    split
    · rename_i hc
      refine endOrderService_stands h ?_
      cases hv : s.engine.service with
      | none => rfl
      | some sv =>
        have : sv.request = .order c := by
          simp only [Engine.inService, hv] at hc
          split at hc <;> simp_all
        simp [this, Request.isStatus]
    · refine h.modEngine ?_ (fun hs => .inr hs)
      intro hw
      obtain ⟨r, hr, hq⟩ := List.any_eq_true.mp hw
      refine List.any_eq_true.mpr ⟨r, (List.mem_erase_of_ne ?_).mpr hr, hq⟩
      rintro rfl
      simp [Request.isStatus] at hq

theorem replaceOrder_any (o : OrderContent) (l : List Request) :
    (replaceOrder o l).any Request.isStatus = l.any Request.isStatus := by
  induction l with
  | nil => rfl
  | cons r rs ih =>
    cases r <;> simp only [replaceOrder, List.any_cons, ih]
    split <;> simp [Request.isStatus, ih]

theorem requestOrder_stands {s : State} (o : OrderContent) (h : StatusStands s) : StatusStands (requestOrder o s) := by
  unfold requestOrder
  split
  · refine h.modEngine ?_ (fun hs => .inr hs)
    intro hw
    simpa [replaceOrder_any] using hw
  · dsimp only
    have h1 : StatusStands (if (s.engine.queued.filterMap Request.orderContent?).length < 2 then s else evictOrder s) := by
      split
      · exact h
      · exact evictOrder_stands h
    exact h1.modEngine (fun hw => by rw [List.any_append, hw]; rfl) (fun hs => .inr hs)

theorem loseLog_stands (s : State) : StatusStands (loseLog s) := requestStatus_stands _

theorem requestLog_stands {s : State} (l : LogContent) (h : StatusStands s) : StatusStands (requestLog l s) := by
  unfold requestLog
  split
  · exact h.modEngine (fun hw => by rw [List.any_append, hw]; rfl) (fun hs => .inr hs)
  · exact loseLog_stands s

theorem retire_stands (e : Entry) (o : FrameOutcome) (c : Cause) (m : Option (Nat × Int)) (g : Bool) (s : State) :
    StatusStands (retire e o c m g s) := requestStatus_stands _

theorem chooseRequest_mem {l : List Request} {r : Request} (h : chooseRequest l = some r) : r ∈ l := by
  unfold chooseRequest at h
  (repeat' split at h) <;> first
    | (cases h; exact List.mem_of_find?_eq_some (by assumption))
    | exact List.mem_of_mem_head? h

theorem serve_stands (r : Request) (l : List EngineAccess) (b : Bool) (v : BitVec 8) (s : State)
    (h : r.isStatus = true ∨ s.engine.waiting.any Request.isStatus = true) : StatusStands (serve r l b v s) := by
  rcases h with h | h
  · right; simp [serve, askForAccess, h]
  · left; simpa [serve, askForAccess] using h

theorem beginOnce_stands {s : State} (h : StatusStands s) : StatusStands (beginOnce s) := by
  unfold beginOnce
  split
  · exact h
  · rename_i hn
    have hn' : s.engine.service = none := by simpa using hn
    have hw : s.engine.waiting.any Request.isStatus = true := by
      rcases h with h | h
      · exact h
      · simp [hn'] at h
    split
    · exact h
    · rename_i r hr
      by_cases hs : r.isStatus = true
      · have : r = .status := by cases r <;> simp_all [Request.isStatus]
        subst this
        exact serve_stands _ _ _ _ _ (.inl rfl)
      · have hk : (s.engine.waiting.erase r).any Request.isStatus = true := by
          obtain ⟨q, hq, hqs⟩ := List.any_eq_true.mp hw
          refine List.any_eq_true.mpr ⟨q, (List.mem_erase_of_ne ?_).mpr hq, hqs⟩
          rintro rfl
          exact hs hqs
        cases r with
        | status => simp [Request.isStatus] at hs
        | order c => exact serve_stands _ _ _ _ _ (.inr hk)
        | planFetch a b => exact serve_stands _ _ _ _ _ (.inr hk)
        | configRead => exact serve_stands _ _ _ _ _ (.inr hk)
        | log l =>
          simp only [beginRequest, serveLog]
          split
          · exact loseLog_stands _
          · split
            · exact loseLog_stands _
            · exact serve_stands _ _ _ _ _ (.inr hk)

theorem beginService_stands {s : State} (h : StatusStands s) : StatusStands (beginService s) :=
  beginOnce_stands (beginOnce_stands h)

theorem setRunState_stands {s : State} (r : RunState) (h : StatusStands s) : StatusStands (setRunState r s) := by
  unfold setRunState
  split
  · exact h
  · exact requestStatus_stands _

theorem judgeRun_stands {s : State} (h : StatusStands s) : StatusStands (judgeRun s) := by
  unfold judgeRun
  (repeat' split) <;> first | exact h | exact setRunState_stands _ h

theorem suspendCapturing_stands {s : State} (r : RunState) (h : StatusStands s) :
    StatusStands (suspendCapturing r s) := by
  unfold suspendCapturing
  split
  · exact setRunState_stands _ (h.of_engine (by simp))
  · exact h

theorem deferredSuspend_stands {s : State} (k : IssueKind) (h : StatusStands s) : StatusStands (deferredSuspend k s) := by
  unfold deferredSuspend
  (repeat' split) <;> first | exact h | exact suspendCapturing_stands _ h

theorem completeIssue_stands (k : IssueKind) (c : Segment) (s : State) : StatusStands (completeIssue k c s) :=
  deferredSuspend_stands k (beginService_stands (requestStatus_stands _))

theorem endOfPlan_stands (s : State) : StatusStands (endOfPlan s) := requestStatus_stands _

theorem attemptIssue_stands (o : Origin) {s : State} (h : StatusStands s) : StatusStands (attemptIssue o s).state := by
  have hj : ∀ m l n, StatusStands (judgeTransition m l n s).state := by
    intro m l n
    unfold judgeTransition
    dsimp only
    split
    · exact h.of_engine (by simp)
    · split
      · exact completeIssue_stands _ _ _
      · exact h.of_engine (by simp)
      · exact completeIssue_stands _ _ _
      · exact h.of_engine (by simp)
      · exact h.of_engine (by simp)
      · exact h.of_engine (by simp)
  unfold attemptIssue
  split
  · split
    · exact completeIssue_stands _ _ _
    · exact hj _ _ _
  · split
    · exact h
    · rename_i c _
      have h' : StatusStands (s.modSeg fun g => { g with copyRead := some c }) := h.of_engine rfl
      have ho : ∀ m, StatusStands (ordinaryIssue m c (s.modSeg fun g => { g with copyRead := some c })).state := by
        intro m
        unfold ordinaryIssue
        split
        · split
          · exact endOfPlan_stands _
          · unfold judgeTransition
            dsimp only
            split
            · exact h.of_engine (by simp)
            · split
              · exact completeIssue_stands _ _ _
              · exact h.of_engine (by simp)
              · exact completeIssue_stands _ _ _
              · exact h.of_engine (by simp)
              · exact h.of_engine (by simp)
              · exact h.of_engine (by simp)
        · exact completeIssue_stands (.ordinary m false) c _
      unfold issueUnder
      split
      · exact completeIssue_stands (.start _) c _
      · exact completeIssue_stands _ c _
      · split
        · exact completeIssue_stands .faultHold c _
        · exact ho _
      · split
        · exact completeIssue_stands .faultHold c _
        · exact ho _

theorem makeIssues_stands (n : Nat) {s : State} (h : StatusStands s) : StatusStands (makeIssues n s) := by
  induction n generalizing s with
  | zero => exact h
  | succ n ih =>
    simp only [makeIssues]
    have h1 := judgeRun_stands h
    split
    · split
      · exact h1
      · split
        · exact ih (attemptIssue_stands _ h1)
        · exact attemptIssue_stands _ h1
    · exact h1

theorem requestFetch_stands {s : State} (n : Nat) (h : StatusStands s) : StatusStands (requestFetch n s) := by
  unfold requestFetch
  exact StatusStands.modEngine (h.of_engine rfl) (fun hw => by rw [List.any_append, hw]; rfl) (fun hs => .inr hs)

theorem cacheSettle_stands {s : State} (h : StatusStands s) : StatusStands (cacheSettle s) := by
  unfold cacheSettle
  split
  · exact h
  · split
    · split
      · exact h
      · exact requestFetch_stands _ (h.of_engine rfl)
    · split
      · exact h
      · exact requestFetch_stands _ h

/-- A STATUS_WRITE that stands before a step's consequences stands after them. -/
theorem finish_stands {s : State} (h : StatusStands s) : StatusStands (finish s) := by
  have h1 := judgeRun_stands (makeIssues_stands (issueFuel s) h)
  have h2 := cacheSettle_stands (h1.of_engine (b := freeBuffer (judgeRun (issueOwed s))) (by simp [issueOwed]))
  have h3 := beginService_stands (judgeWakes_stands h2)
  exact h3.of_engine (by simp [finish, settle])

end Sys2Proof.Machine
end

