-- ==== Sys2Proof/Laws/Decide.lean ====
section
/-! SUPPORT. How what follows a command's effect composes: operations that change only what `Follows` does not look at, and the
decisions of the command interpreter. -/

namespace Sys2Proof.Machine

theorem Near.rfl' (a : State) : Near a a := ⟨.rfl' a, ⟨rfl, rfl, rfl⟩, rfl, .inl (.rfl' a), rfl⟩

theorem watchedFault_congr {a b : State} (h : b.cache = a.cache) (k : b.seg = a.seg) : watchedFault b = watchedFault a := by
  simp [watchedFault, h, k]

theorem NoIssue.congr {a b : State} (h : NoIssue a) (r : SameRun a b) (c : b.cache = a.cache) : NoIssue b := by
  unfold NoIssue IssuesWait at *
  rw [watchedFault_congr c r.seg, r.sched, r.seg, c]
  exact h

theorem wantedFetch_congr {a b : State} (r : SameRun a b) (c : b.cache = a.cache) : wantedFetch b = wantedFetch a := by
  unfold wantedFetch wantsFetch
  rw [r.sched, r.seg, c]

theorem NoFetch.congr {a b : State} (h : NoFetch a) (r : SameRun a b) (c : b.cache = a.cache) : NoFetch b := by
  have hw := wantedFetch_congr r c
  unfold NoFetch at *
  rw [hw, c]
  exact h

theorem NoWake.congr {a b c : State} (h : NoWake a c) (hs : b.session.course = a.session.course)
    (hc : b.config = a.config ∧ b.supply = a.supply) : NoWake b c := by
  unfold NoWake at *
  rw [asleep_of_course hs, hc.2]
  exact h.imp id (Or.imp id (And.imp_left fun k => k.congr (holdoff_of_course hs) hc.1))

theorem Near.trans {a b c : State} (h : Near a b) (k : Near b c) : Near a c :=
  ⟨h.fixed.trans k.fixed, ⟨k.run.sched.trans h.run.sched, k.run.seg.trans h.run.seg, k.run.expo.trans h.run.expo⟩,
   k.cache.trans h.cache,
   h.session.trans ⟨h.fixed.config, h.fixed.supply, h.fixed.tb⟩ k.session, k.latched.trans h.latched⟩

theorem NoWake.calm {a b : State} (h : NoWake a b) : Calm a := h.imp id (Or.imp id And.left)

theorem CacheFollows.congr {a b c : State} (h : CacheFollows b c) (r : SameRun a b) (k : b.cache = a.cache)
    (p : b.path.planBase = a.path.planBase) : CacheFollows a c := by
  refine ⟨by rw [← k]; exact h.fields, by rw [← k]; exact h.entries, fun n hf hw slot w => ?_⟩
  rw [← k] at hf hw
  rw [← k, ← p]
  exact h.fetched (n.congr r k) hf hw slot ((wantedFetch_congr r k).trans w)

theorem state_of_course {x y : Session} (h : y.course = x.course) : y.state = x.state := by
  have k : y.course.state = x.course.state := congrArg Session.state h
  exact k

/-- The PLAN window's base is part of the window table (R137). -/
theorem planBase_of_table {p q : Path} (h : q.table = p.table) : q.planBase = p.planBase := by
  have k : q.plan = p.plan := by
    have k : q.table.plan = p.table.plan := congrArg Path.plan h
    exact k
  unfold Path.planBase
  rw [k]

/-- In an awake session nothing that follows changes the session (R111). -/
theorem Follows.awake {a b : State} (h : Follows a b) (k : a.session.asleep = false) : SameSession a b := h.session (.inl k)

/-- What follows from a state near `a` follows from `a`. -/
theorem Near.follows {a b c : State} (h : Near a b) (k : Follows b c) : Follows a c where
  fixed := h.fixed.trans k.fixed
  issued := k.issued.imp fun _ i => i.congr h.run.sched.symm h.run.seg.symm h.run.expo.symm
  run n := by
    have r := k.run (n.congr h.run h.cache)
    exact ⟨r.sched.trans h.run.sched, r.seg.trans h.run.seg, r.expo.trans h.run.expo⟩
  resting n := by
    have r := k.resting (by rw [h.run.sched]; exact n)
    exact ⟨r.sched.trans h.run.sched, r.seg.trans h.run.seg, r.expo.trans h.run.expo⟩
  fetches := k.fetches.congr h.run h.cache (planBase_of_table h.fixed.table)
  cache n f := (k.cache (n.congr h.run h.cache) (f.congr h.run h.cache)).trans h.cache
  session n :=
    have s := h.session.same n.calm
    s.trans (k.session (n.congr s.course ⟨h.fixed.config, h.fixed.supply⟩))
  wakes := k.wakes.after h.session ⟨h.fixed.config, h.fixed.supply, h.fixed.tb⟩ k.awake
  buffer := by rw [← h.latched]; exact k.buffer

/-- An operation of the engine's queue alone is near. -/
theorem near_requestStatus (s : State) : Near s (requestStatus s) := by
  refine ⟨?_, ?_, ?_, .of_eq ?_ ?_, ?_⟩
  · constructor <;> simp
  · constructor <;> simp
  all_goals simp

/-- An event raised is near its counting while no alert begins a wake. -/
theorem near_raiseEvent (k : EventClass) (s : State) : Near (countEvent k s) (raiseEvent k s) := by
  have hu : Undisturbed (countEvent k s) (raiseEvent k s) :=
    Undisturbed.trans (b := s) (.inl ⟨rfl, rfl⟩) ⟨rfl, rfl, rfl⟩ (raiseEvent_undisturbed k s)
  have ht : (raiseEvent k s).session.tally = (countEvent k s).session.tally := by
    unfold raiseEvent; dsimp only
    (repeat' split) <;> simp <;> rfl
  have hk : (raiseEvent k s).engine.kept = (countEvent k s).engine.kept := by simp <;> rfl
  refine ⟨?_, ?_, ?_, hu, by simp⟩
  · constructor <;> first | exact ht | exact hk | (simp; done) | (simp <;> rfl)
  · constructor <;> simp
  · simp

/-- A command's decision, with what it follows from. -/
theorem near_decide (seq : BitVec 8) (r : Result) (s : State) : Near (decided seq r s) (decideCommand seq r s) := by
  unfold decided decideCommand
  dsimp only
  split
  · have h := near_requestStatus (s.modCmd fun c => { c with lastDecided := some (seq, r) })
    unfold restartTimer
    simp only [h.fixed.tb, h.fixed.config]
    have hs : (requestStatus (s.modCmd fun c => { c with lastDecided := some (seq, r) })).session = s.session := by simp
    rw [hs]
    split
    · refine ⟨?_, ?_, ?_, .inl ⟨?_, ?_⟩, h.latched⟩
      · constructor <;> first | exact h.fixed.kept | (simp; done) | (simp <;> rfl) | rfl
      · constructor <;> first | (simp; done) | (simp <;> rfl) | rfl
      all_goals first | (simp; done) | (simp <;> rfl) | rfl
    · exact h
  · exact near_requestStatus (s.modCmd fun c => { c with lastDecided := some (seq, r) })

theorem restartTimer_stands {s : State} (h : StatusStands s) : StatusStands (restartTimer s) := by
  unfold restartTimer
  split
  · exact h
  · exact h

theorem decideCommand_stands (seq : BitVec 8) (r : Result) (s : State) : StatusStands (decideCommand seq r s) := by
  unfold decideCommand
  dsimp only
  split
  · exact restartTimer_stands (requestStatus_stands _)
  · exact requestStatus_stands _

theorem decided_near {a b : State} (h : Near a b) (seq : BitVec 8) (r : Result) :
    Near (decided seq r a) (decided seq r b) := by
  have key : Near { a with cmd := { a.cmd with lastDecided := some (seq, r) } }
      { b with cmd := { b.cmd with lastDecided := some (seq, r) } } :=
    ⟨⟨h.fixed.board, h.fixed.tb, h.fixed.supply, h.fixed.shown, h.fixed.kept, h.fixed.tally, h.fixed.table,
      by rw [h.fixed.cmd], h.fixed.config, h.fixed.ram, h.fixed.freeCount, h.fixed.pending⟩,
     ⟨h.run.sched, h.run.seg, h.run.expo⟩, h.cache,
     h.session.congr ⟨rfl, rfl, rfl, rfl, rfl⟩ ⟨rfl, rfl⟩, h.latched⟩
  unfold decided
  dsimp only
  split
  · unfold restartTimer
    dsimp only
    have hs : b.session.state = .open ↔ a.session.state = .open := by
      rcases h.session with k | ⟨hn, p, hp⟩
      · rw [state_of_course k.course]
      · have hb : b.session.state = .waking := congrArg Session.state hp
        have ha : a.session.state ≠ .open := fun ho => hn (.inl (by simp [Session.asleep, ho]))
        simp [hb, ha]
    by_cases ho : a.session.state = .open
    · have k := h.session.same (.inl (by simp [Session.asleep, ho]))
      simp only [ho, hs.mpr ho, if_true]
      refine ⟨⟨key.fixed.board, key.fixed.tb, key.fixed.supply, key.fixed.shown, key.fixed.kept, h.fixed.tally, key.fixed.table,
          key.fixed.cmd, key.fixed.config, key.fixed.ram, key.fixed.freeCount, key.fixed.pending⟩,
        ⟨key.run.sched, key.run.seg, key.run.expo⟩, key.cache, .inl ⟨?_, k.pins⟩, h.latched⟩
      have h2 := k.course
      simp only [State.modSession, Session.course, h.fixed.tb, h.fixed.config] at h2 ⊢
      simp only [Session.mk.injEq] at h2 ⊢
      simp_all
    · simp only [ho, mt hs.mp ho, if_false]
      exact key
  · exact key

/-- A command decided and all that follows. -/
theorem finish_decide (seq : BitVec 8) (r : Result) (s : State) :
    StatusStands (finish (decideCommand seq r s)) ∧ Follows (decided seq r s) (finish (decideCommand seq r s)) :=
  ⟨finish_stands (decideCommand_stands seq r s), (near_decide seq r s).follows (finish_follows _)⟩

/-! ### How a row's statement is reached -/

theorem Leaves.of_near {c : Instr} {s a x : State} (h : exec c s = .next (finish x)) (n : Near a x) : Leaves c s a :=
  ⟨_, h, n.follows (finish_follows x)⟩

theorem Reports.of_near {c : Instr} {s a x : State} (h : exec c s = .next (finish x)) (n : Near a x)
    (k : StatusStands x) : Reports c s a :=
  ⟨_, h, finish_stands k, n.follows (finish_follows x)⟩

theorem Decides.of_near {c : Instr} {s a x : State} {seq : BitVec 8} {r : Result}
    (h : exec c s = .next (finish (decideCommand seq r x))) (n : Near a x) : Decides c s seq r a :=
  Reports.of_near h ((decided_near n seq r).trans (near_decide seq r x)) (decideCommand_stands seq r x)

/-- The common test of the command interpreter. -/
theorem unlessBusy_of_busy {s : State} (h : s.cmd.busy.isSome = true) (seq : BitVec 8) (f : State → State) :
    unlessBusy seq f s = decideCommand seq .busy s := by simp [unlessBusy, h]

theorem unlessBusy_of_free {s : State} (h : s.cmd.busy = none) (seq : BitVec 8) (f : State → State) :
    unlessBusy seq f s = f s := by simp [unlessBusy, h]

end Sys2Proof.Machine
end

