-- ==== Sys2Proof/Laws/Retire.lean ====
section
/-! SUPPORT. Retirement: what it leaves, up to the engine's queue and the log records that are lost. -/

namespace Sys2Proof.Machine

theorem near_requestLog (l : LogContent) (s : State) : Near s (requestLog l s) := by
  refine ⟨?_, ?_, by simp, ?_, by simp⟩
  · constructor <;> simp
  · constructor <;> simp
  · exact requestLog_undisturbed l s

theorem near_beginService (s : State) : Near s (beginService s) := by
  refine ⟨?_, ?_, by simp, ?_, by simp⟩
  · constructor <;> simp
  · constructor <;> simp
  · exact beginService_undisturbed s

theorem countOutcome_capturing (q : Scheduler) (e : Entry) (o : FrameOutcome) :
    (q.retireEntry e o).runState = q.runState ∧ (q.retireEntry e o).owed = q.owed := by
  cases o <;> exact ⟨rfl, rfl⟩

/-- Steps 1, 2 and 4 of a retirement are `retired`, whatever its log record has done before the hand-over (R23). -/
theorem near_handOver (e : Entry) (o : FrameOutcome) {s r : State} (hl : Near (s.modSched fun q => q.retireEntry e o) r) :
    Near (retired e o s) (handOver e o r) := by
  have h1 := (countOutcome_capturing s.sched e o).1
  have h2 := (countOutcome_capturing s.sched e o).2
  have hq : r.sched = s.sched.retireEntry e o := hl.run.sched
  have hg : r.seg = s.seg := hl.run.seg
  have hn : Undisturbed s r := hl.session.congr ⟨rfl, rfl, rfl, rfl, rfl⟩ ⟨rfl, rfl⟩
  have k := hl.fixed
  have hf : Fixed s r := ⟨k.board, k.tb, k.supply, k.shown, k.kept, k.tally, k.table, k.cmd, k.config, k.ram, k.freeCount, k.pending⟩
  have hx : r.expo = s.expo := hl.run.expo
  have hc : r.cache = s.cache := hl.cache
  unfold handOver
  dsimp only [State.modSeg, State.modSched]
  rw [hq, h1, hg]
  by_cases hcap : s.sched.runState.capturing = true
  · simp only [hcap, if_true]
    refine ⟨⟨hf.board, hf.tb, hf.supply, hf.shown, hf.kept, hf.tally, hf.table, hf.cmd, hf.config, hf.ram, hf.freeCount,
      hf.pending⟩, ⟨?_, rfl, hx⟩, hc,
      hn.congr ⟨rfl, rfl, rfl, rfl, rfl⟩ ⟨rfl, rfl⟩, hl.latched⟩
    simp [retired_eq, hcap, h2, h1]
  · simp only [hcap, Bool.false_eq_true, if_false]
    refine ⟨⟨hf.board, hf.tb, hf.supply, hf.shown, hf.kept, hf.tally, hf.table, hf.cmd, hf.config, hf.ram, hf.freeCount,
      hf.pending⟩, ⟨?_, rfl, hx⟩, hc,
      hn.congr ⟨rfl, rfl, rfl, rfl, rfl⟩ ⟨rfl, rfl⟩, hl.latched⟩
    simp only [retired_eq, hcap, Bool.false_eq_true, if_false]
    rw [← h2]

theorem near_retire (e : Entry) (o : FrameOutcome) (c : Cause) (m : Option (Nat × Int)) (g : Bool) (s : State) :
    Near (retired e o s) (retire e o c m g s) :=
  (near_handOver e o (near_requestLog _ _)).trans (near_requestStatus _)

theorem near_retireNow (e : Entry) (o : FrameOutcome) (c : Cause) (m : Option (Nat × Int)) (g : Bool) (s : State) :
    Near (retired e o s) (retireNow e o c m g s) := (near_retire e o c m g s).trans (near_beginService _)

theorem retireNow_stands (e : Entry) (o : FrameOutcome) (c : Cause) (m : Option (Nat × Int)) (g : Bool) (s : State) :
    StatusStands (retireNow e o c m g s) := beginService_stands (retire_stands e o c m g s)

/-- Near states stay near under the same change of the run (R1 to R26). -/
theorem Near.modSched {a b : State} (h : Near a b) (f : Scheduler → Scheduler) : Near (a.modSched f) (b.modSched f) := by
  have k := h.fixed
  exact ⟨⟨k.board, k.tb, k.supply, k.shown, k.kept, k.tally, k.table, k.cmd, k.config, k.ram, k.freeCount, k.pending⟩,
    ⟨by simp [h.run.sched], h.run.seg, h.run.expo⟩, h.cache,
    h.session.congr ⟨rfl, rfl, rfl, rfl, rfl⟩ ⟨rfl, rfl⟩, h.latched⟩

/-- Near states stay near under the same change of the Segment Controller. -/
theorem Near.modSeg {a b : State} (h : Near a b) (f : SegmentControl → SegmentControl) : Near (a.modSeg f) (b.modSeg f) := by
  have k := h.fixed
  exact ⟨⟨k.board, k.tb, k.supply, k.shown, k.kept, k.tally, k.table, k.cmd, k.config, k.ram, k.freeCount, k.pending⟩,
    ⟨h.run.sched, by simp [h.run.seg], h.run.expo⟩, h.cache,
    h.session.congr ⟨rfl, rfl, rfl, rfl, rfl⟩ ⟨rfl, rfl⟩, h.latched⟩

/-- Near states stay near when both buffers are freed. -/
theorem near_freed {a b : State} (h : Near a b) :
    Near (a.modStats fun x => { x with latched := none }) (b.modStats fun x => { x with latched := none }) := by
  have k := h.fixed
  exact ⟨⟨k.board, k.tb, k.supply, k.shown, k.kept, k.tally, k.table, k.cmd, k.config, k.ram, k.freeCount, k.pending⟩,
    ⟨h.run.sched, h.run.seg, h.run.expo⟩, h.cache,
    h.session.congr ⟨rfl, rfl, rfl, rfl, rfl⟩ ⟨rfl, rfl⟩, rfl⟩

theorem Near.dropIssues {a b : State} (h : Near a b) : Near (dropIssues a) (dropIssues b) :=
  near_freed ((h.modSched _).modSeg _)

end Sys2Proof.Machine
end

