-- ==== Sys2Proof/Laws/Bus.lean ====
section
/-! SUPPORT. The pass-through transaction: what its arrival leaves, and the one that follows at once (R136, R145, R156). -/

namespace Sys2Proof.Machine

theorem near_recordArrival (tx : Transaction) (s : State) : Near s (recordArrival tx s) := by
  have near (p : Path) (w : Port) (h : p.table = s.path.table) : Near s { s with path := p, port := w } :=
    ⟨⟨rfl, rfl, rfl, rfl, rfl, rfl, h, rfl, rfl, rfl, rfl, rfl⟩, ⟨rfl, rfl, rfl⟩, rfl, .of_eq rfl rfl, rfl⟩
  unfold recordArrival judgeHolds
  repeat' split
  all_goals exact near _ _ rfl

/-- In an awake session, and in power-on reset, an arrival changes the path and the port alone. -/
theorem near_arrive (tx : Transaction) {s : State} (h : s.pins.inReset = true ∨ s.session.asleep = false) :
    Near s (arrive tx s) := by
  unfold arrive
  split
  · exact ⟨by constructor <;> simp, by constructor <;> simp, by simp, .of_eq (by simp) (by simp), by simp⟩
  · have ha : s.session.asleep = false := h.resolve_left (by assumption)
    simp only [ha]
    exact near_recordArrival tx s

theorem makeTransaction_arrives (tx : Transaction) {s : State} (h : outstanding s = false) :
    makeTransaction tx s = arrive tx s := by simp [makeTransaction, h]

theorem makeTransaction_follows (tx : Transaction) {s : State} (h : outstanding s = true) (hn : s.path.following = none) :
    makeTransaction tx s = s.modPath fun p => { p with following := some tx } := by simp [makeTransaction, h, hn]

theorem makeTransaction_third (tx : Transaction) {s : State} (h : outstanding s = true) (hn : s.path.following.isSome = true) :
    makeTransaction tx s = s := by
  obtain ⟨x, hx⟩ := Option.isSome_iff_exists.mp hn
  simp [makeTransaction, h, hx]

theorem followOn_none {s : State} (h : s.path.following = none) : followOn s = s := by simp [followOn, h]

theorem followOn_some {s : State} {tx : Transaction} (h : s.path.following = some tx) :
    followOn s = makeTransaction tx (s.modPath fun p => { p with following := none }) := by simp [followOn, h]

end Sys2Proof.Machine
end

