-- ==== Sys2Proof/Laws/Head.lean ====
section
/-! SUPPORT. What the issues inside a step leave of a TRIGGERED head of the order queue, and all that they do as one lemma
(`IssuesMade`). -/

namespace Sys2Proof.Machine

/-- A TRIGGERED head of the queue stays its head, but for the discount mark (R22, R65, R66). -/
def HeadKept (a b : State) : Prop :=
  ∀ e, a.sched.queue.head? = some e → e.triggered = true → ∃ x, b.sched.queue.head? = some x ∧ x.plain = e.plain

theorem HeadKept.of_queue {a b : State} (h : b.sched.queue = a.sched.queue) : HeadKept a b :=
  fun e he _ => ⟨e, by rw [h]; exact he, rfl⟩

theorem HeadKept.trans {a b c : State} (h : HeadKept a b) (k : HeadKept b c) : HeadKept a c := by
  intro e he ht
  obtain ⟨x, hx, hp⟩ := h e he ht
  obtain ⟨y, hy, hq⟩ := k x hx (by rw [(Entry.plain_parts hp).2.1]; exact ht)
  exact ⟨y, hy, hq.trans hp⟩

theorem headKept_voidEntry {e : Entry} (h : e.triggered = false) (s : State) : HeadKept s (voidEntry e s) := by
  intro x hx ht
  have hq : (voidEntry e s).sched.queue = s.sched.queue.erase e := by
    have h1 := (retire_run e .voided .noCause none false s).1
    have h2 : (voidEntry e s).sched = (retire e .voided .noCause none false s).sched := by simp [voidEntry]
    rw [h2, h1]
    rfl
  refine ⟨x, ?_, rfl⟩
  rw [hq]
  cases hs : s.sched.queue with
  | nil => rw [hs] at hx; cases hx
  | cons y r =>
    rw [hs] at hx
    cases hx
    have : x ≠ e := fun he => by rw [he, h] at ht; cases ht
    simp [this]

theorem headKept_voidIssued (l : List Entry) (s : State) : HeadKept s (voidIssued l s) := by
  induction l generalizing s with
  | nil => exact .of_queue rfl
  | cons e es ih =>
    refine HeadKept.trans (b := if e.triggered then s else voidEntry e s) ?_ (ih _)
    split
    · exact .of_queue rfl
    · exact headKept_voidEntry (by simp_all) s

theorem headKept_discountTriggered (s : State) : HeadKept s (discountTriggered s) := by
  intro e he _
  exact ⟨_, by simp [discountTriggered, he], plain_discount e⟩

theorem headKept_settleQueue (k : Settle) (s : State) : HeadKept s (settleQueue k s) := by
  unfold settleQueue
  split
  · exact .of_queue rfl
  · split
    · have h : HeadKept (voidIssued s.sched.queue s) (returnToStanding (voidIssued s.sched.queue s)) :=
        .of_queue (by unfold returnToStanding; split <;> simp)
      exact ((headKept_voidIssued _ s).trans h).trans (headKept_discountTriggered _)
    · exact headKept_discountTriggered s

theorem setRunState_queue (r : RunState) (s : State) : (setRunState r s).sched.queue = s.sched.queue := by
  unfold setRunState
  split <;> simp

theorem judgeRun_queue (s : State) : (judgeRun s).sched.queue = s.sched.queue := by
  unfold judgeRun
  repeat' split
  all_goals first | rfl | exact setRunState_queue _ _

theorem deferredSuspend_queue (k : IssueKind) (s : State) : (deferredSuspend k s).sched.queue = s.sched.queue := by
  unfold deferredSuspend suspendCapturing suspendNow setRunState dropIssues
  repeat' split
  all_goals simp

theorem headKept_completeIssue (k : IssueKind) (c : Segment) (s : State) : HeadKept s (completeIssue k c s) := by
  let t := s.modSeg fun g => { g with bias := c.biasAt g.frames }
  have hq : (completeIssue k c s).sched.queue = s.sched.queue ++ [newOrder k c t] := by
    unfold completeIssue
    dsimp only
    rw [deferredSuspend_queue]
    simp [appendOrder, t]
  intro e he _
  exact ⟨e, by rw [hq, List.head?_append, he]; rfl, rfl⟩

theorem headKept_continueFaultHold (c : Segment) (s : State) : HeadKept s (continueFaultHold c s) := by
  have h : HeadKept s (setRunState .faultHold (s.modSeg fun g => { g with decided := none })) :=
    .of_queue (setRunState_queue _ _)
  exact h.trans (headKept_completeIssue .faultHold c _)

theorem headKept_judgeTransition (m : Option Word) (l : Segment) (n : Nat) (s : State) :
    HeadKept s (judgeTransition m l n s).state := by
  unfold judgeTransition
  dsimp only
  split
  · exact .of_queue (by simp)
  · split
    · exact ((headKept_settleQueue l.settle s).trans (.of_queue (by simp))).trans (headKept_completeIssue _ _ _)
    · exact .of_queue (by simp)
    · exact headKept_continueFaultHold l s
    all_goals exact .of_queue (by simp)

/-- What an attempt at an issue does to a TRIGGERED head: it stays, or the plan has ended with the queue abandoned. -/
def HeadStands (a b : State) : Prop := HeadKept a b ∨ (b.sched.queue = [] ∧ b.sched.runState = .stopped)

theorem abandonAll_queue (l : List Entry) (s : State) (h : s.sched.queue = l) : (abandonAll l s).sched.queue = [] := by
  induction l generalizing s with
  | nil => simpa [abandonAll] using h
  | cons e es ih =>
    refine ih _ ?_
    have h1 := (retire_run e .abandoned .noCause none false s).1
    have h2 : (retireNow e .abandoned .noCause none false s).sched = (retire e .abandoned .noCause none false s).sched := by
      simp [retireNow]
    rw [h2, h1]
    show s.sched.queue.erase e = es
    rw [h, List.erase_cons_head]

theorem headStands_ordinaryIssue (m : Option Word) (c : Segment) (s : State) :
    HeadStands s (ordinaryIssue m c s).state := by
  unfold ordinaryIssue
  split
  · split
    · right
      have := abandonAll_queue s.sched.queue s rfl
      constructor <;> simp [endOfPlan, setRun, dropIssues, this]
    · exact .inl (headKept_judgeTransition m c _ s)
  · exact .inl (headKept_completeIssue _ c s)

theorem headStands_issueUnder (o : Origin) (c : Segment) (s : State) : HeadStands s (issueUnder o c s).state := by
  unfold issueUnder
  split
  · exact .inl (headKept_completeIssue _ _ _)
  · exact .inl (headKept_completeIssue _ _ _)
  · split
    · exact .inl (headKept_completeIssue _ _ _)
    · exact headStands_ordinaryIssue _ _ _
  · split
    · exact .inl (headKept_completeIssue _ _ _)
    · exact headStands_ordinaryIssue _ _ _

theorem headStands_attemptIssue (o : Origin) (s : State) : HeadStands s (attemptIssue o s).state := by
  unfold attemptIssue
  split
  · split
    · exact .inl (headKept_continueFaultHold _ s)
    · exact .inl (headKept_judgeTransition _ _ _ s)
  · split
    · exact .inl (.of_queue rfl)
    · rename_i c _
      have h0 : HeadKept s (s.modSeg fun g => { g with copyRead := some c }) := .of_queue rfl
      exact (headStands_issueUnder o c _).imp h0.trans id

theorem headStands_makeIssues (n : Nat) (s : State) : HeadStands s (makeIssues n s) := by
  induction n generalizing s with
  | zero => exact .inl (.of_queue rfl)
  | succ n ih =>
    have h0 : HeadKept s (judgeRun s) := .of_queue (judgeRun_queue s)
    simp only [makeIssues]
    split
    · split
      · exact .inl h0
      · rename_i o _ _
        rcases headStands_attemptIssue o (judgeRun s) with h | ⟨hq, hr⟩
        · split
          · exact (ih _).imp (fun k => (h0.trans h).trans k) id
          · exact .inl (h0.trans h)
        · right
          split
          · rw [makeIssues_of_idle n (by rw [hr]; rfl)]; exact ⟨hq, hr⟩
          · exact ⟨hq, hr⟩
    · exact .inl h0

/-- Through the owed issues of a step a TRIGGERED head stays the head, or the run has ended and the queue is empty. -/
theorem headStands_issueOwed (s : State) : HeadStands s (issueOwed s) := headStands_makeIssues _ s

/-- The owed issues of a step, as statements speak of them. -/
theorem issueOwed_issuesMade (s : State) : IssuesMade s (issueOwed s) where
  fixed := by constructor <;> simp
  issued := issued_makeIssues _ s
  run h := by
    rcases h with h | h
    · rw [issueOwed_of_noIssue h]; exact ⟨rfl, rfl, rfl⟩
    · rw [issueOwed_of_idle h]; exact ⟨rfl, rfl, rfl⟩
  fields := (cacheIssued_makeIssues _ s).fields
  entries := (cacheIssued_makeIssues _ s).entries
  session := issueOwed_undisturbed s
  buffer := issueOwed_buffer s

end Sys2Proof.Machine
end

