-- ==== Sys2Proof/Laws/Memory.lean ====
section
/-! SUPPORT. The RAM: every write keeps the canonical form; a read gives what was last written there and nothing else changes. -/

namespace Sys2Proof.Machine

/-! ### The canonical form -/

theorem ramWfFrom_mono {m : List (Nat × RamByte)} {lo lo' : Nat} (h : ramWfFrom lo' m = true) (hl : lo ≤ lo') :
    ramWfFrom lo m = true := by
  cases m with
  | nil => rfl
  | cons p r =>
    obtain ⟨a, b⟩ := p
    simp only [ramWfFrom, Bool.and_eq_true, decide_eq_true_eq] at h ⊢
    exact ⟨⟨by omega, h.1.2⟩, h.2⟩

theorem writeRam_wfFrom {m : List (Nat × RamByte)} {lo a : Nat} (b : RamByte) (h : ramWfFrom lo m = true) (ha : lo ≤ a) :
    ramWfFrom lo (writeRam m a b) = true := by
  induction m generalizing lo with
  | nil =>
    unfold writeRam
    split
    · rfl
    · simp [ramWfFrom, ha, *]
  | cons p r ih =>
    obtain ⟨x, c⟩ := p
    simp only [ramWfFrom, Bool.and_eq_true, decide_eq_true_eq] at h
    unfold writeRam
    split
    · split
      · simp [ramWfFrom, h]
      · simp [ramWfFrom, h, ha, *]
    · split
      · split
        · exact ramWfFrom_mono h.2 (by omega)
        · subst_vars; simp [ramWfFrom, h, *]
      · simp only [ramWfFrom, Bool.and_eq_true, decide_eq_true_eq]
        exact ⟨h.1, ih h.2 (by omega)⟩

theorem writeRam_wf {m : List (Nat × RamByte)} (h : ramWf m = true) (a : Nat) (b : RamByte) :
    ramWf (writeRam m a b) = true := writeRam_wfFrom b h (Nat.zero_le a)

theorem writeLane_wf {m : List (Nat × RamByte)} (h : ramWf m = true) (a : Nat) (w : BusWord) (i : Nat) :
    ramWf (writeLane m a w i) = true := by
  unfold writeLane
  split
  · exact writeRam_wf h _ _
  · exact h

theorem writeWord_wf {m : List (Nat × RamByte)} (h : ramWf m = true) (a : Nat) (w : BusWord) :
    ramWf (writeWord m a w) = true :=
  writeLane_wf (writeLane_wf (writeLane_wf (writeLane_wf h a w 0) a w 1) a w 2) a w 3

theorem writeWords_wf {m : List (Nat × RamByte)} (h : ramWf m = true) (as : List Nat) (ws : List BusWord) :
    ramWf (writeWords m as ws) = true := by
  induction as generalizing m ws with
  | nil => simpa [writeWords]
  | cons a as ih =>
    cases ws with
    | nil => simpa [writeWords]
    | cons w ws => exact ih (writeWord_wf h a w) ws

/-! ### Reading what was written -/

theorem readRam_below {m : List (Nat × RamByte)} {lo a : Nat} (h : ramWfFrom lo m = true) (ha : a < lo) :
    readRam m a = ramDefault := by
  induction m generalizing lo with
  | nil => rfl
  | cons p r ih =>
    obtain ⟨x, c⟩ := p
    simp only [ramWfFrom, Bool.and_eq_true, decide_eq_true_eq] at h
    have hx : a ≠ x := by omega
    simp only [readRam, hx, if_false]
    exact ih h.2 (by omega)

theorem readRam_writeRam_same {m : List (Nat × RamByte)} {lo : Nat} (h : ramWfFrom lo m = true) (a : Nat) (b : RamByte) :
    readRam (writeRam m a b) a = b := by
  induction m generalizing lo with
  | nil =>
    unfold writeRam
    split
    · simp [readRam, *]
    · simp [readRam]
  | cons p r ih =>
    obtain ⟨x, c⟩ := p
    have h' := h
    simp only [ramWfFrom, Bool.and_eq_true, decide_eq_true_eq] at h
    unfold writeRam
    split
    · split
      · rename_i hl hb
        rw [readRam_below (lo := x) (by simp [ramWfFrom, h]) hl, hb]
      · simp [readRam]
    · split
      · split
        · rename_i hx hb
          rw [readRam_below h.2 (by omega), hb]
        · simp [readRam]
      · rename_i hx
        simp only [readRam, hx, if_false]
        exact ih h.2

theorem readRam_writeRam_other (m : List (Nat × RamByte)) {a x : Nat} (b : RamByte) (hx : x ≠ a) :
    readRam (writeRam m a b) x = readRam m x := by
  induction m with
  | nil =>
    unfold writeRam
    split <;> simp [readRam, hx]
  | cons p r ih =>
    obtain ⟨y, c⟩ := p
    unfold writeRam
    split
    · split
      · rfl
      · simp [readRam, hx]
    · split
      · subst_vars
        split <;> simp [readRam, hx]
      · simp only [readRam, ih]

theorem readRam_writeLane_other (m : List (Nat × RamByte)) {a i x : Nat} (w : BusWord) (hx : x ≠ a + i) :
    readRam (writeLane m a w i) x = readRam m x := by
  unfold writeLane
  split
  · exact readRam_writeRam_other m _ hx
  · rfl

/-- A word written changes no byte outside its four. -/
theorem readRam_writeWord_other (m : List (Nat × RamByte)) {a x : Nat} (w : BusWord) (hx : x < a ∨ a + 4 ≤ x) :
    readRam (writeWord m a w) x = readRam m x := by
  unfold writeWord
  rw [readRam_writeLane_other _ _ (by omega), readRam_writeLane_other _ _ (by omega),
    readRam_writeLane_other _ _ (by omega), readRam_writeLane_other _ _ (by omega)]

/-- Words written change no byte outside theirs. -/
theorem readRam_writeWords_other (m : List (Nat × RamByte)) {x : Nat} (as : List Nat) (ws : List BusWord)
    (hx : ∀ a ∈ as, x < a ∨ a + 4 ≤ x) : readRam (writeWords m as ws) x = readRam m x := by
  induction as generalizing m ws with
  | nil => simp [writeWords]
  | cons a as ih =>
    cases ws with
    | nil => simp [writeWords]
    | cons w ws =>
      simp only [writeWords]
      rw [ih _ _ (fun b hb => hx b (List.mem_cons_of_mem a hb)), readRam_writeWord_other _ _ (hx a List.mem_cons_self)]

end Sys2Proof.Machine
end

