-- ==== Sys2Proof/Tests/Slice0.lean ====
section
/-! SUPPORT. The model's own tests: the checks of well-formedness, the decoding of command words and record layouts written
out from their tables, one step of each row from the spec's own values, and for every statement with hypotheses a concrete
state and operands that meet them. -/

namespace Sys2Proof.Tests
open Sys2Proof Sys2Proof.Machine

set_option Elab.async false

/-! ### States -/

/-- The state a command leaves. -/
def after (c : Instr) (s : State) : State :=
  match exec c s with
  | .next t => t
  | .fault _ => s
  | .refused _ => s

/-- A time value from seconds and tick. -/
def time (sec tick : Nat) : Time := BitVec.ofNat 42 (sec * 1024 + tick)

/-- A whole word of good parity. -/
def word (n : Nat) : BusWord := goodWord (BitVec.ofNat 32 n)

/-- The same data with the parity bit of byte 0 inverted, and with three byte enables. -/
def badWord (n : Nat) : BusWord := { word n with parity := (word n).parity ^^^ 1 }
def partWord (n : Nat) : BusWord := { word n with enables := 7 }

/-- The entry segment of the worked sequence of spec 01 section 1.8. -/
def day : Segment :=
  { mode := .track, settle := .keep, exitKind := .never, exitParam := 0, holdCount := 1, minDwell := 1, next := none,
    interval := 614400, stretch := 2, readoutMargin := 200, elMin := 0, elMax := 1663, shutterMax := 1279, gainMax := 384,
    target := 1000, weightSet := 0, gainNum := 16, deadband := 4, slew := 64, rampRate := 0, biasStart := 0, biasRate := 0,
    guardZones := 0, guardStep := 0 }

/-- Its configuration: staging depth 1, stat wait 2,000 ms, daily window from 21,600 to 72,000. -/
def tuned : Tuning :=
  { depth := 1, statWait := 2000, streamSelect := 0, clipLevel := 4000, dailyFrom := 21600, dailyTo := 72000,
    weights := List.replicate 32 0x11111111 }

/-- Its frame 0. -/
def frame0 : Entry :=
  { frame := 0, due := time 71600 0, el := 1000, s := 1000, g := 0, shutterUs := 1703936, gainCode := 16, slot := 0,
    first := true, stretched := false, deferred := false, skipped := 0, armed := false, triggered := false,
    deadline := none, discounted := false, limit := .noLimit }

/-- Frame 0 triggered, with the deadline of the sequence. -/
def shot0 : Entry := { frame0 with armed := true, triggered := true, deadline := some (time 71603 721) }

/-- A cached entry. -/
def cached (slot : Nat) (st : EntryState) (c : Segment) : CacheEntry :=
  { slot := slot, state := st, record := some c, writtenDuringFetch := false, reason := none, awaiting := false }

/-- The part configured, with a plan loaded, its port ACTIVE, STOPPED at 71,000.000. -/
def rest : State :=
  { State.reset with
    tb := { State.reset.tb with time := time 71000 0, unset := false }
    port := { State.reset.port with retention := .active }
    sched := { State.reset.sched with runState := .stopped }
    expo := { el := 1000, held := none }
    cache := { State.reset.cache with entries := [cached 0 .valid day], loaded := some 0 }
    path :=
      { State.reset.path with
        plan := some { base := 0x100000, limit := 0x1007FF }, stat := some { base := 0x110000, limit := 0x1100FF }
        log := some { base := 0x120000, limit := 0x1200FF } }
    config := { State.reset.config with tuning := some tuned } }

/-- The run of the sequence with the entries given in its queue. -/
def runWith (q : List Entry) : State :=
  { rest with
    sched :=
      { rest.sched with
        runState := .running, depth := 1, dailyFrom := 21600, dailyTo := 72000, queue := q, nextFrame := 1,
        chainBase := some (time 71600 0) }
    seg := { rest.seg with current := some 0, frames := 1, entryTime := some (time 71600 0), copyRead := some day } }

def run : State := runWith [frame0]

/-- Changes of one field. -/
def args (a b : Word) (s : State) : State := { s with path := { s.path with arg1 := a, arg2 := b } }
def clock (sec tick : Nat) (s : State) : State := { s with tb := { s.tb with time := time sec tick } }
def inRun (r : RunState) (s : State) : State := { s with sched := { s.sched with runState := r } }
def inSession (st : SessionState) (s : State) : State := { s with session := { s.session with state := st } }
def phase (p : WakePhase) (s : State) : State := { s with session := { s.session with state := .waking, phase := p } }
def supplied (x : SupplyState) (s : State) : State := { s with supply := { s.supply with state := x } }
def ported (r : Retention) (s : State) : State := { s with port := { s.port with retention := r } }
def accessing (a : PortAccess) (s : State) : State := { s with port := { s.port with access := a } }
def heldInReset (s : State) : State := { s with pins := { s.pins with inReset := true } }
def onRc (ticks : Nat) (s : State) : State :=
  { s with tb := { s.tb with source := .rc, degraded := true, crystalRunning := false, sinceStop := ticks } }
def busyWith (k : LongKind) (s : State) : State := { s with cmd := { s.cmd with busy := some (1, k) } }

/-- An open record with the tag given. -/
def opened (tag : BitVec 16) : Assembling :=
  { stream := 0, tag := tag, values := List.replicate 64 800, presence := BitVec.allOnes 32, poisoned := false }

def assembling (r : Assembling) (s : State) : State := { s with stats := { s.stats with assembler := .assembling r } }

/-- A read of the engine, and a service whose last access it is. -/
def lastAccess (addr : Nat) : EngineAccess :=
  { write := false, addr := addr, words := [], length := 8, record := none, commit := false, group := none }

def serving (r : Request) (a : EngineAccess) (got : List BusWord) (s : State) : State :=
  { accessing (.engine a) s with
    engine :=
      { s.engine with
        service := some { request := r, todo := [a], rewrite := false, ended := false, got := got, opens := false, shown := 0 } } }

/-- The commit access of the status record. -/
def commit : EngineAccess :=
  { lastAccess 0x1FF200 with write := true, words := [word 1], length := 1, commit := true, record := some ⟨0x1FF200, 128⟩ }

/-- A pass-through read in progress with a STATUS_WRITE's commit access waiting, at a starvation count. -/
def crowded (count : Nat) : State :=
  { rest with
    port := { rest.port with access := .pass ⟨0x50000, .read 1⟩, waitEngine := some commit, starvation := count }
    engine :=
      { rest.engine with
        service := some { request := .status, todo := [commit], rewrite := false, ended := false, got := [], opens := false, shown := 8 } } }

/-- More entries beside those of the cache. -/
def beside (others : List CacheEntry) (s : State) : State :=
  { s with cache := { s.cache with entries := s.cache.entries ++ others } }

/-- The run with frame 0 METERED and one issue owed, its segment leading to the slot given and leaving at one frame. -/
def owing (next : Option Nat) (kind : ExitKind) (settle : Settle) (others : List CacheEntry) : State :=
  { runWith [] with
    sched := { (runWith []).sched with owed := [.retirement 0 true] }
    expo := { el := 1000, held := some ⟨0, 1000, 600, 0⟩ }
    cache :=
      { run.cache with
        entries := cached 0 .valid { day with next := next, exitKind := kind, exitParam := 1, settle := settle } :: others } }

/-- The words of a configuration block whose windows, numbers and thresholds are sound (spec 11 section 11.5). -/
def block (word6 word14 : Nat) : List Nat :=
  [0x100000, 0x1007FF, 0x110000, 0x1100FF, 0x120000, 0x1200FF, word6, 30 + 5 * 65536, 2000 + 120 * 65536,
   300 + 600 * 65536, 3600, 3600, 0, 7, word14, 100, 21600, 72000] ++ List.replicate 46 0

def soundWords : List BusWord := (block (1 + 4000 * 65536) (3400 + 3100 * 65536)).map word

/-! ### Well-formedness: an ill-formed command for each check -/

theorem test_wf_code_assigned : (Instr.unassignedCommandCode 0x0B 0).wellFormed = false := by decide
theorem test_wf_code_unassigned : (Instr.unassignedCommandCode 0x0C 0).wellFormed = true := by decide
theorem test_wf_damaged_whole : (Instr.commandWordDamaged (word 1)).wellFormed = false := by decide
theorem test_wf_damaged_empty : (Instr.commandWordDamaged { word 1 with enables := 0 }).wellFormed = false := by decide
theorem test_wf_argument_empty : (Instr.argumentWordWrite .first { word 1 with enables := 0 }).wellFormed = false := by decide
theorem test_wf_consumer_empty : (Instr.consumerIndexWrite { word 1 with enables := 0 }).wellFormed = false := by decide
theorem test_wf_plan_misaligned : (Instr.planWordWrite 0x100002 15).wellFormed = false := by decide
theorem test_wf_plan_empty : (Instr.planWordWrite 0x100004 0).wellFormed = false := by decide
theorem test_wf_header_empty : (Instr.statHeaderWord { word 1 with enables := 0 }).wellFormed = false := by decide
theorem test_wf_zone_empty : (Instr.statZoneWord 0 { word 1 with enables := 0 }).wellFormed = false := by decide
theorem test_wf_closing_empty : (Instr.statClosingWord { word 1 with enables := 0 }).wellFormed = false := by decide
theorem test_wf_burst_length : (Instr.passThroughArrival ⟨0, .read 3⟩).wellFormed = false := by decide
theorem test_wf_burst_misaligned : (Instr.passThroughArrival ⟨2, .read 1⟩).wellFormed = false := by decide
theorem test_wf_burst_past_end : (Instr.passThroughArrival ⟨0xFFFFFC, .read 2⟩).wellFormed = false := by decide

/-! ### Words written out from their layouts -/

/-- The opcode table gives no row any bits (L3). -/
theorem test_table_word : decodeTableWord 8 1 = none := by decide

/-- Command words: code in bits 7..0, sequence number in bits 15..8, bits 31..16 not read (spec 11 section 11.5). -/
theorem test_word_start : decodeCommandWord 0xFFFF2A06 = (.start, 0x2A) := by decide
theorem test_word_reset_part : decodeCommandWord 0x0000010B = (.resetPart, 1) := by decide
theorem test_word_unassigned : decodeCommandWord 0x0000050C = (.unassigned 0x0C, 5) := by decide

/-- A segment record written out field by field: format 3, TRACK, VOID, CLOCK, next 5, stretch 2; parameter 21,600, guard zones 9,
hold 3; interval 10,240; margin 200, dwell 4, gain 8/16, weight set 2; EL 10..1600; shutter 1279, gain 384, guard step 100; target
700, deadband 6, slew 40; ramp −3, bias −100, bias rate −1 (spec 11 section 11.5). -/
theorem test_segment_words :
    decodeSegment
        [0x02051603, 0x03125460, 0x00002800, 0x480400C8, 0x0640000A, 0xC98004FF, 0x00A062BC, 0xFFFE71FD] =
      some
        { mode := .track, settle := .void, exitKind := .clock, exitParam := 21600, holdCount := 3, minDwell := 4,
          next := some 5, interval := 10240, stretch := 2, readoutMargin := 200, elMin := 10, elMax := 1600,
          shutterMax := 1279, gainMax := 384, target := 700, weightSet := 2, gainNum := 8, deadband := 6, slew := 40,
          rampRate := -3, biasStart := -100, biasRate := -1, guardZones := 9, guardStep := 100 } := by decide +kernel

/-! ### One step of each row -/

/-- CONFIGURE is refused STATE in RUNNING and is the busy command in STOPPED (R176). -/
theorem test_configure_in_run : (after (.configure 9) run).cmd.lastDecided = some (9, .state) := by decide +kernel
theorem test_configure_at_rest : (after (.configure 9) rest).cmd.busy = some (9, .configure) := by decide +kernel

/-- A block of zero words has an empty-limit window and is INVALID (R177 test 2). -/
theorem test_config_read_of_zeros :
    (after .configReadComplete
        (serving .configRead (lastAccess 0x1FF1E0) (List.replicate 56 (word 0)) (busyWith .configure rest))).cmd.lastDecided =
      some (1, .invalid) := by decide +kernel

/-- SET_TIME sets seconds and tick; a tick of 1024 is out of range (R134). -/
theorem test_set_time : (after (.setTime 2) (args 71000 5 rest)).tb.time = time 71000 5 := by decide +kernel
theorem test_set_time_tick : (after (.setTime 2) (args 71000 1024 rest)).cmd.lastDecided = some (2, .range) := by decide +kernel

/-- TRIM_TIME by −1 tick borrows from the second (R135). -/
theorem test_trim_time : (after (.trimTime 2) (args 0xFFFFFFFF 0 rest)).tb.time = time 70999 1023 := by decide +kernel
theorem test_trim_time_range : (after (.trimTime 2) (args 2048 0 rest)).cmd.lastDecided = some (2, .range) := by decide +kernel

/-- A PLAN window of 2,048 bytes has 64 slots: slot 64 is out of range (R27, R35). -/
theorem test_load_plan_range : (after (.loadPlan 3) (args 64 0 rest)).cmd.lastDecided = some (3, .range) := by decide +kernel
theorem test_load_plan_fetches : (after (.loadPlan 3) (args 63 0 rest)).cache.fetch = some ⟨63, false⟩ := by decide +kernel

/-- SET_EV 2,000 is clamped to 1663 (R88). -/
theorem test_set_ev_clamps : (after (.setEv 3) (args 2000 0 rest)).expo.el = 1663 := by decide +kernel

/-- START of the worked sequence of spec 01 section 1.8: frame 0 due 71,600.000, EL 1000, FIRST_OF_SEGMENT. -/
theorem test_start_queue : (after (.start 4) rest).sched.queue = [frame0] := by decide +kernel
theorem test_start_chain_base : (after (.start 4) rest).sched.chainBase = some (time 71600 0) := by decide +kernel

/-- STOP abandons the queue and leaves the counters (R5). -/
theorem test_stop : (after (.stop 5) run).sched.queue = [] ∧ (after (.stop 5) run).sched.finish = .command := by
  decide +kernel

/-- ARM of the entry's frame arms it; of a frame not in the queue it is RANGE (R21). -/
theorem test_arm : (after (.arm 6) (args 0 0 run)).sched.queue = [{ frame0 with armed := true }] := by decide +kernel
theorem test_arm_range : (after (.arm 6) (args 1 0 run)).cmd.lastDecided = some (6, .range) := by decide +kernel

/-- SLEEP with the next wake 71,570 − 71,010 = 560 s ahead and off gap 60 s is of kind OFF (R115, spec 06 section 6.9). -/
theorem test_sleep_off : (after (.sleep 7) (clock 71010 0 run)).session.sleepKind = .off := by decide +kernel
theorem test_sleep_too_soon : (after (.sleep 7) (clock 71566 0 run)).cmd.lastDecided = some (7, .tooSoon) := by decide +kernel

/-- CLEAR with all bits and each bit alone (R43, R83, R119, R124, R133, R174). -/
theorem test_clear_flags :
    (after (.clear 8) (args 2 0 { rest with stats := { rest.stats with flags := StickyFlags.clear.raise .gap } })).stats.flags =
      .clear := by decide +kernel
theorem test_clear_plan_bit :
    (after .clearPlanBit { rest with cache := { rest.cache with fault := some (5, .rate) } }).cache.fault = none := by
  decide +kernel
theorem test_clear_statistics_bit :
    (after .clearStatisticsBit { rest with stats := { rest.stats with flags := StickyFlags.clear.raise .late } }).stats.flags =
      .clear := by decide +kernel
theorem test_clear_event_bit : (after .clearEventBit rest).session.cold = false := by decide +kernel
theorem test_clear_time_bit :
    (after .clearTimeBit { rest with tb := { rest.tb with source := .rc, degraded := true } }).tb.degraded = false := by
  decide +kernel

/-- RESET_PART with strap value 7 puts CONTROL at 0xFFF000 (R138) and is the last decided command. -/
theorem test_reset_part_control : (after (.resetPart 9 7) run).path.controlBase = 0xFFF000 := by decide +kernel
theorem test_reset_part_decided : (after (.resetPart 9 7) run).cmd.lastDecided = some (9, .ok) := by decide +kernel

/-- Code 0x0C is refused UNKNOWN (R171). -/
theorem test_unassigned : (after (.unassignedCommandCode 0x0C 1) rest).cmd.lastDecided = some (1, .unknown) := by decide +kernel

/-- A damaged command word and a damaged argument word count a BUS_ANOMALY (R140, R141). -/
theorem test_command_damaged : (after (.commandWordDamaged (badWord 6)) rest).session.counts.busAnomaly = 1 := by decide +kernel
theorem test_argument_taken : (after (.argumentWordWrite .third (word 77)) rest).path.arg3 = 77 := by decide +kernel
theorem test_argument_damaged :
    (after (.argumentWordWrite .third (partWord 77)) rest).session.counts.busAnomaly = 1 := by decide +kernel

/-- A LOG window of 256 bytes has 8 slots: index 7 is taken, 8 is a BUS_ANOMALY (R142, R168). -/
theorem test_consumer : (after (.consumerIndexWrite (word 7)) rest).path.consumer = some 7 := by decide +kernel
theorem test_consumer_beyond : (after (.consumerIndexWrite (word 8)) rest).session.counts.busAnomaly = 1 := by decide +kernel

/-- A word of slot 0 makes its VALID entry STALE; in a run the watched entry is fetched again at once (R40, R42). -/
theorem test_plan_word_at_rest :
    (after (.planWordWrite 0x10001C 8) rest).cache.entries.map (·.state) = [.stale] := by decide +kernel
theorem test_plan_word_in_run : (after (.planWordWrite 0x10001C 8) run).cache.fetch = some ⟨0, false⟩ := by decide +kernel

/-- Header, zone and closing words (R72 to R82). A zone value of 5,000 is taken as 4,095. -/
theorem test_header_of_other_stream : (after (.statHeaderWord (word 1)) rest).stats.assembler = .skipping := by decide +kernel
theorem test_zone_limited :
    (match (after (.statZoneWord 31 (word (5000 + 7 * 65536))) (assembling (opened 0) rest)).stats.assembler with
      | .assembling r => r.values.drop 62
      | .idle => []
      | .skipping => []) = [4095, 7] := by decide +kernel

/-- The record of frame 0 latched at 71,601.300: frame 0 retires METERED and frame 1 is issued, DEFERRED to 108,000.000 (spec 01
section 1.8). -/
theorem test_closing_retires_and_issues :
    (after (.statClosingWord (word 0)) (clock 71601 300 (assembling (opened 0) (runWith [shot0])))).sched.queue.map
        (fun e => (e.frame, e.due, e.deferred)) = [(1, time 108000 0, true)] := by decide +kernel
theorem test_closing_late :
    (after (.statClosingWord (word 0))
        (assembling (opened 0) { rest with sched := { rest.sched with lastRetired := some 0 } })).stats.flags =
      StickyFlags.clear.raise .late := by decide +kernel

/-- Frame 0 due at 71,600.000 and armed: TRIGGERED with deadline 71,603.721 (spec 01 section 1.8). -/
theorem test_due_triggers :
    (after .dueTime (clock 71600 0 (runWith [{ frame0 with armed := true }]))).sched.queue = [shot0] := by decide +kernel
theorem test_due_missed : (after .dueTime (clock 71600 0 run)).sched.misses = 1 := by decide +kernel

/-- Frame 0 at its deadline retires UNMETERED; a tick before it, not (R22). -/
theorem test_deadline : (after .statisticsDeadline (clock 71603 721 (runWith [shot0]))).sched.unmetered = 1 := by decide +kernel
theorem test_deadline_not_yet :
    (after .statisticsDeadline (clock 71603 720 (runWith [shot0]))).sched.queue = [shot0] := by decide +kernel

/-- A fetched record with ramp rate 40 above slew 24 fails RATE: the entry is FAULT with its previous copy kept (R30, R43; the case
of spec 02 section 2.12). -/
theorem test_fetch_rate_fault :
    (after .planFetchComplete
        (serving (.planFetch 0 0x100000) (lastAccess 0x100000) []
          { run with
            ram := writeWords [] [0x100000, 0x100004, 0x100008, 0x10000C, 0x100010, 0x100014, 0x100018, 0x10001C]
              ((encodeSegment { day with mode := .ramp, rampRate := 40, slew := 24 }).map goodWord)
            cache := { run.cache with entries := [cached 0 .fetching day], fetch := some ⟨0, false⟩ } })).cache.fault =
      some (0, .rate) := by decide +kernel

/-- A wake begins at 71,570.000, one wake lead of 30 s before frame 0, and not a tick before (R110, R111). -/
theorem test_scheduled_wake :
    (after .scheduledWake (clock 71570 0 (inSession .asleepStandby run))).pins.wake = true := by decide +kernel
theorem test_scheduled_wake_not_yet :
    (after .scheduledWake (clock 71569 1023 (inSession .asleepStandby run))).session.state = .asleepStandby := by
  decide +kernel

/-- An idle wake an hour after the sleep (R110). -/
theorem test_idle_wake :
    (after .idleWake
        { inSession .asleepStandby rest with
          session := { rest.session with state := .asleepStandby, sleepTime := some 0 }
          tb := { rest.tb with elapsed := 3600 * 1024 } }).session.cause = .idle := by decide +kernel

/-- The reset hold and the WAKE pulse end (R112): the lines are released and a sample taken. -/
theorem test_reset_hold : (after (.resetHoldExpiry 3650) (phase .resetHold rest)).pins.ctrlReset = false := by decide +kernel
theorem test_wake_pulse_end : (after (.wakePulseEnd 3640) (phase .wakePulse rest)).supply.lastSample = 3640 := by decide +kernel

/-- The session timer forces an OFF sleep (R117). -/
theorem test_session_timer :
    (after (.sessionTimerExpiry 3650) { rest with tb := { rest.tb with elapsed := 614400 } }).session.state = .asleepOff := by
  decide +kernel

/-- The alert holdoff timer stops (R120). -/
theorem test_alert_holdoff :
    (after .alertHoldoffExpiry { rest with session := { rest.session with holdoff := some 0 } }).session.holdoff = none := by
  decide +kernel

/-- In CRITICAL a recheck of 3,200 mV, crit plus hyst, leads to LOW; 3,199 mV does not (R128, R129). -/
theorem test_recheck_recovers :
    (after (.recheckTimerExpiry 3200)
        { rest with supply := { state := .critical, lastSample := 3000, recheck := some 0 } }).supply.state = .low := by
  decide +kernel
theorem test_recheck_stays :
    (after (.recheckTimerExpiry 3199)
        { rest with supply := { state := .critical, lastSample := 3000, recheck := some 0 } }).supply.recheck =
      some 614400 := by decide +kernel

/-- The crystal stops, and is judged running after 1,024 RC ticks, not after 1,023 (R132). -/
theorem test_crystal_stop : (after .crystalStop rest).tb.source = .rc := by decide +kernel
theorem test_crystal_running :
    (after .crystalRunning (onRc 1024 rest)).tb.crystalRunning = true ∧
      (after .crystalRunning (onRc 1023 rest)).tb.crystalRunning = false := by decide +kernel

/-- A START accepted while CRITICAL is suspended when its issue is made, to resume in RUNNING, the state it chose, though the
copy of the segment has since failed its check (R7, R130). -/
theorem test_put_off_suspension :
    (settle
        { inRun .faultHold (supplied .critical run) with
          sched :=
            { (inRun .faultHold run).sched with queue := [], owed := [.start true], startState := some .running }
          cache := { run.cache with entries := [{ cached 0 .fault day with reason := some .range }] } }).sched.resumeState =
      some .running := by decide +kernel

/-- A run of D = 2 with frame 1 ISSUED and one issue owed, in the first of 13 segments that each leave for the next at one frame under
VOID, the last under NEVER. -/
def voidChain : State :=
  let link := fun i : Nat =>
    cached i .valid { day with exitKind := .frames, exitParam := 1, settle := .void, next := some (i + 1) }
  let r := runWith [{ frame0 with frame := 1, due := time 71660 0 }]
  { r with
    sched :=
      { r.sched with depth := 2, nextFrame := 2, owed := [.retirement 0 false], latestKept := some (time 71600 0, 1000) }
    cache := { r.cache with entries := (List.range 12).map link ++ [cached 12 .valid day] } }

/-- Each transition of the chain is taken in the one step, each issue beginning when the one before has appended its entry (R12). -/
theorem test_void_chain :
    ((settle voidChain).seg.current, (settle voidChain).sched.voids, (settle voidChain).sched.nextFrame,
        (settle voidChain).sched.owed, (settle voidChain).sched.queue.length) = (some 12, 12, 15, [], 2) := by decide +kernel

/-- Strap value 0 places CONTROL at 0x1FF000 (spec 00 section 1.4); a battery below crit is CRITICAL at power-on (R126). -/
theorem test_power_on_control : (after (.powerOnReset ⟨0, 3650, true, true⟩) run).path.controlBase = 0x1FF000 := by
  decide +kernel
theorem test_power_on_critical : (after (.powerOnReset ⟨0, 3099, true, true⟩) run).supply.state = .critical := by decide +kernel

/-- An arriving write is granted by a free ACTIVE port; a read of an order slot under write is held (R145, R156). -/
theorem test_arrival :
    (after (.passThroughArrival ⟨0x300000, .write [word 5]⟩) rest).port.access =
      .pass ⟨0x300000, .write [word 5]⟩ := by decide +kernel
theorem test_arrival_held :
    (after (.passThroughArrival ⟨0x1FF280, .read 8⟩)
        { rest with path := { rest.path with underWrite := [⟨0x1FF280, 32⟩] } }).path.held =
      some ⟨0x1FF280, .read 8⟩ := by decide +kernel

/-- In power-on reset a word reaches memory and no owner (R147). A burst that writes the command word and its arguments: the arguments
are latched first (R141). Spec 02 section 2.12: eight words written to a watched slot leave its entry FETCHING and unmarked. -/
theorem test_completion_hands_on :
    (after .passThroughCompletion (accessing (.pass ⟨0x1FF004, .write [word 7]⟩) (heldInReset rest))).path.arg1 = 0 ∧
      (after .passThroughCompletion
        (accessing (.pass ⟨0x1FF000, .write [word 0x0102, word 500, word 7, word 0]⟩) rest)).tb.time = time 500 7 ∧
      (let t := after .passThroughCompletion (accessing (.pass ⟨0x100000, .write (List.replicate 8 (word 3))⟩) run)
       (t.cache.entries.map fun e => (e.state, e.writtenDuringFetch)) = [(.fetching, false)] ∧
         t.cache.fetch = some ⟨0, false⟩) := by
  decide +kernel

/-- Spec 09 section 9.9: P2, made as the first transaction completes, is granted with E waiting, count 1; at count 4 E goes first and P2
waits on. -/
theorem test_back_to_back :
    let p2 : Transaction := ⟨0x300000, .write [word 5]⟩
    let s := fun count => after .passThroughCompletion (after (.passThroughArrival p2) (crowded count))
    ((s 0).port.access, (s 0).port.starvation) = (.pass p2, 1) ∧
      ((s 4).port.access, (s 4).port.starvation, (s 4).port.waitPass) = (.engine commit, 0, some p2) := by decide +kernel

/-- An engine write puts its words in memory, little-endian (spec 00 section 1.7). -/
theorem test_engine_write :
    readRam
        (after .engineAccessComplete
          (accessing (.engine { lastAccess 0x120000 with write := true, words := [word 0x11223344], length := 1 }) rest)).ram
        0x120001 = 0x133 := by decide +kernel

/-- The retention entry closes a CLOSING session; the exit makes the port ACTIVE (R114, R154). -/
theorem test_retention_entry :
    (after (.retentionEntryComplete 3640)
        { ported .entering (inSession .closing rest) with
          session := { rest.session with state := .closing, sleepKind := .off, timer := none } }).pins.pwrEn = false := by
  decide +kernel
theorem test_retention_exit : (after .retentionExitComplete (ported .exiting rest)).port.retention = .active := by decide +kernel

/-- The TRIGGER pulse ends (R19). -/
theorem test_trigger_pulse_end :
    (after .triggerPulseEnd { rest with pins := { rest.pins with trigger := true } }).pins.trigger = false := by decide +kernel

/-- The power-on state asked for by withFetchWord is unchanged: no row has bits (L3). -/
theorem test_with_fetch_word : State.reset.withFetchWord 8 1 = State.reset := by decide +kernel

/-! ### Witnesses: for each statement with hypotheses, states and operands that meet those of each of its clauses -/

/-- A queue with two commands. -/
theorem witness_StepRunsFrontCommand :
    { rest with pending := [.stop 1, .start 2] }.pending = Instr.stop 1 :: [.start 2] := by decide +kernel

/-- In the states left: an ACTIVE port with the session CLOSING and an access in progress, and without one, which is then ENTERING; an
ACTIVE port without an access; a RETAINED port. -/
theorem witness_EveryCommandCompletes :
    let left := after .triggerPulseEnd
    let closing := left (accessing (.pass ⟨0, .read 1⟩) (inSession .closing rest))
    closing.port.retention = .active ∧ closing.session.state = .closing ∧
      (left (inSession .closing rest)).port.retention = .entering ∧
      ((left rest).port.retention = .active ∧ (left rest).port.access = .noAccess) ∧
      (left (ported .retained rest)).port.retention = .retained := by decide +kernel

/-- Held in reset; each timed event due with none before it in the order: the crystal silent at power-on, frame 0 at its due time and at
its deadline, and each timer at its expiry; nothing due a tick before frame 0 is; and a standby sleep one tick before its scheduled and an
OFF sleep one tick before its idle wake time. -/
theorem witness_IdleStepIsOneTick :
    let silent := { rest with tb := { rest.tb with crystalRunning := false } }
    let sessionOut :=
      { rest with session := { rest.session with state := .open, timer := some rest.tb.elapsed, holdoff := some rest.tb.elapsed } }
    let recheckOut := { rest with supply := { rest.supply with state := .critical, recheck := some rest.tb.elapsed } }
    let holdoffOut := { rest with session := { rest.session with holdoff := some rest.tb.elapsed } }
    let quiet := clock 71599 1023 run
    let dozing := clock 71569 1023 { run with session := { run.session with state := .asleepStandby, sleepKind := .standby } }
    let off :=
      { rest with
        tb := { rest.tb with elapsed := 3600 * 1024 - 1 }
        session := { rest.session with state := .asleepOff, sleepKind := .off, sleepTime := some 0 } }
    ((heldInReset rest).pending = [] ∧ (heldInReset rest).pins.inReset = true) ∧
      (silent.pending = [] ∧ silent.pins.inReset = false ∧ silent.tb.source = .crystal ∧ silent.tb.crystalRunning = false) ∧
      (clock 71600 0 run).tb.crystalRunning = true ∧ frame0.due.toNat ≤ (clock 71600 0 run).tb.time.toNat ∧
      (clock 71603 721 (runWith [shot0])).sched.queue = [shot0] ∧
      shot0.deadline = some (clock 71603 721 (runWith [shot0])).tb.time ∧
      (rest.sched.queue = [] ∧ sessionOut.session.state = .open ∧ sessionOut.session.timer = some sessionOut.tb.elapsed ∧
        rest.session.timer = some 614400 ∧ ¬(rest.tb.elapsed - 614400).toNat < 2 ^ 47 ∧ recheckOut.supply.recheck = some recheckOut.tb.elapsed ∧
        rest.supply.recheck = none ∧ holdoffOut.session.holdoff = some holdoffOut.tb.elapsed) ∧
      (quiet.pending = [] ∧ quiet.pins.inReset = false ∧ (dueEvent quiet).isNone = true) ∧
      (dozing.session.asleep = true ∧ dozing.supply.state ≠ .critical ∧ dozing.sched.runState.capturing = true ∧
        dozing.sched.queue.find? (fun x => !x.triggered) = some frame0 ∧ (dueEvent dozing).isNone = true ∧
        frame0.due.toNat = (dozing.tb.time + 1).toNat + dozing.config.settings.wakeLead * 1024 ∧
        (match step dozing with
          | .next t => t.session.state
          | .fault _ => .open
          | .refused _ => .open) = .waking) ∧
      (off.session.asleep = true ∧ off.supply.state ≠ .critical ∧ off.sched.runState.resting = true ∧
        off.config.settings.idleWake ≠ 0 ∧ (dueEvent off).isNone = true ∧ off.session.sleepTime = some 0 ∧
        off.tb.elapsed + 1 = 0 + BitVec.ofNat 48 (off.config.settings.idleWake * 1024)) ∧
      (NoIssue dozing ∧ NoIssue off) ∧ NoFetch dozing ∧ NoFetch off := by
  refine ⟨?_, ?_, ?_, ?_, ?_, ?_, ?_, ?_, ?_, ?_, ⟨⟨.inl rfl, ?_, ?_⟩, .inl rfl, ?_, ?_⟩, .inr ⟨rfl, ?_⟩, .inr ⟨rfl, ?_⟩⟩ <;> decide +kernel

/-- A command word of every code from 0 to 12; the unassigned codes beside the assigned ones and the first assigned; a segment with the
greatest parameter that NEVER leaves unjudged and the greatest next slot that RANGE leaves to LINK, and one that meets LINK; each record
with its fields at their ends. -/
theorem witness_RecordLayouts :
    let c : Segment := { day with exitParam := 131071, next := some 126, mode := .ramp, rampRate := -64 }
    let d : Segment := { c with next := some 63 }
    let o : OrderContent := { orderContent frame0 true with el := 2047, gainCode := 2047, slot := 127, skipped := 65535 }
    let l : LogContent := ⟨frame0, .metered, .noCause, some 1023, -2048, true, true, 8191⟩
    (∀ code ∈ List.range 13, field (BitVec.ofNat 32 (0xFFFF0100 + code)) 0 8 = code) ∧
    ((∀ code, CommandName.unassigned 0x0C = .unassigned code → codeAssigned code = false) ∧
      (∀ code, CommandName.unassigned 0 = .unassigned code → codeAssigned code = false) ∧
      (∀ code, CommandName.configure = .unassigned code → codeAssigned code = false)) ∧
    (∀ n, c.next = some n → n < 127) ∧
    (c.inRange = true ∧ c.exitParam < 2 ^ 17 ∧ d.inRange = true ∧ d.linkIn 64 = true ∧ d.elMin ≤ d.hi ∧
      d.rampRate.natAbs ≤ d.slew) ∧
    (o.el < 2048 ∧ o.gainCode < 2048 ∧ o.slot < 128 ∧ o.shutterUs < 2 ^ 32 ∧ o.skipped < 65536) ∧
    (l.entry.el < 2048 ∧ l.entry.gainCode < 2048 ∧ l.entry.slot < 128 ∧ l.entry.shutterUs < 2 ^ 32 ∧
      l.entry.skipped < 65536 ∧ -2048 ≤ l.error ∧ l.error ≤ 2047 ∧ l.sample < 8192) ∧
    (∀ b, l.bl = some b → b < 1024) ∧
    (run.expo.el < 2048 ∧ run.supply.lastSample < 8192 ∧ run.sched.queue.length < 4 ∧ run.engine.producer < 4096 ∧
      run.engine.lost < 2 ^ 32 ∧ run.sched.triggers < 2 ^ 32 ∧ run.sched.misses < 2 ^ 32 ∧ run.sched.voids < 2 ^ 32 ∧
      run.sched.unmetered < 2 ^ 32 ∧ run.sched.skips < 2 ^ 32) ∧
    (∀ n, run.seg.current = some n → n < 128) ∧ (∀ f, run.cache.fault = some f → f.1 < 128) ∧
    (∀ k, run.session.counts.get k < 65536) ∧ decodeSegment (encodeSegment c) = some c :=
  ⟨by decide +kernel, ⟨fun _ h => by cases h; decide, fun _ h => by cases h; decide, fun _ h => by cases h⟩, fun _ h => by cases h; decide,
    by decide +kernel, by decide +kernel, by decide +kernel, fun _ h => by cases h; decide, by decide +kernel,
    fun _ h => (by cases h; decide), fun _ h => (by cases h), fun k => (by cases k <;> decide), by decide +kernel⟩

/-- A wake in its STATUS step with that access in progress. -/
def wakingStatus : State :=
  { phase .status rest with
    port := { rest.port with access := .engine commit }
    engine :=
      { rest.engine with
        service := some { request := .status, todo := [commit], rewrite := false, ended := false, got := [], opens := true, shown := 8 } } }

/-- Two ORDER_WRITE for frames 0 and 1, the second in service and then the first. -/
def orders (first : Bool) : State :=
  let content := fun n : Nat => orderContent { frame0 with frame := BitVec.ofNat 32 n } false
  let s := { run with sched := { run.sched with queue := [{ frame0 with frame := 1 }], nextFrame := 2 } }
  { s with
    engine :=
      { s.engine with
        waiting := [.order (content (if first then 1 else 0))]
        service :=
          some
            { request := .order (content (if first then 0 else 1)), todo := [commit], rewrite := false, ended := false,
              got := [], opens := false, shown := 0 } } }

/-- An ORDER_WRITE of frame 2 while those of frame 0, retired, and of frame 1, ISSUED, stand: the first gives up its place, waiting and in
service, with its access in progress and without. Of frame 4 it replaces frame 0's. A STATUS_WRITE in service, waiting and absent.
Requests of each kind at the front of the queue, with the LOG window's ring of 8 free, full with the consumer index not written and with
it written, and without a window. -/
theorem witness_RecordEngineServesRequests :
    let content := fun n : Nat => orderContent { frame0 with frame := BitVec.ofNat 32 n } false
    let front := fun r : Request => { run with engine := { run.engine with waiting := [r] } }
    let log : LogContent := ⟨frame0, .missed, .notArmed, none, 0, false, false, 3650⟩
    let full := { front (.log log) with path := { run.path with consumer := some 1 } }
    (((orders false).engine.queued.filterMap Request.orderContent?) = [content 1, content 0] ∧
      ((orders true).engine.queued.filterMap Request.orderContent?) = [content 0, content 1] ∧
      (∀ e ∈ (orders true).sched.queue, e.frame ≠ (content 0).frame) ∧
      (∃ e ∈ (orders true).sched.queue, e.frame = (content 1).frame ∧ e.triggered = false) ∧
      orderSlot (content 2).frame ≠ orderSlot (content 1).frame ∧ orderSlot (content 2).frame ≠ orderSlot (content 0).frame ∧
      (orders false).engine.inService ≠ some (.order (content 0)) ∧
      (orders true).engine.service.map (fun sv => (sv.ended, sv.request)) = some (false, .order (content 0)) ∧
      (orders true).port.engineBusy = false ∧ (accessing (.engine commit) (orders true)).port.engineBusy = true) ∧
    ((orders false).engine.waiting = [] ++ .order (content 0) :: [] ∧
      orderSlot (content 0).frame = orderSlot (content 4).frame ∧
      ((front .status).engine.queued.filterMap Request.orderContent?).length < 2) ∧
    (wakingStatus.engine.service.map (·.request) = some .status ∧ (front .status).engine.service = none ∧
      Request.status ∈ (front .status).engine.waiting ∧ Request.status ∉ run.engine.waiting) ∧
    (run.engine.service = none ∧ (orders true).engine.service.isSome = true ∧
      (∀ r ∈ [Request.order (content 0), .status, .log log, .planFetch 0 0x100000, .configRead],
        chooseRequest (front r).engine.waiting = some r) ∧
      (run.path.log = some { base := 0x120000, limit := 0x1200FF } ∧ min ((0x1200FF - 0x120000 + 1) / 32) 4096 = 8 ∧
        run.path.consumer = none ∧ (run.engine.producer + 1) % 8 ≠ 0 ∧
        ({ run.engine with producer := 7 }.producer + 1) % 8 = run.path.consumer.getD 0 ∧
        (full.engine.producer + 1) % 8 = full.path.consumer.getD 0 ∧ State.reset.path.log = none)) := by
  decide +kernel

theorem witness_BusyAndUnknownCommandsAreRefused :
    rest.cmd.busy = none ∧ rest.pins.inReset = false ∧ rest.session.state = .open ∧
      (inSession .closing rest).session.state ≠ .open ∧ (busyWith .loadPlan rest).cmd.busy.isSome = true ∧
      (busyWith .loadPlan rest).pins.inReset = false ∧ (heldInReset rest).pins.inReset = true := by decide +kernel

/-- SET_TIME in a run; at rest with tick 1024 and with tick 1023; before the first CONFIGURE. -/
theorem witness_SetTimeReplacesTheTime :
    (run.cmd.busy = none ∧ run.pins.inReset = false ∧ run.sched.runState ≠ .unconfigured ∧ run.sched.runState ≠ .stopped) ∧
      (rest.cmd.busy = none ∧ rest.pins.inReset = false ∧ rest.sched.runState = .stopped ∧ State.reset.sched.runState = .unconfigured ∧
        1023 < (args 0 1024 rest).path.arg2.toNat ∧ (args 0 1023 rest).path.arg2.toNat ≤ 1023) := by decide +kernel

/-- TRIM_TIME by −2049, 2048 and below zero; by −2048 and 2047 with frame 0 still ahead; past it, and past two entries, in
SUSPENDED; past it in an awake run, armed and not; asleep, up to the wake time of frame 0 and past frame 0 itself. -/
theorem witness_TrimTimeMovesTheTime :
    (run.cmd.busy = none ∧ run.pins.inReset = false ∧ (args 0xFFFFF7FF 0 run).path.arg1.toInt < -2048 ∧
        2047 < (args 0x800 0 run).path.arg1.toInt ∧
        ((clock 0 1 run).tb.time.toNat : Int) + (args 0xFFFFFFFE 0 run).path.arg1.toInt < 0) ∧
      (-2048 ≤ (args 0xFFFFF800 0 run).path.arg1.toInt ∧ (args 0x7FF 0 run).path.arg1.toInt ≤ 2047 ∧
        0 ≤ ((clock 2 0 run).tb.time.toNat : Int) + (args 0xFFFFF800 0 run).path.arg1.toInt ∧
        (∀ e ∈ run.sched.queue, ¬(e.triggered = false ∧ e.due.toNat ≤ (time 71001 1023).toNat)) ∧
        run.session.asleep = false ∧ rest.sched.runState.capturing = false) ∧
      (let s := args 1 0 (clock 71599 1023 (inRun .suspended run))
       let t := { s with sched := { s.sched with queue := [frame0, { frame0 with frame := 1 }] } }
       s.sched.runState = .suspended ∧ s.sched.queue = [frame0] ∧ frame0.triggered = false ∧
         (s.tb.time.toNat : Int) + s.path.arg1.toInt = frame0.due.toNat ∧
         t.sched.queue = [frame0, { frame0 with frame := 1 }]) ∧
      (run.sched.runState.capturing = true ∧ run.sched.queue = [frame0] ∧ ¬(run.session.state = .open ∧ frame0.armed = true) ∧
        (runWith [{ frame0 with armed := true }]).session.state = .open ∧ run.config.tuning = some tuned) ∧
      (let s := args 1 0 (clock 71569 1023 (inSession .asleepStandby run))
       s.cmd.busy = none ∧ s.pins.inReset = false ∧ s.session.asleep = true ∧ s.supply.state ≠ .critical ∧
         s.sched.runState.capturing = true ∧ (s.sched.queue.find? fun x => !x.triggered) = some frame0 ∧
         (frame0.due.toNat : Int) = s.tb.time.toNat + s.path.arg1.toInt + s.config.settings.wakeLead * 1024) := by
  decide +kernel

/-- SET_EV in a run; at rest with 0, 1663, 1664 and −1. -/
theorem witness_SetEvSetsTheExposureLevel :
    run.cmd.busy = none ∧ run.pins.inReset = false ∧ run.sched.runState ≠ .stopped ∧ rest.sched.runState = .stopped ∧
      (args 0 0 rest).path.arg1.toInt = 0 ∧ (args 1663 0 rest).path.arg1.toInt = 1663 ∧
      1663 < (args 1664 0 rest).path.arg1.toInt ∧ (args 0xFFFFFFFF 0 rest).path.arg1.toInt < 0 := by decide +kernel

/-- START in a run, without a plan, with the time unset, with tick 1024, and accepted with tick 1023 at depths 1 and 2. -/
theorem witness_StartJudgedAndBegun :
    run.cmd.busy = none ∧ run.pins.inReset = false ∧ run.sched.runState ≠ .stopped ∧
      { rest with cache := { rest.cache with loaded := none } }.cache.loaded = none ∧
      rest.sched.runState = .stopped ∧ rest.cache.loaded = some 0 ∧ rest.config.tuning = some tuned ∧
      { rest with tb := { rest.tb with unset := true } }.tb.unset = true ∧ rest.tb.unset = false ∧
      1023 < (args 0 1024 rest).path.arg2.toNat ∧ (args 0 1023 rest).path.arg2.toNat ≤ 1023 ∧
      1 ≤ tuned.depth ∧ { tuned with depth := 2 }.depth ≤ 2 := by decide +kernel

/-- The START of the worked sequence, without and with a requested first due time. -/
theorem witness_StartIssuesTheFirstOrder :
    rest.cmd.busy = none ∧ rest.pins.inReset = false ∧ rest.sched.runState = .stopped ∧ rest.sched.queue = [] ∧ rest.cache.loaded = some 0 ∧
      rest.config.tuning = some tuned ∧ rest.tb.unset = false ∧ tuned.depth = 1 ∧ rest.supply.state ≠ .critical ∧
      rest.cache.entry? 0 = some (cached 0 .valid day) ∧ rest.cache.faultAt day.next = false ∧
      (args 0 0 rest).path.arg2.toNat ≤ 1023 ∧ (args 0 0 rest).path.arg1 = 0 ∧ (args 0 0 rest).path.arg2 = 0 ∧
      (args 0 1023 rest).path.arg2.toNat ≤ 1023 ∧
      ¬((args 0 1023 rest).path.arg1 = 0 ∧ (args 0 1023 rest).path.arg2 = 0) ∧
      (supplied .low rest).supply.state = .low ∧ rest.sched.skips ≤ 4294967295 := by decide +kernel

theorem witness_StopAbandonsTheQueue :
    rest.cmd.busy = none ∧ rest.pins.inReset = false ∧ rest.sched.runState = .stopped ∧ State.reset.sched.runState = .unconfigured ∧
      run.cmd.busy = none ∧ run.pins.inReset = false ∧ run.sched.runState = .running ∧ (inRun .faultHold run).sched.runState = .faultHold ∧
      (inRun .suspended run).sched.runState = .suspended := by decide +kernel

/-- ARM of a frame not in the queue, of a TRIGGERED and of an ISSUED entry. -/
theorem witness_ArmMarksAnIssuedEntry :
    run.cmd.busy = none ∧ run.pins.inReset = false ∧ (∀ e ∈ (args 1 0 run).sched.queue, e.frame ≠ (args 1 0 run).path.arg1) ∧
      ((args 0 0 (runWith [shot0])).sched.queue.find? fun x => x.frame == 0) = some shot0 ∧ shot0.triggered = true ∧
      ((args 0 0 run).sched.queue.find? fun x => x.frame == 0) = some frame0 ∧ frame0.triggered = false := by decide +kernel

/-- SLEEP outside OPEN, with an issue owed, and at the boundaries of min sleep 5 s and off gap 60 s before the wake at 71,570; of
a run at rest, of a triggered queue, in SUSPENDED, and with idle wake 0. -/
theorem witness_SleepChoosesItsKind :
    run.cmd.busy = none ∧ run.pins.inReset = false ∧ (inSession .closing run).session.state ≠ .open ∧ run.session.state = .open ∧
      { run with sched := { run.sched with owed := [.retirement 0 true] } }.sched.owed ≠ [] ∧ run.sched.owed = [] ∧
      run.sched.runState.capturing = true ∧ (run.sched.queue.find? fun x => !x.triggered) = some frame0 ∧
      ((frame0.due.toNat : Int) - 30 * 1024 - (clock 71565 0 run).tb.time.toNat = 5 * 1024 ∧
        (frame0.due.toNat : Int) - 30 * 1024 - (clock 71510 0 run).tb.time.toNat = 60 * 1024 ∧
        run.config.settings.wakeLead = 30 ∧ run.config.settings.minSleep = 5 ∧ run.config.settings.offGap = 60) ∧
      rest.sched.runState.resting = true ∧ rest.config.settings.idleWake ≠ 0 ∧
      (∀ e ∈ (runWith [shot0]).sched.queue, e.triggered = true) ∧ (inRun .suspended run).sched.runState = .suspended ∧
      (let s := { rest with config := { rest.config with settings := { rest.config.settings with idleWake := 0 } } }
       s.sched.runState.resting = true ∧ s.config.settings.idleWake = 0) := by decide +kernel

theorem witness_ClearActsByItsBits :
    rest.cmd.busy = none ∧ rest.pins.inReset = false ∧ { rest.tb with source := .rc }.source = .rc ∧
      rest.tb.crystalRunning = true ∧ rest.tb.source = .crystal ∧ (onRc 0 rest).tb.crystalRunning = false := by decide +kernel

/-- LOAD_PLAN in a run, of slot 64 and of slot 63, with and without a fetch in flight. -/
theorem witness_LoadPlanBeginsAWalk :
    run.cmd.busy = none ∧ run.pins.inReset = false ∧ run.sched.runState ≠ .stopped ∧ rest.sched.runState = .stopped ∧
      State.reset.path.plan = none ∧ rest.path.plan = some { base := 0x100000, limit := 0x1007FF } ∧
      rest.path.planSlots ≤ (args 64 0 rest).path.arg1.toNat ∧ (args 63 0 rest).path.arg1.toNat < rest.path.planSlots ∧
      { rest.cache with fetch := some ⟨5, false⟩ }.fetch = some ⟨5, false⟩ ∧ rest.cache.fetch = none := by decide +kernel

/-- The run with a fetch of slot 0 at its last read, its memory holding the record given. -/
def fetching (c : Segment) (s : State) : State :=
  serving (.planFetch 0 0x100000) (lastAccess 0x100000) []
    { s with
      ram := writeWords [] [0x100000, 0x100004, 0x100008, 0x10000C, 0x100010, 0x100014, 0x100018, 0x10001C]
        ((encodeSegment c).map goodWord)
      cache := { s.cache with entries := [cached 0 .fetching day], fetch := some ⟨0, false⟩ } }

theorem lastRead_fetching (c : Segment) (s : State) :
    LastRead (fetching c s) (.planFetch 0 0x100000) ([] ++ readWords (fetching c s).ram (lastAccess 0x100000).addrs) :=
  ⟨_, _, rfl, rfl, rfl, rfl, rfl, rfl, rfl, rfl, rfl⟩

/-- The reason a check or a judgement fails, if it does. -/
def reasonOf {ε α : Type} : Except ε α → Option ε
  | .ok _ => none
  | .error r => some r

/-- A segment that fails RANGE: hold count 0. -/
def noHold : Segment := { day with holdCount := 0 }

/-- The words a fetch in progress will have read. -/
def fetchedWords (s : State) : List BusWord := readWords s.ram (lastAccess 0x100000).addrs

/-- The tests of a record, each at its boundary: a bad byte, the format code 4 and a mode code of 3; a hold count of 0, and a readout margin
of 1,042 ms at an interval of 1,041,015 µs where 1,041 ms passes; el_min one above el_max; a ramp rate one above the slew; and the next
slot 64 of 64 where 63 passes. -/
theorem witness_SegmentTests :
    let words := fun c : Segment => (encodeSegment c).map goodWord
    let check := fun c : Segment => checkSegment 64 (words c)
    let reason := fun c : Segment => reasonOf (check c)
    let first := fun n : Nat => goodWord (BitVec.ofNat 32 n) :: (words day).tail
    let tight : Segment := { day with interval := 1066, readoutMargin := 1041 }
    (reasonOf (checkSegment 64 (badWord 0x007F5203 :: (words day).tail)) = some .format ∧ (badWord 0x007F5203).good = false ∧
        field 0x007F5204 0 8 ≠ 3 ∧ reasonOf (checkSegment 64 (first 0x007F5204)) = some .format ∧
        field 0x007F5303 8 2 = 3 ∧ reasonOf (checkSegment 64 (first 0x007F5303)) = some .format) ∧
      (noHold.inRange = false ∧ reason noHold = some .range ∧ tight.inRange = true ∧
        { tight with readoutMargin := 1042 }.inRange = false ∧ reason { tight with readoutMargin := 1042 } = some .range) ∧
      (let c := { day with elMin := 1001, elMax := 1000 }
       c.inRange = true ∧ ¬c.elMin ≤ c.hi ∧ reason c = some .bounds) ∧
      (let c := { day with rampRate := 65 }
       c.inRange = true ∧ c.elMin ≤ c.hi ∧ ¬c.rampRate.natAbs ≤ c.slew ∧ reason c = some .rate) ∧
      (let c := { day with next := some 64 }
       c.inRange = true ∧ c.elMin ≤ c.hi ∧ c.rampRate.natAbs ≤ c.slew ∧ c.linkIn 64 = false ∧ reason c = some .link) ∧
      (check { day with next := some 63 }).toOption = some { day with next := some 63 } := by decide +kernel

/-- A fetch whose record passes the check, one whose record fails it, and an entry written meanwhile; one whose entry has left the
cache, and one whose entry has been created again since. -/
theorem witness_FetchCompletesInARun :
    (LastRead (fetching day run) (.planFetch 0 0x100000) ([] ++ fetchedWords (fetching day run)) ∧
        LastRead (fetching noHold run) (.planFetch 0 0x100000) ([] ++ fetchedWords (fetching noHold run))) ∧
      ((fetching day run).cache.fetch = some ⟨0, false⟩ ∧ (fetching day run).cache.walk = none ∧
        (fetching day run).cache.entry? 0 = some (cached 0 .fetching day) ∧
        (cached 0 .fetching day).writtenDuringFetch = false ∧
        { cached 0 .fetching day with writtenDuringFetch := true }.writtenDuringFetch = true ∧
        (checkSegment 64 (fetchedWords (fetching day run))).toOption = some day ∧
        reasonOf (checkSegment 64 (fetchedWords (fetching noHold run))) = some .range) ∧
      (let gone := fun (f : Fetch) (es : List CacheEntry) =>
        { fetching day run with cache := { (fetching day run).cache with entries := es, fetch := some f } }
       (∀ f es, LastRead (gone f es) (.planFetch 0 0x100000) ([] ++ fetchedWords (fetching day run))) ∧
        (gone ⟨0, false⟩ [cached 1 .valid day]).cache.entry? 0 = none ∧
        (gone ⟨0, true⟩ [newEntry 0]).cache.fetch = some ⟨0, true⟩) :=
  ⟨⟨lastRead_fetching _ _, lastRead_fetching _ _⟩, by decide +kernel, fun _ _ => lastRead_fetching day run, rfl, rfl⟩

/-- The load walk from slot 0 with its fetch at its last read. -/
def walking (c : Segment) : State :=
  fetching c (busyWith .loadPlan { rest with cache := { rest.cache with walk := some ⟨0, true⟩ } })

/-- A walk fetch whose record fails, one that closes the plan (next slot 0 itself), and one that leads to slot 1, as the 32nd entry and
as the 33rd; with no link of its own, beside a STALE entry and beside a VALID one that leads to slot 1; an entry written meanwhile. -/
theorem witness_WalkFetchCompletes :
    (LastRead (walking day) (.planFetch 0 0x100000) ([] ++ fetchedWords (walking day)) ∧
        LastRead (walking noHold) (.planFetch 0 0x100000) ([] ++ fetchedWords (walking noHold))) ∧
      ((walking day).cache.fetch = some ⟨0, false⟩ ∧ (walking day).cache.walk = some ⟨0, true⟩ ∧
        (walking day).cache.entry? 0 = some (cached 0 .fetching day) ∧ (walking day).cmd.busy = some (1, .loadPlan) ∧
        (walking day).sched.runState = .stopped ∧
        reasonOf (checkSegment 64 (fetchedWords (walking noHold))) = some .range ∧
        (checkSegment 64 (fetchedWords (walking { day with next := some 0 }))).toOption = some { day with next := some 0 } ∧
        (checkSegment 64 (fetchedWords (walking { day with next := some 1 }))).toOption = some { day with next := some 1 } ∧
        (∀ y ∈ (walking day).cache.entries, y.slot ≠ 1) ∧ (walking day).cache.entries.length < 32) ∧
      (let others := fun n => (List.range n).map fun i => cached (i + 2) .valid day
       let leading := { day with next := some 1 }
       let fetched := fun es => (walking day).cache.entries.map (fun x => { x with state := .valid, record := some day }) ++ es
       (∀ c es, LastRead (beside es (walking c)) (.planFetch 0 0x100000) ([] ++ fetchedWords (walking c))) ∧
        (beside (others 30) (walking leading)).cache.entries.length < 32 ∧
        32 ≤ (beside (others 31) (walking leading)).cache.entries.length ∧
        (∀ y ∈ (beside (others 31) (walking leading)).cache.entries, y.slot ≠ 1) ∧
        ((fetched []).find? fun x => x.slot == 0) = some (cached 0 .valid day) ∧ day.next = none ∧
        fetched [cached 5 .stale day] = [cached 0 .valid day] ++ cached 5 .stale day :: [] ∧
        fetched [cached 5 .valid leading] = [cached 0 .valid day] ++ cached 5 .valid leading :: [] ∧
        (∀ y ∈ fetched [cached 5 .valid leading], y.state ≠ .stale ∧ y.slot ≠ 1) ∧
        { cached 0 .fetching day with writtenDuringFetch := true }.writtenDuringFetch = true) :=
  ⟨⟨lastRead_fetching _ _, lastRead_fetching _ _⟩, by decide +kernel,
    fun c _ => lastRead_fetching c (busyWith .loadPlan { rest with cache := { rest.cache with walk := some ⟨0, true⟩ } }),
    by decide +kernel⟩

/-- A configuration read at its last access: 56 words read, the last 8 of memory zeros. -/
def configuring (ws : List BusWord) (s : State) : State :=
  serving .configRead (lastAccess 0x1FF1E0) (ws.take 56) (busyWith .configure s)

/-- CONFIGURE in a run, at rest and before the first; a read of zeros, refused, and of a sound block, accepted. -/
theorem witness_ConfigureReadsAndPutsInForce :
    (∀ ws s, LastRead (configuring ws s) .configRead (ws.take 56 ++ readWords (configuring ws s).ram
        (lastAccess 0x1FF1E0).addrs)) ∧
      (run.cmd.busy = none ∧ run.pins.inReset = false ∧ run.sched.runState ≠ .unconfigured ∧ run.sched.runState ≠ .stopped ∧
        rest.cmd.busy = none ∧ rest.pins.inReset = false ∧ rest.sched.runState = .stopped ∧ State.reset.sched.runState = .unconfigured ∧
        (configuring soundWords rest).cmd.busy = some (1, .configure) ∧
        reasonOf (judgeConfig rest.path.controlBase
          (List.replicate 56 (word 0) ++ readWords rest.ram (lastAccess 0x1FF1E0).addrs)) = some .invalid ∧
        (judgeConfig rest.path.controlBase
          (soundWords.take 56 ++ readWords rest.ram (lastAccess 0x1FF1E0).addrs)).toOption.isSome = true) ∧
      NoLogWaiting (configuring soundWords rest) :=
  ⟨fun _ _ => ⟨_, _, rfl, rfl, rfl, rfl, rfl, rfl, rfl, rfl, rfl⟩, by decide +kernel, rfl⟩

/-- The tests of a configuration block, each at its boundary: a bad byte; a limit below its base; a window that shares one block
with another; a depth of 3 and of 0; crit equal to low; a sound block with crit one below low; and one whose idle wake of 59 becomes
60, its min sleep of 61 becomes 60 and its wake lead of 0 becomes 1. -/
theorem witness_ConfigurationJudged :
    let windows := fun b : ConfigBlock => b.plan.aligned && b.stat.aligned && b.log.aligned
    let read := fun l : List Nat => decodeConfig ((l.map word).map BusWord.data)
    (∃ w ∈ badWord 0x100000 :: soundWords.drop 1, ¬w.good = true) ∧ (∀ w ∈ soundWords, w.good = true) ∧
      windows (read ((block 1 100).set 1 0x0FFFFF)) = false ∧ windows (read (block 1 100)) = true ∧
      ((read ((block 1 100).set 2 0x100700)).stat.base ≤ (read (block 1 100)).plan.limit ∧
        (read ((block 1 100).set 2 0x100800)).stat.base = (read (block 1 100)).plan.limit + 1) ∧
      (read (block 3 100)).tuning.depth = 3 ∧ (read (block 0 100)).tuning.depth = 0 ∧
      (read (block 2 (3400 + 3400 * 65536))).settings.crit = (read (block 2 (3400 + 3400 * 65536))).settings.low ∧
      (read (block 2 (3400 + 3399 * 65536))).settings.crit < (read (block 2 (3400 + 3399 * 65536))).settings.low ∧
      (judgeConfig 0x1FF000 ((block (2 + 65536) (3400 + 3399 * 65536)).map word)).toOption.map (·.2) = some .ok ∧
      (let b := ((block (2 + 65536) (3400 + 3399 * 65536)).set 7 (61 * 65536)).set 10 59
       (read b).settings.wakeLead = 0 ∧ (read b).settings.minSleep = 61 ∧ (read b).settings.idleWake = 59 ∧
         (judgeConfig 0x1FF000 (b.map word)).toOption.map
             (fun r => (r.2, r.1.settings.wakeLead, r.1.settings.minSleep, r.1.settings.idleWake)) =
           some (.okClamped, 1, 60, 60)) := by
  decide +kernel

/-- A header word whole and good, partial, and of bad parity; of the selected stream 0 and of stream 1; without a window. -/
theorem witness_HeaderWordOpensARecord :
    (word 0).empty = false ∧ (word 1).empty = false ∧ State.reset.path.stat = none ∧ rest.path.stat.isSome = true ∧
      (word 0).whole = true ∧ (word 0).good = true ∧ rest.config.tuning = some tuned ∧
      field (word 0).data 0 4 = tuned.streamSelect ∧ field (word 1).data 0 4 ≠ tuned.streamSelect ∧
      (partWord 0).empty = false ∧ (partWord 0).whole = false ∧ (partWord 0).good = true ∧ (badWord 0).empty = false ∧
      (badWord 0).good = false := by decide +kernel

theorem witness_ZoneWordFillsTheRecord :
    (word 0).empty = false ∧ rest.path.stat.isSome = true ∧ rest.stats.assembler = .idle ∧
      (assembling (opened 0) rest).stats.assembler = .assembling (opened 0) ∧
      (assembling (opened 0) rest).path.stat.isSome = true ∧ (word 0).whole = true ∧ (word 0).good = true ∧
      (badWord 0).empty = false ∧ ¬((badWord 0).whole = true ∧ (badWord 0).good = true) := by decide +kernel

/-- A closing word with no record open; partial; of another tag; of frame 0 ISSUED, retired last, unknown, and TRIGGERED with the
latched buffer FULL; of a poisoned record; and of bad parity with another tag and with the record's own. -/
theorem witness_ClosingWordDiscards :
    let s := assembling (opened 0) run
    let full := { assembling (opened 0) (runWith [shot0]) with
      stats := { s.stats with latched := some ⟨0, 0, [], 0, false⟩ } }
    let gone := assembling (opened 0) { rest with sched := { rest.sched with lastRetired := some 0 } }
    (word 0).empty = false ∧ rest.path.stat.isSome = true ∧ rest.stats.assembler = .idle ∧
      s.path.stat.isSome = true ∧ s.stats.assembler = .assembling (opened 0) ∧ (partWord 0).whole = false ∧
      (word 0).whole = true ∧ (word 0).good = true ∧ (word 0x10000).data.extractLsb' 16 16 ≠ (opened 0).tag ∧
      (word 0).data.extractLsb' 16 16 = (opened 0).tag ∧ (opened 0).poisoned = false ∧
      s.sched.queue.find? (fun e => e.frame.setWidth 16 == (word 0).data.extractLsb' 16 16) = some frame0 ∧
      frame0.triggered = false ∧
      gone.sched.queue.find? (fun e => e.frame.setWidth 16 == (word 0).data.extractLsb' 16 16) = none ∧
      gone.sched.lastRetired = some 0 ∧ rest.sched.lastRetired = none ∧ rest.sched.queue = [] ∧
      full.sched.queue.find? (fun e => e.frame.setWidth 16 == (word 0).data.extractLsb' 16 16) = some shot0 ∧
      shot0.triggered = true ∧ full.stats.latched.isSome = true ∧
      { opened 0 with poisoned := true }.poisoned = true ∧ (badWord 0x10000).whole = true ∧ (badWord 0x10000).good = false ∧
      (badWord 0x10000).data.extractLsb' 16 16 ≠ (opened 0).tag ∧ (badWord 0).whole = true ∧ (badWord 0).good = false ∧
      (badWord 0).data.extractLsb' 16 16 = (opened 0).tag := by decide +kernel

/-- The record of frame 0 with frame 0 TRIGGERED: poisoned; discounted; with no zone of weight; and metered; a closing word of bad
parity and a poisoned record with the latched buffer FULL; and the record of frame 1 with frames 0 and 1 TRIGGERED. The buffer is EMPTY
after the metered one, and FULL where the segment's entry is STALE and the issue waits. -/
theorem witness_ClosingWordRetiresTheHead :
    let s := assembling (opened 0) (runWith [shot0])
    (word 0).whole = true ∧ (word 0).good = true ∧ s.path.stat.isSome = true ∧
      s.stats.assembler = .assembling (opened 0) ∧ (opened 0).tag = (word 0).data.extractLsb' 16 16 ∧
      s.sched.queue = [shot0] ∧ shot0.triggered = true ∧ shot0.frame.setWidth 16 = (opened 0).tag ∧
      s.stats.latched = none ∧ s.config.tuning = some tuned ∧ s.seg.copyRead = some day ∧
      { opened 0 with poisoned := true }.poisoned = true ∧ (opened 0).poisoned = false ∧
      { shot0 with discounted := true }.discounted = true ∧ shot0.discounted = false ∧
      (meterFrom tuned day.weightSet 0 0 (opened 0).values).wsum = 0 ∧
      (meterFrom tuned day.weightSet (opened 0).presence 0 (opened 0).values).wsum ≠ 0 ∧
      (let shot1 := { shot0 with frame := 1 }
       let s1 := assembling (opened 1) (runWith [shot0, shot1])
       let full := { s.stats with latched := some ⟨0, 0, (opened 0).values, (opened 0).presence, false⟩ }
       (badWord 0).whole = true ∧ (!(badWord 0).good) = true ∧ (badWord 0).data.extractLsb' 16 16 = (opened 0).tag ∧
         full.latched ≠ none ∧ (word 0x10000).good = true ∧ s1.stats.latched = none ∧
         (opened 1).tag = (word 0x10000).data.extractLsb' 16 16 ∧ s1.sched.queue = [shot0, shot1] ∧ shot1.triggered = true ∧
         shot1.frame.setWidth 16 = (opened 1).tag ∧ shot0.frame.setWidth 16 ≠ (opened 1).tag ∧
         (after (.statClosingWord (word 0x10000)) s1).sched.unmetered = 1 ∧
         (after (.statClosingWord (word 0x10000)) s1).sched.lastRetired = some 1) ∧
      (let waits := { s with cache := { s.cache with entries := [cached 0 .stale day] } }
       (after (.statClosingWord (word 0)) s).stats.latched = none ∧ (after (.statClosingWord (word 0)) s).sched.owed = [] ∧
         (after (.statClosingWord (word 0)) waits).sched.owed = [.retirement 0 true] ∧
         (after (.statClosingWord (word 0)) waits).stats.latched =
           some ⟨0, 0, (opened 0).values, BitVec.allOnes 32, false⟩) := by decide +kernel

theorem witness_IssueLevelStaysInBounds :
    day.lo ≤ day.hi ∧ { day with mode := .hold }.mode = .hold ∧ { day with mode := .ramp }.mode = .ramp ∧
      day.mode = .track ∧ { day with elMin := 1663 }.lo ≤ { day with elMin := 1663 }.hi := by decide +kernel

/-- An argument and a consumer index whole and good, partial, bad, and at the log capacity of 8; without a LOG window. -/
theorem witness_ControlWordsSnooped :
    (word 7).empty = false ∧ (word 7).whole = true ∧ (word 7).good = true ∧ rest.pins.inReset = false ∧
      (heldInReset rest).pins.inReset = true ∧ (partWord 7).empty = false ∧ ¬((partWord 7).whole = true ∧ (partWord 7).good = true) ∧
      ¬((badWord 7).whole = true ∧ (badWord 7).good = true) ∧ State.reset.path.log = none ∧
      rest.path.log = some { base := 0x120000, limit := 0x1200FF } ∧ min ((0x1200FF - 0x120000 + 1) / 32) 4096 = 8 ∧
      (word 7).data.toNat < 8 ∧ ¬((word 8).whole = true ∧ (word 8).good = true ∧ (word 8).data.toNat < 8) := by
  decide +kernel

/-- The entry fetched in each place: the current segment's, STALE in a run and FAULT awaiting; its next slot's; the decided slot's; the most
recent of two FAULT entries awaiting; none. -/
theorem witness_WantedFetch :
    let s := fun (decided : Option Nat) (es : List CacheEntry) =>
      { run with seg := { run.seg with decided := decided }, cache := { run.cache with entries := es } }
    let awaiting := fun n => { cached n .fault day with awaiting := true }
    let leading := cached 0 .valid { day with next := some 1 }
    let own := cached 0 .valid day
    (run.seg.current = some 0 ∧ run.sched.runState = .running ∧ run.cache.fetch = none ∧ run.cache.walk = none ∧
        wantedFetch (s (some 2) [cached 0 .stale { day with next := some 1 }, cached 1 .stale day, awaiting 5]) = some 0 ∧
        wantedFetch (s none [awaiting 5, awaiting 0]) = some 0) ∧
      (wantedFetch (s (some 2) [leading, cached 1 .stale day, cached 2 .stale day, awaiting 5]) = some 1 ∧
        wantedFetch (s (some 2) [leading, cached 2 .stale day, awaiting 5]) = some 2 ∧
        wantedFetch (s none [own, awaiting 5, awaiting 6, cached 7 .fault day]) = some 6 ∧
        [own, awaiting 5, awaiting 6, cached 7 .fault day] = [own, awaiting 5] ++ awaiting 6 :: [cached 7 .fault day] ∧
        wantedFetch (s none [own, cached 7 .fault day]) = none) ∧
      NoIssue (s none [cached 0 .stale day]) :=
  ⟨by decide +kernel, by decide +kernel, .inl rfl, fun _ => rfl, fun h => (by cases h)⟩

/-- Addresses beside and at the ends of the PLAN window; slots 63 and 64 of a longer one. -/
theorem witness_PlanWordTouchesItsSlot :
    (1 : BitVec 4) ≠ 0 ∧ State.reset.path.plan = none ∧
      rest.path.plan = some { base := 0x100000, limit := 0x1007FF } ∧ (0x0FFFFC : Addr).toNat < 0x100000 ∧
      0x1007FF < (0x100800 : Addr).toNat ∧ 0x100000 ≤ (0x100000 : Addr).toNat ∧ (0x1007FC : Addr).toNat ≤ 0x1007FF ∧
      ((0x1007FC : Addr).toNat - 0x100000) / 32 = 63 ∧ 64 ≤ ((0x100800 : Addr).toNat - 0x100000) / 32 := by decide +kernel

/-- Frame 0 due and armed, in RUNNING and in FAULT_HOLD. -/
theorem witness_DueTimeTriggersAnArmedEntry :
    let s := clock 71600 0 (runWith [{ frame0 with armed := true }])
    (s.sched.queue.find? fun x => !x.triggered && decide (x.due.toNat ≤ s.tb.time.toNat)) =
        some { frame0 with armed := true } ∧
      s.sched.runState = .running ∧ (inRun .faultHold s).sched.runState = .faultHold ∧ s.session.state = .open ∧
      { frame0 with armed := true }.armed = true ∧ s.config.tuning = some tuned ∧
      frame0.due.toNat + 3793 < 2 ^ 42 := by decide +kernel

/-- Frame 0 due: not armed, in SUSPENDED, outside OPEN; a tick before it is due; at its deadline, and a tick before it. -/
theorem witness_DueTimesAndDeadlinesRetire :
    let due := fun s : State => s.sched.queue.find? fun x => !x.triggered && decide (x.due.toNat ≤ s.tb.time.toNat)
    let late := fun s : State =>
      s.sched.queue.find? fun x =>
        x.triggered && (match x.deadline with
          | none => false
          | some d => decide (d.toNat ≤ s.tb.time.toNat))
    let s := clock 71600 0 run
    due s = some frame0 ∧
      ¬((s.sched.runState = .running ∨ s.sched.runState = .faultHold) ∧ s.session.state = .open ∧ frame0.armed = true) ∧
      ¬(((inRun .suspended s).sched.runState = .running ∨ (inRun .suspended s).sched.runState = .faultHold) ∧
        s.session.state = .open ∧ true = true) ∧
      (inSession .closing s).session.state ≠ .open ∧ due (clock 71599 1023 run) = none ∧
      late (clock 71603 721 (runWith [shot0])) = some shot0 ∧ late (clock 71603 720 (runWith [shot0])) = none := by
  decide +kernel

/-- A miss for each of its causes, a deadline, discounted and not; STOP with frame 0 in the queue; the exit decided with frame 0 ISSUED,
to no slot and under VOID. The records of a closing word are those of ClosingWordRetiresTheHead. -/
theorem witness_RetirementsRequestTheirLog :
    let s := clock 71600 0 run
    s.engine.lost < 4294967295 ∧
      (s.sched.queue.find? fun x => !x.triggered && decide (x.due.toNat ≤ s.tb.time.toNat)) = some frame0 ∧
      (inRun .suspended s).sched.runState = .suspended ∧ s.sched.runState ≠ .suspended ∧
      (inSession .asleepOff s).session.state ≠ .open ∧ s.session.state = .open ∧ frame0.armed = false ∧
      ((clock 71603 721 (runWith [shot0])).sched.queue.find? fun x => x.triggered && (match x.deadline with
          | none => false
          | some d => decide (d.toNat ≤ (clock 71603 721 run).tb.time.toNat))) = some shot0 ∧
      shot0.discounted = false ∧ { shot0 with discounted := true }.discounted = true ∧
      (run.cmd.busy = none ∧ run.pins.inReset = false ∧ run.sched.runState.capturing = true ∧ frame0 ∈ run.sched.queue) ∧
      (let left := fun (next : Option Nat) =>
        let s := owing next .frames .void [cached 1 .valid day]
        { s with sched := { s.sched with queue := [frame0] } }
       let c : Segment := { day with exitParam := 1, exitKind := .frames, settle := .void }
       ∀ next ∈ [none, some 1],
         (left next).sched.owed = [.retirement 0 true] ∧ (left next).sched.runState = .running ∧
           (left next).sched.heldCopy = none ∧
           readableCopy (left next).cache (left next).seg.current = some { c with next := next } ∧
           exitDecided (left next).seg { c with next := next } (provisionalDue (left next) { c with next := next }) = true ∧
           frame0 ∈ (left next).sched.queue ∧ (left next).cache.entry? 1 = some (cached 1 .valid day) ∧
           frame0.triggered = false) := by decide +kernel

/-- A sleeping session at the wake time of frame 0 and a tick past it, with the port RETAINED and ACTIVE, cold and not; the idle
wake at its period; an awake session, and a CRITICAL supply with the wake time reached. -/
theorem witness_WakeTimesBeginWakes :
    let s := inSession .asleepStandby run
    let idle := { inSession .asleepStandby rest with session := { rest.session with state := .asleepStandby, sleepTime := some 0 } }
    s.session.asleep = true ∧ s.supply.state ≠ .critical ∧ s.sched.runState.capturing = true ∧
      (s.sched.queue.find? fun x => !x.triggered) = some frame0 ∧
      frame0.due.toNat = (clock 71570 0 s).tb.time.toNat + s.config.settings.wakeLead * 1024 ∧
      frame0.due.toNat < (clock 71570 1 s).tb.time.toNat + s.config.settings.wakeLead * 1024 ∧
      (ported .retained s).port.retention ≠ .active ∧ s.port.retention = .active ∧
      { s.session with forcedRecovery := true }.forcedRecovery = true ∧
      ¬(s.session.sleepKind = .off ∨ s.session.forcedRecovery = true) ∧
      idle.session.asleep = true ∧ idle.sched.runState.resting = true ∧ idle.config.settings.idleWake ≠ 0 ∧
      idle.session.sleepTime = some ((3600 * 1024 : Elapsed) - BitVec.ofNat 48 (idle.config.settings.idleWake * 1024)) ∧
      (after .triggerPulseEnd s).session.asleep = true ∧ (after .triggerPulseEnd s).supply.state ≠ .critical ∧
      run.session.asleep = false ∧ (supplied .critical s).supply.state = .critical ∧
      scheduledReached (supplied .critical (clock 71570 0 s)) = true := by decide +kernel

/-- The reset hold, the WAKE pulse, a wake in another phase, and no wake. -/
theorem witness_ControllerStepEnds :
    (phase .resetHold rest).session.state = .waking ∧ (phase .resetHold rest).session.phase = .resetHold ∧
      (phase .wakePulse rest).session.state = .waking ∧ (phase .wakePulse rest).session.phase = .wakePulse ∧
      ((phase .status rest).session.phase ≠ .resetHold ∧ (phase .status rest).session.phase ≠ .wakePulse) ∧
      rest.session.state ≠ .waking := by decide +kernel

theorem witness_WakingStatusOpensTheSession :
    wakingStatus.port.access = .engine commit ∧ wakingStatus.engine.service.isSome = true ∧
      wakingStatus.engine.service.map (fun sv => (sv.request, sv.todo, sv.ended, sv.opens)) =
        some (.status, [commit], false, true) ∧
      commit.write = true ∧ commit.group = none ∧ wakingStatus.session.state = .waking ∧
      wakingStatus.session.phase = .status := by decide +kernel

/-- The session timer at its expiry; the same past the scheduled wake time of frame 0; another session state. -/
theorem witness_SessionTimerForcesSleep :
    let expiring := fun s : State => { s with session := { s.session with timer := some s.tb.elapsed } }
    let t := after (.sessionTimerExpiry 3400) (clock 71570 0 (expiring run))
    rest.session.state = .open ∧ (expiring rest).session.timer = some rest.tb.elapsed ∧
      (run.session.state = .open ∧ t.supply.state ≠ .critical ∧ scheduledReached t = true) ∧
      (inSession .closing rest).session.state ≠ .open := by decide +kernel

/-- The greatest level above the greatest threshold below it, for each class, asleep and CLOSING; a class not above it; the holdoff timer
running, at its expiry and stopped; the supply CRITICAL. -/
theorem witness_AlertsWakeASleepingSession :
    let s := inSession .asleepOff rest
    let levels : PerClass := ⟨7, 7, 7, 7, 7, 7, 7, 7⟩
    (s.tb.source = .crystal ∧ s.pins.inReset = false ∧ outstanding s = false ∧ (∀ k, 6 < levels.get k) ∧
        ¬rest.config.settings.wakeThreshold < rest.config.settings.wakeLevels.timeDegraded ∧
        ¬rest.config.settings.wakeThreshold < rest.config.settings.wakeLevels.busAnomaly ∧ s.session.asleep = true ∧
        s.supply.state ≠ .critical ∧ s.session.holdoff = none ∧ (inSession .closing rest).session.state = .closing ∧
        { s.session with holdoff := some 0 }.holdoff = some s.tb.elapsed ∧ { s.session with holdoff := some 0 }.holdoff ≠ none ∧
        (supplied .critical s).supply.state = .critical ∧ scheduledReached s = false ∧ idleReached s = false) ∧
      NoLogWaiting s ∧ NoIssue s :=
  ⟨by
    refine ⟨rfl, rfl, rfl, fun k => by cases k <;> decide, ?_⟩
    decide +kernel, rfl, .inl rfl, fun h => (by cases h), fun h => (by cases h)⟩

/-- A sample of 3,099 mV, one below crit, in each of the four rows: a capturing run that owes a retirement's issue, one that owes a START
issue, and one at rest. -/
theorem witness_CriticalSampleSuspendsTheRun :
    let owes := fun o : Origin => { run with sched := { run.sched with owed := [o] } }
    let s := owes (.retirement 0 true)
    let closing := ported .entering (inSession .closing s)
    s.supply.state ≠ .critical ∧ min 3099 8191 < s.config.settings.crit ∧ s.sched.runState.capturing = true ∧
      (∀ o ∈ s.sched.owed, o.isStart = false) ∧ rest.sched.runState.capturing = false ∧
      (∃ o ∈ (owes (.start true)).sched.owed, o.isStart = true) ∧
      ((phase .wakePulse s).session.state = .waking ∧ (phase .wakePulse s).session.phase = .wakePulse) ∧
      ((phase .resetHold s).session.state = .waking ∧ (phase .resetHold s).session.phase = .resetHold) ∧
      (s.session.state = .open ∧ { s.session with timer := some s.tb.elapsed }.timer = some s.tb.elapsed) ∧
      (closing.session.state = .closing ∧ closing.port.retention = .entering ∧ closing.port.anyWaiting = false ∧
        closing.port.exitAfterEntry = false) := by decide +kernel

/-- Readings beside crit, low, and each with the hysteresis; a recheck that stays and one that recovers, at rest and suspended, and
asleep past the idle wake time. -/
theorem witness_SamplesJudgedAndRechecked :
    let c := rest.config.settings
    let s := { supplied .critical rest with supply := { state := .critical, lastSample := 3000, recheck := some 0 } }
    c.crit < c.low ∧ 3099 < c.crit ∧ c.crit ≤ 3100 ∧ 3399 < c.low ∧ c.low ≤ 3400 ∧ c.low + c.hyst ≤ 3500 ∧
      3499 < c.low + c.hyst ∧ c.crit + c.hyst ≤ 3200 ∧ 3199 < c.crit + c.hyst ∧
      rest.supply.state = .normal ∧ rest.supply.recheck = none ∧ (supplied .low rest).supply.recheck = none ∧
      s.supply.state = .critical ∧ s.supply.recheck = some s.tb.elapsed ∧ s.sched.runState ≠ .suspended ∧
      (inRun .suspended s).sched.runState = .suspended ∧
      (let dozing :=
        { s with session := { s.session with state := .asleepOff, sleepKind := .off, sleepTime := some (0 - 3600 * 1024) } }
       dozing.session.asleep = true ∧ idleReached (after (.recheckTimerExpiry 3200) dozing) = true) := by decide +kernel

theorem witness_CrystalStopFallsBackToRc :
    rest.pins.inReset = false ∧ rest.tb.source = .crystal ∧ (onRc 0 rest).tb.source = .rc ∧
      1024 ≤ (onRc 1024 rest).tb.sinceStop ∧ (onRc 1023 rest).tb.sinceStop < 1024 ∧ (heldInReset rest).pins.inReset = true := by
  decide +kernel

/-- A read of a record under write with nothing owed; a transaction that does not touch it, at each state of the port; one given while
another is outstanding, and while another is to follow that one; at an ACTIVE port with an engine access waiting at a count of 0 and of 4
and with one in progress; and in power-on reset. -/
theorem witness_ArrivalWaitsOrIsHeld :
    let read : Transaction := ⟨0x1FF29C, .read 1⟩
    let s := { rest with path := { rest.path with underWrite := [⟨0x1FF280, 32⟩] } }
    (s.pins.inReset = false ∧ outstanding s = false ∧ txIsRead read = true ∧ txTouches read s.path.underWrite = true ∧
        txTouches ⟨0x1FF2A0, .read 1⟩ s.path.underWrite = false ∧ s.port.retention = .active ∧
        s.port.access = .noAccess ∧ s.port.starvation < 4 ∧ (ported .retained s).port.retention = .retained ∧
        (ported .entering s).port.retention = .entering ∧ (ported .exiting s).port.retention = .exiting ∧
        outstanding (accessing (.pass read) s) = true ∧ s.path.following = none ∧
        { s.path with following := some read }.following.isSome = true) ∧
      (let waiting := fun count => accessing .noAccess (crowded count)
       (∀ count ∈ [0, 4], outstanding (waiting count) = false ∧ (waiting count).engine.service.isSome = true ∧
          (waiting count).port.waitEngine = some commit ∧ (waiting count).port.retention = .active ∧
          (waiting count).port.access = .noAccess) ∧
         (waiting 0).port.starvation < 4 ∧ 4 ≤ (waiting 4).port.starvation ∧ outstanding wakingStatus = false ∧
         wakingStatus.port.access = .engine commit ∧ txTouches read wakingStatus.path.underWrite = false) ∧
      (let held := heldInReset rest
       held.pins.inReset = true ∧ outstanding held = false ∧ held.sched.owed = [] ∧ held.engine.waiting = [] ∧
         held.engine.service = none ∧ held.port.waitEngine = none ∧ held.port.starvation < 4 ∧
         held.port.retention = .active ∧ held.port.access = .noAccess ∧
         (ported .exiting held).port.retention = .exiting ∧ (ported .retained held).port.retention = .retained) ∧
      NoIssue s ∧ NoIssue (crowded 4) :=
  ⟨by decide +kernel, by decide +kernel, by decide +kernel, ⟨.inl rfl, fun h => (by cases h), fun h => (by cases h)⟩,
    .inl rfl, fun h => (by cases h), fun h => (by cases h)⟩

/-- A read of the last word; a write in power-on reset; a word at each place of the windows, in a record under write and not, and one
with no byte enabled; a burst of SET_TIME with its arguments; a burst into the status record under write; a burst over slots 0 and 1 of
the PLAN window, one over the last words of a record in the STAT window, and one beyond it; a transaction that follows at once, one that
touches a record under write and one that does not, with an engine access waiting at a count of 0 and of 4. -/
theorem witness_PassThroughAccessCompletes :
    let write := fun (a : Addr) (ws : List BusWord) => accessing (.pass ⟨a, .write ws⟩) rest
    let record : RecordRange := { base := 0x1FF000 + 0x200, size := 128 }
    let under := { write 0x1FF27C [word 1, word 2] with path := { rest.path with underWrite := [record] } }
    let burst := [goodWord (encodeCommandWord 0 .setTime 1), word 500, word 7, word 0]
    ((accessing (.pass ⟨0xFFFFFC, .read 1⟩) rest).port.access = .pass ⟨0xFFFFFC, .read 1⟩ ∧
      rest.port.retention = .active ∧ ramWf rest.ram = true ∧ [word 1, word 2][1]? = some (word 2) ∧
      ((word 2).enables.getLsbD 3 = true ∧ (partWord 2).enables.getLsbD 3 = false) ∧
      (after .passThroughCompletion (inSession .asleepOff (write 0x50000 [word 1]))).port.retention = .entering ∧
      (after .passThroughCompletion (write 0x50000 [word 1])).port.retention = .active ∧
      (heldInReset (write 0x1FF000 [word 6])).pins.inReset = true ∧
      (heldInReset (write 0x1FF000 [word 6])).port.access = .pass ⟨0x1FF000, .write [word 6]⟩) ∧
    ((write 0x1FF010 [word 7]).port.access = .pass ⟨0x1FF010, .write [word 7]⟩ ∧
      (write 0x1FF010 [word 7]).pins.inReset = false ∧ (write 0x1FF010 [word 7]).path.controlBase = 0x1FF000 ∧
      (word 7).empty = false ∧ { word 7 with enables := 0 }.empty = true ∧
      ¬((badWord 6).whole = true ∧ (badWord 6).good = true) ∧ (badWord 6).empty = false ∧
      (0x1007FC : Addr).toNat < 0x1FF000 ∧ (0x1007FC : Addr).toNat ≤ 0x1007FF ∧ ¬ (0x110084 : Addr).toNat ≤ 0x1007FF ∧
      ((0x110084 : Addr).toNat - 0x110000) / 4 = 33 ∧ ((0x110080 : Addr).toNat - 0x110000) / 4 = 32 ∧
      ((0x110088 : Addr).toNat - 0x110000) / 4 = 34 ∧ 0x120000 ≤ (0x1200FC : Addr).toNat ∧
      (0x1200FC : Addr).toNat ≤ 0x1200FF ∧ rest.path.log = some { base := 0x120000, limit := 0x1200FF }) ∧
    (∀ code, CommandName.setTime = .unassigned code → codeAssigned code = false) ∧
    ((∀ w ∈ burst, w.whole = true ∧ w.good = true) ∧ rest.path.controlBase + 16 ≤ 2 ^ 24 ∧
      (write 0x1FF000 burst).port.access = .pass { addr := BitVec.ofNat 24 rest.path.controlBase, transfer := .write burst }) ∧
    ((write 0x1FF278 [word 1, word 2]).port.access = .pass ⟨0x1FF278, .write [word 1, word 2]⟩ ∧
      (∀ w ∈ [word 1, word 2], w.empty = false) ∧ under.engine.dirty.length = 4 ∧
      (∀ a ∈ wordAddrs 0x1FF278 2, rest.path.controlBase + 0x200 ≤ a ∧ a < rest.path.controlBase + 0x280) ∧
      record ∈ under.path.underWrite) ∧
    (let rows := fun (a : Addr) (ws : List BusWord) =>
      ((wordAddrs a ws.length).zip ws).filterMap fun x => rowOfWindowWord rest.path.plan rest.path.stat x.1 x.2
     (∀ a ∈ wordAddrs 0x10001C 2 ++ wordAddrs 0x110080 4 ++ wordAddrs 0x110088 2,
        ¬(rest.path.controlBase ≤ a ∧ a ≤ rest.path.controlBase + 4095) ∧
          (inWindow rest.path.plan a = true ∨ inWindow rest.path.stat a = true)) ∧
       rows 0x10001C [word 1, word 2] = [.planWordWrite 0x10001C 15] ++ [.planWordWrite 0x100020 15] ∧
       rows 0x110080 [word 1, word 0, word 2, word 3] = [.statZoneWord 31 (word 1)] ++ [.statClosingWord (word 0)] ∧
       rows 0x110088 [word 1, word 2] = [] ∧
       (∀ a ∈ wordAddrs 0x10001C 2, 0x100000 ≤ a ∧ a ≤ 0x1007FF ∧ (a - 0x100000) / 32 < 64) ∧ rest.cache.fetch = none ∧
       (∀ e ∈ rest.cache.entries, e.state ≠ .fetching ∧ e.writtenDuringFetch = false)) ∧
    (let next : Transaction := ⟨0x1FF27C, .read 1⟩
     let s := fun count =>
      { crowded count with path := { rest.path with following := some next, underWrite := if count = 0 then [] else [record] } }
     let plainWrite := write 0x50000 [word 1]
     (∀ count ∈ [0, 4], (s count).port.access = .pass ⟨0x50000, .read 1⟩ ∧ (s count).path.following = some next ∧
        (s count).pins.inReset = false ∧ (s count).port.waitPass = none ∧ (s count).path.held = none ∧
        (s count).port.retention = .active ∧ (s count).engine.service.isSome = true ∧
        (s count).port.waitEngine = some commit) ∧
      (s 0).port.starvation < 4 ∧ 4 ≤ (s 4).port.starvation ∧ txTouches next (s 0).path.underWrite = false ∧
      txTouches next (s 4).path.underWrite = true ∧ txIsRead next = true ∧
      plainWrite.path.following = none ∧ (inSession .asleepStandby rest).session.asleep = true ∧
      ([some (controlWindow plainWrite.path.controlBase), plainWrite.path.plan, plainWrite.path.stat, plainWrite.path.log].all
        fun v => v.all fun x => decide (0x50000 < x.base ∨ x.limit < 0x50000)) = true) ∧
    NoIssue (crowded 0) :=
  ⟨by decide +kernel, by decide +kernel, fun _ h => (by cases h), by decide +kernel, by decide +kernel, by decide +kernel,
    by decide +kernel, .inl rfl, fun h => (by cases h), fun h => (by cases h)⟩

theorem witness_CommandWordRunsItsRow :
    (∀ code, CommandName.start = .unassigned code → codeAssigned code = false) ∧
      (let w := goodWord (encodeCommandWord 0xFFFF .start 42)
       let s := accessing (.pass ⟨BitVec.ofNat 24 rest.path.controlBase, .write [w]⟩) rest
       w.data = encodeCommandWord 0xFFFF .start 42 ∧ w.whole = true ∧ w.good = true ∧ s.pins.inReset = false ∧
         s.path.controlBase < 2 ^ 24 ∧ s.port.access = .pass ⟨BitVec.ofNat 24 s.path.controlBase, .write [w]⟩) :=
  ⟨fun _ h => (by cases h), by decide +kernel⟩

/-- A log record's commit access with the LOG window in force, a group's access before another one, and no engine access; a commit
access of the status record with that record alone under write and a read of it held, and an ended service. -/
theorem witness_EngineAccessCompletes :
    let logs : Request :=
      .log ⟨frame0, .missed, .notArmed, none, 0, false, false, 3650⟩
    let s := serving logs commit [] rest
    s.port.access = .engine commit ∧ s.engine.service.map (·.request) = some logs ∧
      s.engine.service.map (fun sv => (sv.todo, sv.ended)) = some ([commit], false) ∧ commit.group = none ∧
      s.path.log = some { base := 0x120000, limit := 0x1200FF } ∧ rest.port.access = .noAccess ∧
      (ramWf s.ram = true ∧ commit.write = true ∧ commit.length ≤ 8 ∧ 0 < commit.length ∧ commit.words[0]? = some (word 1) ∧
        s.port.retention = .active) ∧
      (let record : RecordRange := ⟨0x1FF200, 128⟩
       let read : Transaction := ⟨0x1FF200, .read 8⟩
       let u := { wakingStatus with path := { rest.path with underWrite := [record], held := some read } }
       let group : EngineAccess := { commit with commit := false, group := some 3 }
       u.port.access = .engine commit ∧ commit.record = some record ∧ commit.commit = true ∧ u.path.held = some read ∧
         txTouches read u.path.underWrite = true ∧ txTouches read (u.path.underWrite.filter (· ≠ record)) = false ∧
         u.port.retention = .active ∧ u.port.starvation < 4 ∧
         u.engine.service.map (fun sv => { sv with ended := true }.ended) = some true ∧
         group.group = some 3 ∧ group.commit = false ∧ group :: commit :: [] = [group, commit] ∧
         record ∈ u.path.underWrite) ∧
      NoIssue rest :=
  ⟨by decide +kernel, by decide +kernel, by decide +kernel, by decide +kernel, by decide +kernel, by decide +kernel,
    by decide +kernel, by decide +kernel, .inl rfl, fun h => (by cases h), fun h => (by cases h)⟩

/-- The entry with a request waiting and without, in OPEN with nothing to follow and in CLOSING, with a deferred alert and without, with the
supply CRITICAL after the sample and with a wake time passed; the exit with no wake, a cold one and
a standby one, with a transaction and with an engine access waiting. -/
theorem witness_RetentionReports :
    let s := ported .entering rest
    let asked := { s with port := { s.port with waitPass := some ⟨0, .read 1⟩ } }
    let woken := { ported .exiting rest with port := { rest.port with retention := .exiting, waitWake := true } }
    let engine := { wakingStatus with
      port := { rest.port with retention := .exiting, waitEngine := some commit, starvation := 4 } }
    (s.port.retention = .entering ∧ asked.port.anyWaiting = true ∧ s.port.anyWaiting = false ∧
        s.port.exitAfterEntry = false ∧ s.session.state ≠ .closing ∧ (inSession .closing s).session.state = .closing ∧
        s.session.deferredAlert = false ∧ { s.session with deferredAlert := true }.deferredAlert = true ∧
        s.supply.state ≠ .critical ∧ s.session.holdoff = none ∧ (supplied .critical s).supply.state = .critical ∧
        woken.port.retention = .exiting ∧ woken.port.access = .noAccess ∧ rest.port.waitWake = false ∧
        woken.port.waitWake = true ∧ ¬(woken.session.sleepKind = .off ∨ woken.session.forcedRecovery = true) ∧
        { woken.session with sleepKind := .off }.sleepKind = .off ∧ rest.port.retention ≠ .entering ∧
        rest.port.retention ≠ .exiting ∧ s.engine.waiting = [] ∧ s.engine.service = none ∧ s.session.asleep = false ∧
        (ported .exiting asked).port.waitPass = some ⟨0, .read 1⟩ ∧ (ported .exiting asked).port.starvation < 4 ∧
        engine.port.waitEngine = some commit ∧ engine.engine.service.isSome = true ∧ 4 ≤ engine.port.starvation ∧
        NoFetch s) ∧
      (let closing := inSession .closing s
       let marked := { closing with session := { closing.session with deferredAlert := true } }
       (supplyJudged 3400 closing).session.deferredAlert = false ∧ (supplyJudged 3400 marked).session.deferredAlert = true ∧
         (supplyJudged 3400 marked).supply.state = .normal ∧ (supplyJudged 3099 marked).supply.state = .critical ∧
         scheduledReached (after (.retentionEntryComplete 3400) (clock 71570 0 (ported .entering (inSession .closing run)))) = true) ∧
      NoIssue s :=
  ⟨by simp only [NoFetch]; decide +kernel, by decide +kernel, .inl rfl, fun h => (by cases h), fun h => (by cases h)⟩

/-- CLOCK at second of day 86,399 with the entry time set; each other kind has no hypothesis beside its name; an entry VALID, FAULT, STALE,
FETCHING and INVALID, and none. -/
theorem witness_ExitConditions :
    (∀ st ∈ [EntryState.valid, .fault, .stale, .fetching, .invalid],
      { run.cache with entries := [cached 0 st day] }.entry? 0 = some (cached 0 st day)) ∧ run.cache.entry? 1 = none ∧
    { day with exitKind := .clock, exitParam := 86399 }.exitKind = .clock ∧ 86399 < 86400 ∧
      run.seg.entryTime = some (time 71600 0) := by decide +kernel

/-- The issue of frame 1 of the worked sequence, inside and outside the daily window, the end of the window 72,000 outside. -/
theorem witness_OrdinaryDueTime :
    run.sched.chainBase = some (time 71600 0) ∧ 0 < day.interval ∧ run.sched.dailyFrom < 86400 ∧
      (time 71600 0).toNat + day.interval * day.stretch + 86400 * 1024 < 2 ^ 42 ∧
      run.tb.time.toNat + day.interval * day.stretch + 86400 * 1024 < 2 ^ 42 ∧
      ¬(21600 ≤ 72000 ∧ 72000 < 72000) ∧ (21600 ≤ 71999 ∧ 71999 < 72000) ∧
      ((time 72000 0).toNat + 86400 * 1024 < 2 ^ 42 ∧ (time 72000 0).seconds % 86400 = 72000 ∧
        deferDaily 21600 72000 (time 72000 0) = (time 108000 0, true)) := by decide +kernel

/-- No exit decided: a retirement's issue, a resumption's first and later ones, a START's first and second with the supply CRITICAL, with
and without a START request, and in FAULT_HOLD; a retirement's in FAULT_HOLD; and the chain of VOID transitions, none owed after it. -/
theorem witness_OrdinaryIssueAppendsAnOrder :
    let c : Segment := { day with exitParam := 1 }
    let s := fun o : Origin => { owing none .never .keep [] with sched := { (owing none .never .keep []).sched with owed := [o] } }
    (∀ o ∈ [Origin.retirement 0 true, .resumption true, .resumption false, .start false, .start true],
      (s o).sched.owed = [o] ∧ (s o).sched.runState = .running ∧ (s o).sched.heldCopy = none ∧
        readableCopy (s o).cache (s o).seg.current = some c ∧ exitDecided (s o).seg c (provisionalDue (s o) c) = false) ∧
      (supplied .critical (s (.start false))).supply.state = .critical ∧
      (supplied .critical (s (.start false))).sched.runState.capturing = true ∧
      (inRun .faultHold (s (.retirement 0 true))).sched.runState = .faultHold ∧
      (inRun .faultHold (s (.start true))).sched.owed = [.start true] ∧ (Origin.start true).isStart = true ∧
      (s (.start true)).sched.startRequest = none ∧
      ((attemptIssue (.start true) (s (.start true))).state.sched.queue.map fun e => (e.first, e.due)) =
        [(true, time 71600 0)] ∧
      (Origin.retirement 0 true).isStart = false ∧
      (voidChain.sched.voids + voidChain.cache.entries.length < 4294967295 ∧
        (issueOwed voidChain).sched.voids ≤ voidChain.sched.voids + voidChain.cache.entries.length ∧
        (issueOwed voidChain).sched.runState.capturing = true ∧ (issueOwed voidChain).sched.owed = []) := by decide +kernel

/-- The exit decided at one frame: to no slot; to slot 1 VALID, STALE, FAULT and absent; under KEEP, and under VOID with one ISSUED
entry, whose slot differs from the new order's; for a resumption's later issue; absent from a full cache whose first entries stay; and
one that has waited, its entry VALID, STALE and FAULT, in RUNNING and in FAULT_HOLD. -/
theorem witness_DecidedExitTakesTheTransition :
    let c : Segment := { day with exitParam := 1, exitKind := .frames, next := some 1 }
    let s := fun st : EntryState => owing (some 1) .frames .keep [cached 1 st day]
    ((s .valid).sched.owed = [.retirement 0 true] ∧ (s .valid).sched.runState = .running ∧
        (s .valid).sched.heldCopy = none ∧ readableCopy (s .valid).cache (s .valid).seg.current = some c ∧
        exitDecided (s .valid).seg c (provisionalDue (s .valid) c) = true) ∧
      ({ c with next := none }.next = none ∧
        readableCopy (owing none .frames .keep []).cache (owing none .frames .keep []).seg.current =
          some { c with next := none }) ∧
      ((s .valid).cache.entry? 1 = some (cached 1 .valid day) ∧ day.lo ≤ day.hi ∧
        (s .stale).cache.entry? 1 = some (cached 1 .stale day) ∧ (s .fault).cache.entry? 1 = some (cached 1 .fault day) ∧
        (owing (some 1) .frames .keep []).cache.entry? 1 = none) ∧
      (c.settle = .keep ∧ { c with settle := .void }.settle = .void ∧
        (([shot0, { frame0 with frame := 1 }] : List Entry).filter fun y => !y.triggered) = [{ frame0 with frame := 1 }] ∧
        (∀ r ∈ (s .valid).engine.queued, r.orderContent? = none) ∧ orderSlot 1 ≠ orderSlot 2) ∧
      (let u := { s .valid with sched := { (s .valid).sched with owed := [.resumption false] } }
       u.sched.owed = [.resumption false] ∧ readableCopy u.cache u.seg.current = some c ∧
         exitDecided u.seg c (provisionalDue u c) = true) ∧
      (let others := (List.range 31).map fun i => cached (i + 2) .valid day
       let full := owing (some 1) .frames .keep others
       full.cache.entry? 1 = none ∧ 32 ≤ full.cache.entries.length ∧ full.seg.current = some 0 ∧ full.cache.loaded = some 0 ∧
         full.cache.fetch = none ∧
         full.cache.entries =
           [cached 0 .valid { day with next := some 1, exitKind := .frames, exitParam := 1 }] ++ cached 2 .valid day :: others.tail) ∧
      (∀ st ∈ [EntryState.valid, .stale, .fault],
        let w := { s st with
          sched := { (s st).sched with heldCopy := some c }, seg := { (s st).seg with decided := some 1, copyRead := some c } }
        w.sched.owed = [.retirement 0 true] ∧ w.sched.runState = .running ∧ w.sched.heldCopy = some c ∧
          w.seg.decided = some 1 ∧ w.cache.entry? 1 = some (cached 1 st day) ∧
          (inRun .faultHold w).sched.runState = .faultHold) := by
  decide +kernel

/-- BL at a power of two and just below the next. -/
theorem witness_BrightnessLevel : 2 ^ 11 ≤ 3125 ∧ 3125 < 2 ^ (11 + 1) ∧ 2 ^ 11 ≤ 2048 ∧ 4095 < 2 ^ (11 + 1) := by decide

/-- Guard zones reached, not reached and 0; an error within the deadband and one beyond it, of either sign. -/
theorem witness_GuardAndCorrection :
    let c : Segment := { day with guardZones := 9, guardStep := 127 }
    0 < c.guardZones ∧ c.guardZones ≤ 9 ∧ 8 < c.guardZones ∧ c.guardStep ≤ 127 ∧ (-1279 : Int) ≤ -1279 ∧ day.guardZones = 0 ∧
      (-4 : Int).natAbs ≤ c.deadband ∧ c.deadband < (5 : Int).natAbs ∧ (0 : Int) ≤ 5 ∧ c.deadband < (-5 : Int).natAbs ∧
      (-5 : Int) < 0 := by decide +kernel

/-- A valid copy with its bounds in order at both ends of its levels, and one whose usable time is below 32 µs. -/
theorem witness_ShutterAndGain :
    let tight : Segment := { day with interval := 1066, readoutMargin := 1041 }
    day.inRange = true ∧ day.elMin ≤ day.hi ∧ 0 ≤ day.hi ∧ 1663 ≤ day.hi ∧ 32 ≤ day.usableUs ∧ tight.inRange = true ∧
      tight.usableUs = 15 ∧ tight.elMin ≤ tight.hi := by decide +kernel

/-- Resets in both cases of the port, of the pins and of the battery; with an engine read and an engine write in progress; and a row given
while the part is still held. -/
theorem witness_PowerOnResetState :
    ((accessing (.engine (lastAccess 0x100000)) rest).port.access = .engine (lastAccess 0x100000) ∧
        (lastAccess 0x100000).write = false ∧ (accessing (.engine commit) rest).port.access = .engine commit ∧
        commit.write = true) ∧
    (∀ tx, rest.port.access ≠ .pass tx) ∧ (∀ a, rest.port.access ≠ .engine a) ∧
      (rest.pins.inReset = false ∧ (heldInReset rest).pins.inReset = true ∧ (heldInReset rest).port.retention = .active ∧
        (ported .exiting (heldInReset rest)).port.retention = .exiting ∧
        { rest.port with waitPass := some ⟨0, .read 1⟩ }.waitPass.or rest.path.held = some ⟨0, .read 1⟩) ∧
      ((⟨0, 3400, true, true⟩ : PowerPins).ended = true ∧ 3400 ≤ 3400 ∧ 3399 < 3400 ∧ 3100 ≤ 3100 ∧ 3099 < 3100) :=
  ⟨by decide +kernel, fun _ h => (by cases h), fun _ h => (by cases h), by decide +kernel, by decide⟩

theorem witness_SoftResetOpensTheSession : run.pins.inReset = false := by decide +kernel

/-- Each state of the port, and no access, an engine read and an engine write in progress. -/
theorem witness_SoftResetReturnsTheBlocks :
    (accessing (.engine (lastAccess 0x100000)) rest).port.access = .engine (lastAccess 0x100000) ∧
      (lastAccess 0x100000).write = false ∧ (accessing (.engine commit) rest).port.access = .engine commit ∧
      commit.write = true ∧ rest.pins.inReset = false ∧ rest.port.retention = .active ∧ (ported .entering rest).port.retention = .entering ∧
      (ported .retained rest).port.retention = .retained ∧ (ported .exiting rest).port.retention = .exiting ∧
      rest.port.access = .noAccess := by decide +kernel

/-- The invariants hold in a run, and a step from it completes. -/
theorem witness_invariants :
    RamCanonical run ∧ StarvationBounded run ∧ (TimerRunsInOpen run ∧ RecheckRunsInCritical run ∧ DegradedOnRc run) ∧
      LinesAgree run ∧ OrderBookBalances run ∧ EngineQueueLimits run ∧ ReadsAgree run := by
  refine ⟨rfl, ⟨by decide, fun _ => rfl⟩, ⟨?_, ?_, ?_⟩, ⟨rfl, rfl, fun h => (by cases h)⟩, ⟨fun _ => rfl, fun h => ?_, fun h => ?_, by decide, ?_⟩,
    by unfold EngineQueueLimits; decide +kernel, fun _ => rfl, fun _ => rfl, fun h => (by cases h)⟩
  · exact ⟨fun _ => rfl, fun _ => rfl⟩
  · exact ⟨fun h => (by cases h), fun h => (by cases h)⟩
  · exact ⟨fun h => (by cases h), fun h => (by cases h)⟩
  · cases h
  · cases h
  · intro t h; cases h; decide
theorem witness_step_from_run : ∃ t, step run = .next t := ⟨_, rfl⟩

end Sys2Proof.Tests
end

section
/-! PROOFS. The exposure arithmetic of spec 05: SET_EV, the brightness level, the metering sums with the guard and the correction, and
the split of a level into shutter and gain. -/

namespace Sys2Proof.Machine

/-! ### Clamping (spec 00 section 1.7) -/

theorem clampInt_of_below {lo hi x : Int} (h : x < lo) : clampInt lo hi x = lo := if_pos h

theorem clampInt_of_above {lo hi x : Int} (h : lo ≤ hi) (hx : hi < x) : clampInt lo hi x = hi := by
  rw [clampInt, if_neg (by omega), if_pos hx]

theorem clampInt_of_within {lo hi x : Int} (hlo : lo ≤ x) (hhi : x ≤ hi) : clampInt lo hi x = x := by
  rw [clampInt, if_neg (by omega), if_neg (by omega)]

theorem clampInt_eq_max_min {lo hi : Int} (h : lo ≤ hi) (x : Int) : clampInt lo hi x = max lo (min hi x) := by
  rcases lt_or_ge x lo with hlo | hlo
  · rw [clampInt_of_below hlo]; omega
  · rcases lt_or_ge hi x with hhi | hhi
    · rw [clampInt_of_above h hhi]; omega
    · rw [clampInt_of_within hlo hhi]; omega

/-! ### SET_EV (R88) -/

/-- Outside reset and with no busy command the row is its judgement and what follows. -/
theorem exec_setEv_of_free {s : State} (hb : s.cmd.busy = none) (hr : s.pins.inReset = false) (seq : BitVec 8) :
    exec (.setEv seq) s = .next (finish (setEv seq s)) := by
  have he : exec (.setEv seq) s = .next (finish (outsideReset (unlessBusy seq (setEv seq)) s)) := rfl
  simp [he, outsideReset, hr, unlessBusy_of_free hb]

theorem setEv_decides_state {s : State} (hb : s.cmd.busy = none) (hr : s.pins.inReset = false) (seq : BitVec 8)
    (hs : s.sched.runState ≠ .stopped) : Decides (.setEv seq) s seq .state s := by
  have hx : setEv seq s = decideCommand seq .state s := by simp [setEv, hs]
  exact Decides.of_near (hx ▸ exec_setEv_of_free hb hr seq) (Near.rfl' s)

/-- In STOPPED the level set is the clamped one, and the result says whether the clamp changed it. -/
theorem setEv_decides_clamped {s : State} (hb : s.cmd.busy = none) (hr : s.pins.inReset = false) (seq : BitVec 8)
    (hs : s.sched.runState = .stopped) {el : Nat} (hel : clampInt 0 1663 s.path.arg1.toInt = el) :
    Decides (.setEv seq) s seq (if (el : Int) = s.path.arg1.toInt then .ok else .okClamped)
      { s with expo := { s.expo with el := el } } := by
  have hx : setEv seq s = decideCommand seq (if (el : Int) = s.path.arg1.toInt then .ok else .okClamped)
      (requestStatus (s.modExpo fun x => { x with el := el })) := by simp [setEv, hs, hel]
  exact Decides.of_near (hx ▸ exec_setEv_of_free hb hr seq) (near_requestStatus _)

/-- Settles O9: the three cases of the request are the three cases of the clamp. -/
theorem setEvSetsTheExposureLevel : Obligations.SetEvSetsTheExposureLevel := by
  intro seq s hb hr
  refine ⟨setEv_decides_state hb hr seq, fun hs => ⟨fun hbook => ?_, fun el hel hle => ?_, fun hhi => ?_, fun hlo => ?_⟩⟩
  · obtain ⟨-, -, hrest, -⟩ := hbook
    exact (hrest (by rw [hs]; rfl)).1
  · have hc : clampInt 0 1663 s.path.arg1.toInt = el := hel ▸ clampInt_of_within (by omega) (by omega)
    simpa [hel] using setEv_decides_clamped hb hr seq hs hc
  · have hc : clampInt 0 1663 s.path.arg1.toInt = (1663 : Nat) := clampInt_of_above (by omega) hhi
    have hne : (1663 : Int) ≠ s.path.arg1.toInt := by omega
    simpa [hne] using setEv_decides_clamped hb hr seq hs hc
  · have hc : clampInt 0 1663 s.path.arg1.toInt = (0 : Nat) := clampInt_of_below hlo
    have hne : (0 : Int) ≠ s.path.arg1.toInt := by omega
    simpa [hne] using setEv_decides_clamped hb hr seq hs hc

/-! ### What a level stands for

`levelValue v` is 64 times the number whose brightness level is v: the inverse scale of R89, of which R105's shutter time and gain code
are a half and a quarter. -/

/-- 64 + f in the i-th doubling, for the level 64 × i + f. -/
def levelValue (v : Nat) : Nat := (64 + v % 64) * 2 ^ (v / 64)

theorem shutterTime_eq_levelValue (v : Nat) : shutterTime v = levelValue v / 2 := rfl

theorem gainCode_eq_levelValue (v : Nat) : gainCode v = levelValue v / 4 := rfl

theorem levelValue_stop (i : Nat) {f : Nat} (hf : f < 64) : levelValue (64 * i + f) = (64 + f) * 2 ^ i := by
  have hmod : (64 * i + f) % 64 = f := by omega
  have hdiv : (64 * i + f) / 64 = i := by omega
  rw [levelValue, hmod, hdiv]

/-- One step up adds one 64th of the stop's base, across the end of a stop too. -/
theorem levelValue_succ (i : Nat) {f : Nat} (hf : f < 64) : levelValue (64 * i + f + 1) = (64 + f + 1) * 2 ^ i := by
  rcases Nat.lt_or_ge (f + 1) 64 with h | h
  · exact levelValue_stop i h
  · have hn : 64 * i + f + 1 = 64 * (i + 1) + 0 := by omega
    rw [hn, levelValue_stop (i + 1) (by omega), show f = 63 by omega, pow_succ]
    ring

theorem levelValue_strictMono : StrictMono levelValue := by
  refine strictMono_nat_of_lt_succ fun v => ?_
  have hv : v = 64 * (v / 64) + v % 64 := by omega
  have hf : v % 64 < 64 := by omega
  have hpos : 0 < 2 ^ (v / 64) := by positivity
  rw [hv, levelValue_stop _ hf, levelValue_succ _ hf]
  exact Nat.mul_lt_mul_of_pos_right (by omega) hpos

/-! ### The brightness level (R89) -/

/-- Every x from 1 on lies in one stop. -/
theorem exists_stop {x : Nat} (hx : 1 ≤ x) : ∃ k, 2 ^ k ≤ x ∧ x < 2 ^ (k + 1) :=
  ⟨Nat.log2 x, Nat.log2_self_le (by omega), Nat.lt_log2_self⟩

theorem brightness_stop {x k : Nat} (hlo : 2 ^ k ≤ x) (hhi : x < 2 ^ (k + 1)) :
    brightness x = 64 * k + (x - 2 ^ k) * 64 / 2 ^ k := by
  have hpos : 0 < 2 ^ k := by positivity
  have hk : Nat.log2 x = k := (Nat.log2_eq_iff (by omega)).mpr ⟨hlo, hhi⟩
  simp only [brightness, show max x 1 = x by omega, hk]

/-- The second term stays within the stop. -/
theorem brightness_term_lt {x k : Nat} (hhi : x < 2 ^ (k + 1)) : (x - 2 ^ k) * 64 / 2 ^ k < 64 := by
  rw [pow_succ] at hhi
  have hpos : 0 < 2 ^ k := by positivity
  exact (Nat.div_lt_iff_lt_mul hpos).mpr (by omega)

/-- The brightness level and the value of a level are adjoint: BL(x) is the highest level whose value is at most 64 × x. -/
theorem le_brightness_iff {x : Nat} (hx : 1 ≤ x) (v : Nat) : v ≤ brightness x ↔ levelValue v ≤ 64 * x := by
  obtain ⟨k, hlo, hhi⟩ := exists_stop hx
  have hpos : 0 < 2 ^ k := by positivity
  have hf := brightness_term_lt hhi
  rw [brightness_stop hlo hhi]
  set f := (x - 2 ^ k) * 64 / 2 ^ k with hfdef
  have hle : f * 2 ^ k ≤ (x - 2 ^ k) * 64 := Nat.div_mul_le_self _ _
  have hlt : (x - 2 ^ k) * 64 < (f + 1) * 2 ^ k := (Nat.div_lt_iff_lt_mul hpos).mp (Nat.lt_succ_self _)
  constructor
  · intro hv
    calc levelValue v ≤ levelValue (64 * k + f) := levelValue_strictMono.monotone hv
      _ = 64 * 2 ^ k + f * 2 ^ k := by rw [levelValue_stop k hf, Nat.add_mul]
      _ ≤ 64 * x := by omega
  · intro hv
    by_contra hgt
    have hup : levelValue (64 * k + f + 1) ≤ levelValue v := levelValue_strictMono.monotone (by omega)
    have hval : levelValue (64 * k + f + 1) = 64 * 2 ^ k + (f + 1) * 2 ^ k := by rw [levelValue_succ k hf]; ring
    omega

theorem levelValue_brightness_le {x : Nat} (hx : 1 ≤ x) : levelValue (brightness x) ≤ 64 * x :=
  (le_brightness_iff hx _).mp le_rfl

theorem brightness_zero : brightness 0 = brightness 1 := rfl

theorem brightness_mono : Monotone brightness := by
  intro x y hxy
  rcases Nat.eq_zero_or_pos x with rfl | hx
  · rcases Nat.eq_zero_or_pos y with rfl | hy
    · exact le_rfl
    · have h1 : levelValue (brightness 1) ≤ 64 * 1 := levelValue_brightness_le le_rfl
      rw [brightness_zero]
      exact (le_brightness_iff hy _).mpr (by omega)
  · have hval := levelValue_brightness_le hx
    exact (le_brightness_iff (by omega) _).mpr (by omega)

theorem brightness_double {x : Nat} (hx : 1 ≤ x) : brightness (2 * x) = brightness x + 64 := by
  obtain ⟨k, hlo, hhi⟩ := exists_stop hx
  have hterm : (2 * x - 2 ^ (k + 1)) * 64 / 2 ^ (k + 1) = (x - 2 ^ k) * 64 / 2 ^ k := by
    have hnum : (2 * x - 2 ^ (k + 1)) * 64 = 2 * ((x - 2 ^ k) * 64) := by rw [pow_succ]; omega
    rw [hnum, pow_succ, Nat.mul_comm (2 ^ k) 2, Nat.mul_div_mul_left _ _ (by omega)]
  have hlo' : 2 ^ (k + 1) ≤ 2 * x := by rw [pow_succ]; omega
  have hhi' : 2 * x < 2 ^ (k + 1 + 1) := by rw [pow_succ]; omega
  rw [brightness_stop hlo hhi, brightness_stop hlo' hhi', hterm]
  ring

/-- The spec's own values, and the two ends of the ranges of x. -/
theorem brightness_values :
    brightness 1 = 0 ∧ brightness 3 = 96 ∧ brightness 100 = 420 ∧ brightness 480 = 568 ∧ brightness 1200 = 651 ∧
      brightness 4095 = 767 ∧ brightness 1048575 = 1279 := by decide +kernel

/-- Settles O48: monotone since BL is the adjoint of the strictly rising value of a level; the bounds are its values at the ends. -/
theorem brightnessLevel : Obligations.BrightnessLevel := by
  obtain ⟨-, -, -, -, -, h4095, hlast⟩ := brightness_values
  refine ⟨brightness_zero, fun x k hlo hhi => ⟨brightness_stop hlo hhi, Nat.le_of_lt_succ (brightness_term_lt hhi)⟩,
    fun x y h => brightness_mono h, fun x hx => brightness_double hx, fun x hx => ?_, fun x hx => ?_, brightness_values⟩
  · exact h4095 ▸ brightness_mono hx
  · exact hlast ▸ brightness_mono hx

/-! ### The metering sums (R90, R91) -/

/-- The zones of a record's values whose zone word is present, by their places in it, zone `zone` first (R71). -/
def presentZones (p : BitVec 32) (zone n : Nat) : List Nat := (List.range n).filter fun i => zonePresent p (zone + i)

theorem presentZones_succ (p : BitVec 32) (zone n : Nat) :
    presentZones p zone (n + 1) =
      (if zonePresent p zone then [0] else []) ++ (presentZones p (zone + 1) n).map Nat.succ := by
  have hshift : ((fun i => zonePresent p (zone + i)) ∘ Nat.succ) = fun i => zonePresent p (zone + 1 + i) := by
    funext i
    simp only [Function.comp_apply, Nat.succ_eq_add_one, Nat.add_assoc, Nat.add_comm 1 i]
  rw [presentZones, List.range_succ_eq_map, List.filter_cons, List.filter_map, hshift]
  cases zonePresent p zone <;> simp [presentZones]

/-- The sums that `meterFrom` gathers are sums over the present zones, from any zone on. -/
theorem meterFrom_eq_sums (u : Tuning) (set : Nat) (p : BitVec 32) (zone : Nat) (zs : List Nat) :
    meterFrom u set p zone zs =
      ⟨((presentZones p zone zs.length).map fun i => u.weight set (zone + i)).sum,
       ((presentZones p zone zs.length).map fun i => u.weight set (zone + i) * zs.getD i 0).sum,
       ((presentZones p zone zs.length).filter fun i => decide (u.clipLevel ≤ zs.getD i 0)).length⟩ := by
  induction zs generalizing zone with
  | nil => rfl
  | cons z zs ih =>
    have hplace : ∀ i, zone + 1 + i = zone + (i + 1) := fun i => by omega
    rw [meterFrom, ih, List.length_cons, presentZones_succ]
    cases zonePresent p zone
    · simp [List.filter_map, Function.comp_def, hplace]
    · have hweight := Nat.add_comm (u.weight set zone)
      have hvalue := Nat.add_comm (u.weight set zone * z)
      by_cases hc : u.clipLevel ≤ z <;>
        simp [List.filter_map, Function.comp_def, hplace, hc, hweight, hvalue]

/-! ### The highlight guard and the correction (R98, R100) -/

theorem guardError_of_reached {c : Segment} {clip : Nat} (h0 : 0 < c.guardZones) (h : c.guardZones ≤ clip) (e : Int) :
    guardError c clip e = min e (-(c.guardStep : Int)) := by simp [guardError, h0, h]

theorem guardError_of_not_reached {c : Segment} {clip : Nat} (h : c.guardZones = 0 ∨ clip < c.guardZones) (e : Int) :
    guardError c clip e = e := by
  have hn : ¬(0 < c.guardZones ∧ c.guardZones ≤ clip) := by omega
  simp [guardError, hn]

theorem correction_of_deadband {c : Segment} {e : Int} (h : e.natAbs ≤ c.deadband) : correction c e = 0 := by
  simp [correction, h]

theorem correction_of_beyond {c : Segment} {e : Int} (h : c.deadband < e.natAbs) :
    correction c e = max (-(c.slew : Int)) (min (c.slew : Int) (Int.tdiv (e * c.gainNum) 16)) := by
  rw [correction, if_neg (by omega), clampInt_eq_max_min (by omega)]

theorem correction_within_slew (c : Segment) (e : Int) : -(c.slew : Int) ≤ correction c e ∧ correction c e ≤ c.slew := by
  rcases Nat.lt_or_ge c.deadband e.natAbs with h | h
  · rw [correction_of_beyond h]; omega
  · rw [correction_of_deadband h]; omega

/-- A sixteenth truncated toward zero, from above 0. -/
theorem tdiv_sixteen_of_nonneg {a : Int} (h : 0 ≤ a) : 16 * a.tdiv 16 ≤ a ∧ a < 16 * a.tdiv 16 + 16 := by
  rw [Int.tdiv_eq_ediv_of_nonneg h]
  omega

/-- A sixteenth truncated toward zero, from below 0. -/
theorem tdiv_sixteen_of_nonpos {a : Int} (h : a ≤ 0) : 16 * a.tdiv 16 - 16 < a ∧ a ≤ 16 * a.tdiv 16 := by
  have hneg := tdiv_sixteen_of_nonneg (a := -a) (by omega)
  rw [Int.neg_tdiv] at hneg
  omega

/-- Settles O49: the sums by induction along the record's values, the guard and the correction by their cases. -/
theorem guardAndCorrection : Obligations.GuardAndCorrection := by
  intro c clip e
  have hgain : (0 : Int) ≤ c.gainNum := by omega
  refine ⟨fun h0 h => ?_, fun h => guardError_of_not_reached h e, fun u set p zs => ?_, correction_of_deadband,
    fun h => ?_, correction_within_slew c e⟩
  · rw [guardError_of_reached h0 h]
    exact ⟨rfl, fun _ _ => by omega⟩
  · simp [meterFrom_eq_sums, presentZones, zonePresent]
  · refine ⟨Int.tdiv (e * c.gainNum) 16, fun he => ?_, fun he => ?_, correction_of_beyond h⟩
    · exact tdiv_sixteen_of_nonneg (mul_nonneg he hgain)
    · exact tdiv_sixteen_of_nonpos (mul_nonpos_of_nonpos_of_nonneg he.le hgain)

/-! ### The bounds of a copy (R94, R95) -/

theorem within_iff {lo hi x : Nat} : within lo hi x = true ↔ lo ≤ x ∧ x ≤ hi := by simp [within]

/-- What a valid copy's fields say of its bounds (R28, R31). -/
theorem Segment.bounds_of_inRange {c : Segment} (h : c.inRange = true) :
    c.elMax ≤ 1663 ∧ c.shutterMax ≤ 1279 ∧ c.gainMax ≤ 384 ∧ 1000 * c.readoutMargin < intervalUs c.interval := by
  simp only [Segment.inRange, Bool.and_eq_true, within_iff, decide_eq_true_eq] at h
  tauto

theorem Segment.shutterCeiling_le_shutterMax (c : Segment) : c.shutterCeiling ≤ c.shutterMax := Nat.min_le_left _ _

theorem Segment.hi_le_elMax (c : Segment) : c.hi ≤ c.elMax := Nat.min_le_left _ _

theorem Segment.hi_le_ceiling_add_gainMax (c : Segment) : c.hi ≤ c.shutterCeiling + c.gainMax := Nat.min_le_right _ _

theorem Segment.usableUs_pos {c : Segment} (h : c.inRange = true) : 1 ≤ c.usableUs := by
  obtain ⟨-, -, -, hmargin⟩ := Segment.bounds_of_inRange h
  unfold Segment.usableUs
  omega

theorem Segment.shutterCeiling_eq_zero {c : Segment} (h : c.usableUs < 32) : c.shutterCeiling = 0 := by
  simp [Segment.shutterCeiling, durationLevel, h]

/-! ### The shutter time and the gain code (R105) -/

theorem shutterTime_mono : Monotone shutterTime := fun _ _ h =>
  Nat.div_le_div_right (levelValue_strictMono.monotone h)

theorem gainCode_mono : Monotone gainCode := fun _ _ h => Nat.div_le_div_right (levelValue_strictMono.monotone h)

theorem shutterTime_ends : shutterTime 0 = 32 ∧ shutterTime 1279 = 33292288 := by decide +kernel

theorem gainCode_ends : gainCode 0 = 16 ∧ gainCode 384 = 1024 := by decide +kernel

theorem shutterTime_brightness_le {x : Nat} (hx : 1 ≤ x) : shutterTime (brightness x) ≤ 32 * x := by
  have hval := levelValue_brightness_le hx
  rw [shutterTime_eq_levelValue]
  omega

/-- The ceiling's own shutter time fits the usable interval (R94). -/
theorem shutterTime_shutterCeiling_le {c : Segment} (h : 32 ≤ c.usableUs) : shutterTime c.shutterCeiling ≤ c.usableUs := by
  have hlevel : c.shutterCeiling ≤ brightness (min (c.usableUs / 32) 1048575) := by
    simp [Segment.shutterCeiling, durationLevel, Nat.not_lt.mpr h]
  calc shutterTime c.shutterCeiling ≤ shutterTime (brightness (min (c.usableUs / 32) 1048575)) := shutterTime_mono hlevel
    _ ≤ 32 * min (c.usableUs / 32) 1048575 := shutterTime_brightness_le (by omega)
    _ ≤ c.usableUs := by omega

/-! ### The split of a level (R104) -/

theorem Segment.shutterPart_le_ceiling (c : Segment) (el : Nat) : c.shutterPart el ≤ c.shutterCeiling := Nat.min_le_right _ _

theorem Segment.shutterPart_add_gainPart (c : Segment) (el : Nat) : c.shutterPart el + c.gainPart el = el := by
  have hle : c.shutterPart el ≤ el := Nat.min_le_left _ _
  unfold Segment.gainPart
  omega

theorem Segment.gainPart_le_gainMax {c : Segment} {el : Nat} (h : el ≤ c.hi) : c.gainPart el ≤ c.gainMax := by
  have hhi := c.hi_le_ceiling_add_gainMax
  unfold Segment.gainPart Segment.shutterPart
  omega

/-- Settles O50: the parts of a level lie below the ceiling and the gain max, and the shutter time and the gain code rise with them. -/
theorem shutterAndGain : Obligations.ShutterAndGain := by
  obtain ⟨hshort, hlong⟩ := shutterTime_ends
  obtain ⟨hunit, hfull⟩ := gainCode_ends
  refine ⟨fun c => ⟨rfl, rfl, rfl, rfl, fun hc => ?_⟩, fun c el hc _ hel => ?_,
    fun i f hf => ⟨congrArg (· / 2) (levelValue_stop i hf), congrArg (· / 4) (levelValue_stop i hf)⟩,
    fun x y h => ⟨shutterTime_mono h, gainCode_mono h⟩, hshort, hlong, hunit, hfull,
    fun x hx _ => shutterTime_brightness_le hx⟩
  · obtain ⟨helMax, hshutterMax, -, -⟩ := Segment.bounds_of_inRange hc
    exact ⟨Segment.usableUs_pos hc, c.shutterCeiling_le_shutterMax.trans hshutterMax, c.hi_le_elMax.trans helMax⟩
  · obtain ⟨-, hshutterMax, hgainMax, -⟩ := Segment.bounds_of_inRange hc
    have hceil := c.shutterPart_le_ceiling el
    have hsh : c.shutterPart el ≤ 1279 := hceil.trans (c.shutterCeiling_le_shutterMax.trans hshutterMax)
    have hga : c.gainPart el ≤ c.gainMax := Segment.gainPart_le_gainMax hel
    have hga' : c.gainPart el ≤ 384 := hga.trans hgainMax
    refine ⟨rfl, rfl, c.shutterPart_add_gainPart el, hsh, hga, hga', hshort ▸ shutterTime_mono (Nat.zero_le _),
      hlong ▸ shutterTime_mono hsh, hunit ▸ gainCode_mono (Nat.zero_le _), hfull ▸ gainCode_mono hga',
      fun hu => (shutterTime_mono hceil).trans (shutterTime_shutterCeiling_le hu), fun hu => ?_⟩
    have hzero : c.shutterCeiling = 0 := Segment.shutterCeiling_eq_zero hu
    have hpart : c.shutterPart el = 0 := by omega
    exact ⟨hzero, by simp only [hpart, hshort]⟩

end Sys2Proof.Machine
end

section
/-! PROOFS. The session after the soft reset of RESET_PART (spec 06). Where no log record waits, the engine's services leave the session
as it is, so that in an awake session with no run nothing that follows the reset changes it. -/

namespace Sys2Proof.Machine

/-! ### Services with no log record waiting (R163, R169) -/

theorem NoLogWaiting.of_engine {a b : State} (h : NoLogWaiting a) (k : b.engine = a.engine) : NoLogWaiting b := by
  unfold NoLogWaiting at *
  rw [k]
  exact h

theorem requestStatus_noLog {s : State} (h : NoLogWaiting s) : NoLogWaiting (requestStatus s) := by
  unfold NoLogWaiting at *
  simp only [requestStatus, State.modEngine_engine]
  (repeat' split) <;> simp only [h, List.any_append, Bool.false_or]
  all_goals rfl

theorem requestFetch_noLog (n : Nat) {s : State} (h : NoLogWaiting s) : NoLogWaiting (requestFetch n s) := by
  unfold NoLogWaiting at *
  simp only [requestFetch, State.modEngine_engine, State.modCache_engine, List.any_append, h, Bool.false_or]
  rfl

theorem cacheSettle_noLog {s : State} (h : NoLogWaiting s) : NoLogWaiting (cacheSettle s) := by
  unfold cacheSettle
  split
  · exact h
  · split
    · split
      · exact h
      · exact requestFetch_noLog _ (h.of_engine rfl)
    · split
      · exact h
      · exact requestFetch_noLog _ h

/-- A LOG_WRITE's service alone can raise an event. -/
theorem beginRequest_session {r : Request} (h : r.isLog = false) (s : State) : (beginRequest r s).session = s.session := by
  cases r with
  | log l => cases h
  | order c => simp [beginRequest]
  | status => simp [beginRequest]
  | planFetch n a => simp [beginRequest]
  | configRead => simp [beginRequest]

theorem serve_waiting (r : Request) (l : List EngineAccess) (b : Bool) (v : BitVec 8) (s : State) :
    (serve r l b v s).engine.waiting = s.engine.waiting := by simp [serve]

theorem beginRequest_waiting {r : Request} (h : r.isLog = false) (s : State) :
    (beginRequest r s).engine.waiting = s.engine.waiting := by
  cases r with
  | log l => cases h
  | order c => exact serve_waiting _ _ _ _ _
  | status => exact serve_waiting _ _ _ _ _
  | planFetch n a => exact serve_waiting _ _ _ _ _
  | configRead => exact serve_waiting _ _ _ _ _

theorem beginOnce_of_noLog {s : State} (h : NoLogWaiting s) :
    (beginOnce s).session = s.session ∧ NoLogWaiting (beginOnce s) := by
  unfold beginOnce
  split
  · exact ⟨rfl, h⟩
  · split
    · exact ⟨rfl, h⟩
    · rename_i r hr
      have hall : ∀ q ∈ s.engine.waiting, q.isLog = false := fun q hq => by simpa using List.any_eq_false.mp h q hq
      have hlog : r.isLog = false := hall r (chooseRequest_mem hr)
      refine ⟨beginRequest_session hlog _, ?_⟩
      unfold NoLogWaiting
      rw [beginRequest_waiting hlog]
      exact List.any_eq_false.mpr fun q hq => by simp [hall q (List.mem_of_mem_erase hq)]

theorem beginService_session {s : State} (h : NoLogWaiting s) : (beginService s).session = s.session := by
  obtain ⟨hfirst, hnone⟩ := beginOnce_of_noLog h
  exact (beginOnce_of_noLog hnone).1.trans hfirst

/-- In an awake session with no run capturing and no log record waiting, nothing that follows changes the session, its event counts and
marks included. -/
theorem finish_session {s : State} (hrun : s.sched.runState.capturing = false) (hawake : s.session.asleep = false)
    (hlog : NoLogWaiting s) : (finish s).session = s.session := by
  have hcache : (cacheSettle (freeBuffer s)).session = s.session := by simp
  have hwait : NoLogWaiting (cacheSettle (freeBuffer s)) := cacheSettle_noLog (hlog.of_engine (by simp))
  rw [finish_of_idle hrun, judgeWakes_of_awake (hcache ▸ hawake)]
  simp [beginService_session hwait]

/-! ### The soft reset (R125, R175) -/

/-- Of what the end of an engine access leaves alone, the parts that the soft reset reads for the session and the pins. -/
theorem endEngineAccess_frame (s : State) :
    (endEngineAccess s).pins = s.pins ∧ (endEngineAccess s).tb = s.tb ∧ (endEngineAccess s).session = s.session := by
  unfold endEngineAccess
  cases s.port.access with
  | noAccess => simp
  | pass tx => simp
  | engine a => cases hw : a.write <;> simp [hw]

theorem softReset_session (s : State) : (softReset s).session = s.session.softReset s.tb.elapsed := by
  obtain ⟨-, htb, hsession⟩ := endEngineAccess_frame s
  simp only [softReset, hsession, htb]

theorem softReset_pins (s : State) : (softReset s).pins = s.pins.softReset := by
  obtain ⟨hpins, -⟩ := endEngineAccess_frame s
  simp only [softReset, hpins]

theorem softReset_elapsed (s : State) : (softReset s).tb.elapsed = s.tb.elapsed := by
  obtain ⟨-, htb, -⟩ := endEngineAccess_frame s
  simp only [softReset, htb]

/-- An acceptance in OPEN changes the session's timer alone (R116). -/
theorem decideCommand_session_of_open {s : State} {r : Result} (hr : r.accepts = true) (ho : s.session.state = .open)
    (seq : BitVec 8) :
    (decideCommand seq r s).session =
      { s.session with timer := some (expiryAfter s.tb.elapsed s.config.settings.sessionLimit) } := by
  simp [decideCommand, restartTimer, hr, ho]

theorem restartTimer_noLog {s : State} (h : NoLogWaiting s) : NoLogWaiting (restartTimer s) := h.of_engine (by simp)

theorem decideCommand_noLog (seq : BitVec 8) (r : Result) {s : State} (h : NoLogWaiting s) :
    NoLogWaiting (decideCommand seq r s) := by
  have hstatus := requestStatus_noLog (h.of_engine (b := s.modCmd fun c => { c with lastDecided := some (seq, r) }) rfl)
  unfold decideCommand
  dsimp only
  split
  · exact restartTimer_noLog hstatus
  · exact hstatus

/-- The decision restarts the timer with the limit that the reset has started it with (R116, R125). -/
theorem resetPart_session (seq : BitVec 8) (s : State) :
    (resetPart seq s).session = s.session.softReset s.tb.elapsed := by
  have hsession := softReset_session s
  have hopen : (softReset s).session.state = .open := by rw [hsession]; rfl
  rw [resetPart, decideCommand_session_of_open rfl hopen, hsession, softReset_elapsed]
  rfl

theorem resetPart_noLog (seq : BitVec 8) (s : State) : NoLogWaiting (resetPart seq s) := decideCommand_noLog seq .ok rfl

theorem resetPart_pins (seq : BitVec 8) (s : State) : (resetPart seq s).pins = s.pins.softReset := by
  simp [resetPart, softReset_pins]

/-- The reset leaves no run and the default configuration (R1, R109). -/
theorem resetPart_blocks (seq : BitVec 8) (s : State) :
    (resetPart seq s).sched = .reset ∧ (resetPart seq s).config = .default := by simp [resetPart, softReset]

theorem exec_resetPart {s : State} (hr : s.pins.inReset = false) (seq : BitVec 8) (straps : BitVec 3) :
    exec (.resetPart seq straps) s =
      .next (finish (resetPart seq (s.modPins fun p => { p with straps := straps }))) := by
  have he : exec (.resetPart seq straps) s = execResetPart seq straps s := rfl
  rw [he, execResetPart, outsideReset, hr]
  rfl

/-- Settles O52: the reset itself sets the session, and in an open session without a run and without log records nothing that follows
changes it or the lines. -/
theorem softResetOpensTheSession : Obligations.SoftResetOpensTheSession := by
  intro seq straps s hr
  let s' := s.modPins fun p => { p with straps := straps }
  obtain ⟨hsched, hconfig⟩ := resetPart_blocks seq s'
  have hsession := resetPart_session seq s'
  have hawake : (resetPart seq s').session.asleep = false := by rw [hsession]; rfl
  have hrun : (resetPart seq s').sched.runState.capturing = false := by rw [hsched]; rfl
  have hlines : (finish (resetPart seq s')).pins = s'.pins.softReset :=
    (finish_awake hawake).pins.trans (resetPart_pins seq s')
  refine ⟨finish (resetPart seq s'), exec_resetPart hr seq straps, ?_, ?_, ?_, ?_, ?_⟩
  · exact (finish_session hrun hawake (resetPart_noLog seq s')).trans hsession
  · rw [hlines]; rfl
  · rw [hlines]; rfl
  · rw [hlines]; rfl
  · rw [(finish_fixed _).config, hconfig]; rfl

end Sys2Proof.Machine
end

section
/-! PROOFS. SET_TIME (spec 07): the time value of its arguments, and its three results. -/

namespace Sys2Proof.Machine

/-! ### The time value of two argument words (R131, R134) -/

/-- A time value is its seconds word above the low ten bits of its tick word. -/
theorem argTime_toNat (s : State) :
    (argTime s).toNat = s.path.arg1.toNat * 1024 + s.path.arg2.toNat % 1024 := by
  have hlow : (s.path.arg2.setWidth 10).toNat = s.path.arg2.toNat % 1024 := BitVec.toNat_setWidth ..
  rw [argTime, BitVec.toNat_append, ← hlow, ← Nat.shiftLeft_add_eq_or_of_lt (BitVec.isLt _), Nat.shiftLeft_eq]

theorem argTime_seconds (s : State) : (argTime s).seconds = s.path.arg1.toNat := by
  rw [Time.seconds, argTime_toNat]
  omega

theorem argTime_tick {s : State} (h : s.path.arg2.toNat ≤ 1023) : (argTime s).tick = s.path.arg2.toNat := by
  rw [Time.tick, argTime_toNat]
  omega

/-! ### SET_TIME (R134) -/

theorem RunState.resting_iff (r : RunState) : r.resting = true ↔ r = .unconfigured ∨ r = .stopped := by
  cases r <;> simp [RunState.resting]

/-- Outside reset and with no busy command the row is its judgement and what follows. -/
theorem exec_setTime_of_free {s : State} (hb : s.cmd.busy = none) (hr : s.pins.inReset = false) (seq : BitVec 8) :
    exec (.setTime seq) s = .next (finish (setTime seq s)) := by
  have he : exec (.setTime seq) s = .next (finish (outsideReset (unlessBusy seq (setTime seq)) s)) := rfl
  simp [he, outsideReset, hr, unlessBusy_of_free hb]

theorem setTime_decides_state {s : State} (hb : s.cmd.busy = none) (hr : s.pins.inReset = false) (seq : BitVec 8)
    (hs : s.sched.runState.resting = false) : Decides (.setTime seq) s seq .state s := by
  have hx : setTime seq s = decideCommand seq .state s := by simp [setTime, hs]
  exact Decides.of_near (hx ▸ exec_setTime_of_free hb hr seq) (Near.rfl' s)

theorem setTime_decides_range {s : State} (hb : s.cmd.busy = none) (hr : s.pins.inReset = false) (seq : BitVec 8)
    (hs : s.sched.runState.resting = true) (ht : 1023 < s.path.arg2.toNat) :
    Decides (.setTime seq) s seq .range s := by
  have hx : setTime seq s = decideCommand seq .range s := by simp [setTime, hs, ht]
  exact Decides.of_near (hx ▸ exec_setTime_of_free hb hr seq) (Near.rfl' s)

theorem setTime_decides_ok {s : State} (hb : s.cmd.busy = none) (hr : s.pins.inReset = false) (seq : BitVec 8)
    (hs : s.sched.runState.resting = true) (ht : s.path.arg2.toNat ≤ 1023) :
    Decides (.setTime seq) s seq .ok { s with tb := { s.tb with time := argTime s, unset := false } } := by
  have hx : setTime seq s =
      decideCommand seq .ok (requestStatus (s.modTb fun y => { y with time := argTime s, unset := false })) := by
    simp [setTime, hs, Nat.not_lt.mpr ht]
  exact Decides.of_near (hx ▸ exec_setTime_of_free hb hr seq) (near_requestStatus _)

/-- Settles O7: the run state decides STATE, then the tick decides between RANGE and the time value of the arguments. -/
theorem setTimeReplacesTheTime : Obligations.SetTimeReplacesTheTime := by
  intro seq s hb hr
  refine ⟨fun hunconfigured hstopped => ?_, fun h => ?_⟩
  · have hs : s.sched.runState.resting = false := by simp [← Bool.not_eq_true, RunState.resting_iff, hunconfigured, hstopped]
    exact setTime_decides_state hb hr seq hs
  · have hs : s.sched.runState.resting = true := (RunState.resting_iff _).mpr h
    refine ⟨fun hbook => ?_, setTime_decides_range hb hr seq hs, fun ht => ?_⟩
    · obtain ⟨-, -, hrest, -⟩ := hbook
      exact (hrest hs).1
    · exact ⟨argTime s, argTime_seconds s, argTime_tick ht, setTime_decides_ok hb hr seq hs ht⟩

end Sys2Proof.Machine
end

section
/-! PROOFS. A step as its row's own effect and what follows from it, so that an invariant of every step is an invariant of the effects
and of `finish`. -/

namespace Sys2Proof.Machine

/-- A row's own effect, before what follows from it. -/
def rowEffect (c : Instr) (s : State) : State :=
  match c with
  | .configure seq => outsideReset (unlessBusy seq (configureCommand seq)) s
  | .configReadComplete => guarded (servesLastConfigRead s) engineCompleteNow s
  | .setTime seq => outsideReset (unlessBusy seq (setTime seq)) s
  | .trimTime seq => outsideReset (unlessBusy seq (trimTime seq)) s
  | .loadPlan seq => outsideReset (unlessBusy seq (loadPlan seq)) s
  | .setEv seq => outsideReset (unlessBusy seq (setEv seq)) s
  | .start seq => outsideReset (unlessBusy seq (startCommand seq)) s
  | .stop seq => outsideReset (unlessBusy seq (stopCommand seq)) s
  | .arm seq => outsideReset (unlessBusy seq (armCommand seq)) s
  | .sleep seq => outsideReset (unlessBusy seq (sleepCommand seq)) s
  | .clear seq => outsideReset (unlessBusy seq (clearCommand seq)) s
  | .clearPlanBit => outsideReset clearPlan s
  | .clearStatisticsBit => outsideReset clearStatistics s
  | .clearEventBit => outsideReset clearEvents s
  | .clearTimeBit => outsideReset clearTime s
  | .resetPart seq straps => outsideReset (fun t => resetPart seq (t.modPins fun p => { p with straps := straps })) s
  | .unassignedCommandCode _ seq => outsideReset (unlessBusy seq (decideCommand seq .unknown)) s
  | .commandWordDamaged w => outsideReset (takeDamaged w) s
  | .argumentWordWrite i w => outsideReset (takeArgument i w) s
  | .consumerIndexWrite w => takeConsumer w s
  | .planWordWrite a en => takePlanWord a.toNat en s
  | .statHeaderWord w => whenReported (takeHeader w) s
  | .statZoneWord k w => whenReported (takeZone k w) s
  | .statClosingWord w => whenReported (takeClosing w) s
  | .dueTime => dueNow s
  | .statisticsDeadline => deadlineNow s
  | .planFetchComplete => guarded (servesFetch s) engineCompleteNow s
  | .scheduledWake => judgeScheduled s
  | .idleWake => judgeIdle s
  | .resetHoldExpiry b => guarded (s.session.wakeAt .resetHold) (endResetHold b) s
  | .sessionTimerExpiry b => guarded (sessionExpired s) (forceSleep b) s
  | .alertHoldoffExpiry =>
    guarded (timerDue s.tb.elapsed s.session.holdoff) (fun t => t.modSession fun x => { x with holdoff := none }) s
  | .recheckTimerExpiry b => guarded (timerDue s.tb.elapsed s.supply.recheck) (recheck b) s
  | .crystalStop => outsideReset crystalStopped s
  | .crystalRunning => outsideReset (guarded s.tb.runsSteadily crystalRuns) s
  | .powerOnReset pins => powerOnSample pins (powerOn pins s)
  | .passThroughArrival tx => makeTransaction tx s
  | .passThroughCompletion => passCompleteNow s
  | .engineAccessComplete => engineCompleteNow s
  | .retentionEntryComplete b => guarded (decide (s.port.retention = .entering)) (entryComplete b) s
  | .retentionExitComplete => guarded (exitPossible s) exitComplete s
  | .wakePulseEnd b => guarded (s.session.wakeAt .wakePulse) (endWakePulse b) s
  | .triggerPulseEnd => s.modPins fun p => { p with trigger := false }

/-- Every row is its own effect and what follows from it. -/
theorem exec_eq (c : Instr) (s : State) : exec c s = .next (finish (rowEffect c s)) := by cases c <;> rfl

/-- The rows of the timed events that an idle step takes, in their order (L4). -/
theorem dueEvent_is_row {s : State} {f : State → State} (hr : s.pins.inReset = false) (h : dueEvent s = some f) :
    ∃ c, f s = rowEffect c s := by
  unfold dueEvent at h
  split at h
  · cases h; exact ⟨.crystalStop, by simp [rowEffect, outsideReset, hr]⟩
  split at h
  · cases h; exact ⟨.dueTime, rfl⟩
  split at h
  · cases h; exact ⟨.statisticsDeadline, rfl⟩
  split at h
  · rename_i he; cases h; exact ⟨.sessionTimerExpiry s.pins.batterySense, by simp [rowEffect, guarded, he]⟩
  split at h
  · rename_i he; cases h; exact ⟨.recheckTimerExpiry s.pins.batterySense, by simp [rowEffect, guarded, he]⟩
  split at h
  · rename_i he; cases h; exact ⟨.alertHoldoffExpiry, by simp [rowEffect, guarded, he]⟩
  · cases h

/-- What a step with no command waiting can do: nothing in reset, a row, or a tick (L4). -/
theorem idle_cases (s : State) :
    idle s = s ∨ (∃ c, idle s = finish (rowEffect c s)) ∨ idle s = finish (s.modTb TimeBase.ticked) := by
  unfold idle
  split
  · exact .inl rfl
  · rename_i hr
    split
    · rename_i f hf
      obtain ⟨c, hc⟩ := dueEvent_is_row (by simpa using hr) hf
      exact .inr (.inl ⟨c, by rw [hc]⟩)
    · exact .inr (.inr rfl)

/-- A predicate that rows' effects, a tick and what follows them keep is kept by every step. -/
theorem step_keeps {P : State → Prop} (hpending : ∀ {s} q, P s → P (s.setPending q))
    (htick : ∀ {s}, P s → P (s.modTb TimeBase.ticked)) (hrow : ∀ {s} c, P s → P (rowEffect c s))
    (hfinish : ∀ {s}, P s → P (finish s)) {s t : State} (h : P s) (hs : step s = .next t) : P t := by
  unfold step at hs
  split at hs
  · rw [exec_eq] at hs
    cases hs
    exact hfinish (hrow _ (hpending _ h))
  · cases hs
    rcases idle_cases s with hi | ⟨c, hi⟩ | hi <;> rw [hi]
    · exact h
    · exact hfinish (hrow c h)
    · exact hfinish (htick h)

end Sys2Proof.Machine
end

section
/-! SUPPORT. What the session's operations and the soft reset leave alone, field by field. -/

namespace Sys2Proof.Machine

@[simp] theorem enterSleep_frame (kind : SleepKind) (s : State) :
    (enterSleep kind s).tb = s.tb ∧ (enterSleep kind s).supply = s.supply ∧ (enterSleep kind s).sched = s.sched ∧
    (enterSleep kind s).seg = s.seg ∧ (enterSleep kind s).expo = s.expo ∧ (enterSleep kind s).stats = s.stats ∧
    (enterSleep kind s).cache = s.cache ∧ (enterSleep kind s).path = s.path ∧ (enterSleep kind s).port = s.port ∧
    (enterSleep kind s).engine = s.engine ∧ (enterSleep kind s).cmd = s.cmd ∧ (enterSleep kind s).config = s.config ∧
    (enterSleep kind s).ram = s.ram ∧ (enterSleep kind s).freeCount = s.freeCount ∧
    (enterSleep kind s).pending = s.pending ∧ (enterSleep kind s).pins.board = s.pins.board := by
  unfold enterSleep asleepLines; split <;> simp

@[simp] theorem openSession_frame (v : BitVec 8) (s : State) :
    (openSession v s).tb = s.tb ∧ (openSession v s).supply = s.supply ∧ (openSession v s).sched = s.sched ∧
    (openSession v s).seg = s.seg ∧ (openSession v s).expo = s.expo ∧ (openSession v s).stats = s.stats ∧
    (openSession v s).cache = s.cache ∧ (openSession v s).path = s.path ∧ (openSession v s).port = s.port ∧
    (openSession v s).cmd = s.cmd ∧ (openSession v s).config = s.config ∧ (openSession v s).ram = s.ram ∧
    (openSession v s).freeCount = s.freeCount ∧ (openSession v s).pending = s.pending ∧
    (openSession v s).pins.board = s.pins.board := by
  unfold openSession; simp

@[simp] theorem wakeSample_frame (b : Nat) (s : State) :
    (wakeSample b s).tb = s.tb ∧ (wakeSample b s).expo = s.expo ∧ (wakeSample b s).cache = s.cache ∧
    (wakeSample b s).path = s.path ∧ (wakeSample b s).cmd = s.cmd ∧ (wakeSample b s).config = s.config ∧
    (wakeSample b s).ram = s.ram ∧ (wakeSample b s).freeCount = s.freeCount ∧ (wakeSample b s).pending = s.pending ∧
    (wakeSample b s).stats.shown = s.stats.shown := by
  unfold wakeSample; simp

@[simp] theorem endResetHold_frame (b : Nat) (s : State) :
    (endResetHold b s).tb = s.tb ∧ (endResetHold b s).expo = s.expo ∧ (endResetHold b s).cache = s.cache ∧
    (endResetHold b s).path = s.path ∧ (endResetHold b s).cmd = s.cmd ∧ (endResetHold b s).config = s.config ∧
    (endResetHold b s).ram = s.ram ∧ (endResetHold b s).freeCount = s.freeCount ∧ (endResetHold b s).pending = s.pending ∧
    (endResetHold b s).stats.shown = s.stats.shown := by
  unfold endResetHold; simp

@[simp] theorem endWakePulse_frame (b : Nat) (s : State) :
    (endWakePulse b s).tb = s.tb ∧ (endWakePulse b s).expo = s.expo ∧ (endWakePulse b s).cache = s.cache ∧
    (endWakePulse b s).path = s.path ∧ (endWakePulse b s).cmd = s.cmd ∧ (endWakePulse b s).config = s.config ∧
    (endWakePulse b s).ram = s.ram ∧ (endWakePulse b s).freeCount = s.freeCount ∧ (endWakePulse b s).pending = s.pending ∧
    (endWakePulse b s).stats.shown = s.stats.shown := by
  unfold endWakePulse; simp

@[simp] theorem exitComplete_frame (s : State) :
    (exitComplete s).tb = s.tb ∧ (exitComplete s).supply = s.supply ∧ (exitComplete s).sched = s.sched ∧
    (exitComplete s).seg = s.seg ∧ (exitComplete s).expo = s.expo ∧ (exitComplete s).stats = s.stats ∧
    (exitComplete s).cache = s.cache ∧ (exitComplete s).path = s.path ∧ (exitComplete s).engine = s.engine ∧
    (exitComplete s).cmd = s.cmd ∧ (exitComplete s).config = s.config ∧ (exitComplete s).ram = s.ram ∧
    (exitComplete s).freeCount = s.freeCount ∧ (exitComplete s).pending = s.pending ∧
    (exitComplete s).pins.board = s.pins.board := by
  unfold exitComplete; dsimp only; split <;> simp

theorem endEngineAccess_blocks (s : State) :
    (endEngineAccess s).supply = s.supply ∧ (endEngineAccess s).path = s.path ∧ (endEngineAccess s).engine = s.engine ∧
    (endEngineAccess s).pending = s.pending := by
  unfold endEngineAccess
  split
  · simp
  · simp
  · dsimp only; split <;> simp

end Sys2Proof.Machine
end

section
/-! SUPPORT. The order book through the operations on the run: where each leaves it balanced. -/

namespace Sys2Proof.Machine

/-- The order book reads the run state, how many orders are held and owed, and D. -/
theorem OrderBookBalances.of_lengths {a b : State} (h : OrderBookBalances a) (hr : b.sched.runState = a.sched.runState)
    (hq : b.sched.queue.length = a.sched.queue.length) (ho : b.sched.owed.length = a.sched.owed.length)
    (hd : b.sched.depth = a.sched.depth) (hc : b.config = a.config) : OrderBookBalances b := by
  unfold OrderBookBalances at *
  rw [← List.length_eq_zero_iff, ← List.length_eq_zero_iff, hr, hq, ho, hd, hc, List.length_eq_zero_iff, List.length_eq_zero_iff]
  exact h

theorem OrderBookBalances.of_run {a b : State} (h : OrderBookBalances a) (hs : b.sched = a.sched) (hc : b.config = a.config) :
    OrderBookBalances b := h.of_lengths (by rw [hs]) (by rw [hs]) (by rw [hs]) (by rw [hs]) hc

/-- A run that goes on capturing, with orders held and owed as many together. -/
theorem OrderBookBalances.of_capturing {a b : State} (h : OrderBookBalances a) (ha : a.sched.runState.capturing = true)
    (hb : b.sched.runState.capturing = true)
    (hn : b.sched.queue.length + b.sched.owed.length = a.sched.queue.length + a.sched.owed.length)
    (hd : b.sched.depth = a.sched.depth) (hc : b.config = a.config) : OrderBookBalances b := by
  obtain ⟨h1, -, -, h4, h5⟩ := h
  refine ⟨fun _ => by rw [hn, hd]; exact h1 ha, fun k => ?_, fun k => ?_, by rw [hd]; exact h4, by rw [hc]; exact h5⟩
  · rw [k] at hb; cases hb
  · cases hx : b.sched.runState <;> rw [hx] at hb k <;> cases hb <;> cases k

/-- A run at rest with an empty queue and nothing owed. -/
theorem OrderBookBalances.of_resting {a b : State} (h : OrderBookBalances a) (hr : b.sched.runState.resting = true)
    (hq : b.sched.queue = []) (ho : b.sched.owed = []) (hd : b.sched.depth = a.sched.depth) (hc : b.config = a.config) :
    OrderBookBalances b := by
  obtain ⟨-, -, -, h4, h5⟩ := h
  refine ⟨fun k => ?_, fun k => ?_, fun _ => ⟨hq, ho⟩, by rw [hd]; exact h4, by rw [hc]; exact h5⟩
  · cases hx : b.sched.runState <;> rw [hx] at hr k <;> cases hr <;> cases k
  · rw [k] at hr; cases hr

/-- A retirement takes an order from the queue, and in a capturing run owes one (R12, R23). -/
theorem retire_balances {s : State} {e : Entry} (he : e ∈ s.sched.queue) (o : FrameOutcome) (c : Cause) (m : Option (Nat × Int))
    (g : Bool) (h : OrderBookBalances s) : OrderBookBalances (retire e o c m g s) := by
  obtain ⟨hs, -, -⟩ := retire_run e o c m g s
  have hc : (retire e o c m g s).config = s.config := by simp
  have hl := List.length_erase_of_mem he
  have hp := List.length_pos_of_mem he
  obtain ⟨h1, h2, h3, h4, h5⟩ := h
  unfold OrderBookBalances
  rw [hs, hc]
  refine ⟨fun k => ?_, fun k => ?_, fun k => ?_, h4, h5⟩
  · have k' : s.sched.runState.capturing = true := k
    have h1 := h1 k'
    simp only [retired, k', if_true, List.length_append, List.length_singleton, hl]
    omega
  · have k' : s.sched.runState = .suspended := k
    obtain ⟨ho, hq⟩ := h2 k'
    simp only [retired, k', RunState.capturing, hl]
    exact ⟨ho, by omega⟩
  · have k' : s.sched.runState.resting = true := k
    rw [(h3 k').1] at he
    cases he

/-- A suspension as one change of the run, with its STATUS_WRITE (R7). -/
theorem suspendNow_eq (r : RunState) {s : State} (h : s.sched.runState.capturing = true) :
    suspendNow r s = requestStatus
      { s with
        sched :=
          { s.sched with
            runState := .suspended, resumeState := some r, owed := [], heldCopy := none, startRequest := none }
        seg := { s.seg with decided := none }
        stats := { s.stats with latched := none } } := by
  have hn : s.sched.runState ≠ .suspended := fun x => by (rw [x] at h; cases h)
  simp [suspendNow, setRunState, dropIssues, hn, State.modSched, State.modSeg, State.modStats]

theorem suspended_balances {s t : State} (h : OrderBookBalances s) (hc : s.sched.runState.capturing = true)
    (hr : t.sched.runState = .suspended) (hq : t.sched.queue = s.sched.queue) (ho : t.sched.owed = [])
    (hd : t.sched.depth = s.sched.depth) (hk : t.config = s.config) : OrderBookBalances t := by
  obtain ⟨h1, -, -, h4, h5⟩ := h
  have h1 := h1 hc
  exact ⟨fun k => (by rw [hr] at k; cases k), fun _ => ⟨ho, by rw [hq, hd]; omega⟩, fun k => (by rw [hr] at k; cases k),
    by rw [hd]; exact h4, by rw [hk]; exact h5⟩

/-- Orders voided leave the run state, and what was owed. -/
theorem voidIssued_run (l : List Entry) (s : State) :
    (voidIssued l s).sched.runState = s.sched.runState ∧
      (s.sched.owed ≠ [] → (voidIssued l s).sched.owed ≠ []) := by
  induction l generalizing s with
  | nil => exact ⟨rfl, id⟩
  | cons e es ih =>
    unfold voidIssued
    split
    · exact ih s
    · have hr := (retire_run e .voided .noCause none false s).1
      obtain ⟨h1, h2⟩ := ih (voidEntry e s)
      have hs : (voidEntry e s).sched = (retired e .voided s).sched := by simp [voidEntry, hr]
      rw [hs] at h1 h2
      refine ⟨h1, fun ho => h2 ?_⟩
      unfold retired
      dsimp only
      split <;> simp [ho]

theorem settleQueue_run (t : Settle) (s : State) :
    (settleQueue t s).sched.runState = s.sched.runState ∧
      (s.sched.owed ≠ [] → (settleQueue t s).sched.owed ≠ []) := by
  obtain ⟨h1, h2⟩ := voidIssued_run s.sched.queue s
  unfold settleQueue discountTriggered returnToStanding
  (repeat' split) <;> simp_all

theorem length_resumptionIssues (n : Nat) : (resumptionIssues n).length = n := by
  cases n <;> simp [resumptionIssues]

theorem length_startIssues (n : Nat) : (startIssues n).length = n := by
  cases n <;> simp [startIssues]

/-- A run that begins to capture holding and owing D orders together. -/
theorem OrderBookBalances.of_filled {a b : State} (h : OrderBookBalances a) (hb : b.sched.runState.capturing = true)
    (hn : b.sched.queue.length + b.sched.owed.length = b.sched.depth) (hd : b.sched.depth ≤ 2) (hc : b.config = a.config) :
    OrderBookBalances b := by
  obtain ⟨-, -, -, -, h5⟩ := h
  refine ⟨fun _ => hn, fun k => ?_, fun k => ?_, hd, by rw [hc]; exact h5⟩
  · rw [k] at hb; cases hb
  · cases hx : b.sched.runState <;> rw [hx] at hb k <;> cases hb <;> cases k

/-- A block that is not refused sets D to 1 or 2 (R177). -/
theorem depth_of_refusal_none {b : ConfigBlock} {base : Nat} (h : b.refusal base = none) : b.tuning.depth ≤ 2 := by
  unfold ConfigBlock.refusal at h
  dsimp only at h
  split at h
  · cases h
  split at h
  · cases h
  split at h
  · cases h
  · rename_i hd
    simp only [Bool.not_eq_true', Bool.or_eq_false_iff, beq_eq_false_iff_ne, not_and, not_not] at hd
    by_cases h1 : b.tuning.depth = 1
    · omega
    · exact (hd h1).le

theorem judgeConfig_depth {base : Nat} {ws : List BusWord} {b : ConfigBlock × Result} (h : judgeConfig base ws = .ok b) :
    b.1.tuning.depth ≤ 2 := by
  unfold judgeConfig at h
  dsimp only at h
  split at h
  · split at h
    · cases h
    · rename_i hr
      cases h
      exact depth_of_refusal_none hr
  · cases h

end Sys2Proof.Machine
end

section
/-! PROOFS. What keeps a predicate: from the effects of the shared operations on the parts of the state that a predicate may read
(`KeptInside`, `Kept`), that every row, a tick and what follows them keep it. -/

namespace Sys2Proof.Machine

/-- A predicate that every change of the run that keeps the order book balanced keeps, and requests for a status record, changes of the
supply and the battery reading, an event counted, a wake and a log record, each where it occurs. -/
structure KeptByEvents (P : State → Prop) : Prop where
  run     : ∀ {s : State} a b c d, (OrderBookBalances s → OrderBookBalances { s with sched := a }) → P s →
    P { s with sched := a, seg := b, expo := c, stats := d }
  supply  : ∀ {s : State} (y : Supply), (RecheckRunsInCritical s → (y.recheck.isSome = true ↔ y.state = .critical)) → P s →
    P { s with supply := y }
  board   : ∀ {s : State} (p : Pins), p.pwrEn = s.pins.pwrEn → p.ctrlReset = s.pins.ctrlReset → p.wake = s.pins.wake → P s →
    P { s with pins := p }
  engine  : ∀ {s : State} (e : Engine), e.queued = s.engine.queued →
    e.lost = s.engine.lost ∨ e.lost = saturatingAdd max32 s.engine.lost 1 → P s → P { s with engine := e }
  status  : ∀ {s : State}, P s → P (requestStatus s)
  marks   : ∀ {s : State} (x : Session), x.state = s.session.state → x.phase = s.session.phase → x.sleepKind = s.session.sleepKind →
    x.forcedRecovery = s.session.forcedRecovery → x.timer = s.session.timer →
    x.deferredAlert = s.session.deferredAlert ∨ (x.deferredAlert = true ∧ s.session.state = .closing) → P s → P { s with session := x }
  wake    : ∀ {s : State} c l, s.session.asleep = true → P s → P (beginWake c l s)
  log     : ∀ {s : State} l, (s.engine.queued.filter Request.isLog).length < 3 → P s →
    P (s.modEngine fun e => { e with waiting := e.waiting ++ [.log l] })

/-- The same, with what issues, fetches and the engine's choice change, each where it occurs: what follows from an effect keeps the
predicate. -/
structure KeptBySettling (P : State → Prop) : Prop extends KeptByEvents P where
  retires : ∀ {s : State} e o c m g, e ∈ s.sched.queue → P s → P (retire e o c m g s)
  order   : ∀ {s : State} o, P s → P (requestOrder o s)
  drop    : ∀ {s : State} l, Request.log l ∈ s.engine.waiting → P s →
    P (loseLog (s.modEngine fun e => { e with waiting := e.waiting.erase (.log l) }))
  serve   : ∀ {s : State} r todo b v, s.engine.service = none → r ∈ s.engine.waiting → todo ≠ [] → P s →
    P (serve r todo b v (s.modEngine fun e => { e with waiting := e.waiting.erase r }))
  cache   : ∀ {s : State} (c : PlanCache), c.fetch.isSome = s.cache.fetch.isSome → c.walk.isSome = s.cache.walk.isSome → P s →
    P { s with cache := c }
  fetch   : ∀ {s : State} n, s.cache.fetch = none → P s → P (requestFetch n s)

/-- A predicate that the shared operations inside a step keep, each where it occurs, and that reads nothing of the Pass-Through Path. -/
structure KeptInside (P : State → Prop) : Prop extends KeptBySettling P where
  unmark  : ∀ {s : State}, P s → P (s.modSession fun x => { x with deferredAlert := false })
  empties : ∀ {s : State}, P s → P (s.modEngine fun e => { e with producer := 0, lost := 0 })
  path    : ∀ {s : State} p, P s → P { s with path := p }
  config  : ∀ {s : State} c, (OrderBookBalances s → OrderBookBalances { s with config := c }) → P s → P { s with config := c }
  clock   : ∀ {s : State} (y : TimeBase), (DegradedOnRc s → (y.degraded = true ↔ y.source = .rc)) → P s → P { s with tb := y }
  cmd     : ∀ {s : State} (c : Interpreter), c.busy = s.cmd.busy → P s → P { s with cmd := c }
  port    : ∀ {s : State} (q : Port), q.waitEngine = s.port.waitEngine → q.starvation = s.port.starvation →
    q.waitWake = s.port.waitWake → (q.access = s.port.access ∨ q.access = .noAccess) ∧ (q.retention = s.port.retention ∨ s.port.retention ≠ .active) → P s →
    P { s with port := q }
  ends    : ∀ {s : State}, P s → P (s.modEngine fun e => { e with service := none })
  next    : ∀ {s : State} (sv : Service) a l g, s.engine.service = some sv → sv.ended = false → P s →
    P (askForAccess (s.modEngine fun e => { e with service := some { sv with todo := a :: l, got := g } }))
  fetched : ∀ {s : State} (sv : Service) n a, s.engine.service = some sv → sv.ended = false → sv.request = .planFetch n a → P s →
    P ((s.modEngine fun e => { e with service := none }).modCache fun c => { c with fetch := none })
  walkEnds : ∀ {s : State} (c : PlanCache) r, s.cache.walk.isSome = true → c.fetch.isSome = s.cache.fetch.isSome → c.walk = none →
    P s → P (decideLong r { s with cache := c })
  configured : ∀ {s : State} (sv : Service) r, s.engine.service = some sv → sv.ended = false → sv.request = .configRead → P s →
    P (decideLong r (s.modEngine fun e => { e with service := none }))
  configures : ∀ {s : State} q, s.cmd.busy = none → P s →
    P ((acceptLong q .configure s).modEngine fun e => { e with waiting := e.waiting ++ [.configRead] })
  loads   : ∀ {s : State} (c : PlanCache) q, s.cmd.busy = none → c.fetch.isSome = s.cache.fetch.isSome → P s →
    P (acceptLong q .loadPlan { s with cache := c })
  timer   : ∀ {s : State} e, s.session.state = .open → P s → P (s.modSession fun x => { x with timer := some e })
  sleeps  : ∀ {s : State} kind, s.session.state = .open → P s →
    P (s.modSession fun x => { x with state := .closing, sleepKind := kind, timer := none, deferredAlert := false })
  forced  : ∀ {s : State}, s.session.state = .open → P s →
    P (enterSleep .off (s.modSession fun x => { x with forcedRecovery := true }))
  closes  : ∀ {s : State}, s.session.state = .closing → P s → P (enterSleep (closeKind s) s)
  opens   : ∀ {s : State} v, s.session.wakeAt .status = true → P s → P (openSession v s)
  holdEnds  : ∀ {s : State} b, s.session.wakeAt .resetHold = true → P s → P (endResetHold b s)
  pulseEnds : ∀ {s : State} b, s.session.wakeAt .wakePulse = true → P s → P (endWakePulse b s)
  exit    : ∀ {s : State}, P s → P (exitComplete s)
  soft    : ∀ {s : State}, P s → P (softReset s)

/-- The same, with the grants of the Memory Port, the writes to memory and a power-on reset. -/
structure Kept (P : State → Prop) : Prop extends KeptInside P where
  grant   : ∀ {s : State}, P s → P (grant s)
  entry   : ∀ {s : State}, P s → P (s.modPort fun q => { q with retention := .entering })
  memory  : ∀ {s : State} as ws, P s → P { s with ram := writeWords s.ram as ws }
  power   : ∀ {s : State} pins, P s → P (powerOn pins s)

namespace KeptByEvents

variable {P : State → Prop} (k : KeptByEvents P) {s : State}
include k

theorem modSched (f) (hb : OrderBookBalances s → OrderBookBalances (s.modSched f)) (h : P s) : P (s.modSched f) :=
  k.run _ _ _ _ hb h
theorem modSeg (f) (h : P s) : P (s.modSeg f) := k.run s.sched _ _ _ id h
theorem modExpo (f) (h : P s) : P (s.modExpo f) := k.run s.sched _ _ _ id h
theorem modStats (f) (h : P s) : P (s.modStats f) := k.run s.sched _ _ _ id h

theorem judgeAlert (h : P s) : P (judgeAlert s) := by
  unfold Machine.judgeAlert
  split
  · rename_i hj
    exact k.wake _ _ hj.1 (k.marks _ rfl rfl rfl rfl rfl (.inl rfl) h)
  · exact h

theorem raiseEvent (e) (h : P s) : P (raiseEvent e s) := by
  have hq : (keepMark e (countEvent e s)).engine.queued = s.engine.queued := by
    unfold keepMark countEvent
    cases hv : s.engine.service <;> simp [Engine.queued, Engine.inService, hv]
  have h0 : P (requestStatus (keepMark e (countEvent e s))) :=
    k.status (k.engine (s := countEvent e s) _ hq (.inl rfl) (k.marks _ rfl rfl rfl rfl rfl (.inl rfl) h))
  unfold Machine.raiseEvent
  dsimp only
  split
  · split
    · exact k.judgeAlert h0
    · split
      · rename_i hclosing
        exact k.marks _ rfl rfl rfl rfl rfl (.inr ⟨rfl, hclosing⟩) h0
      · exact h0
  · exact h0

theorem raiseOptional (e) (h : P s) : P (raiseOptional e s) := by
  unfold Machine.raiseOptional
  split
  · exact h
  · exact k.raiseEvent _ h

/-- A run that goes on capturing in another run state. -/
theorem setRunState (r : RunState) (hs : s.sched.runState.capturing = true) (hr : r.capturing = true) (h : P s) :
    P (setRunState r s) := by
  unfold Machine.setRunState
  split
  · exact h
  · exact k.status (k.modSched _ (fun hb => hb.of_capturing hs hr rfl rfl rfl) h)

theorem suspendCapturing (r) (h : P s) : P (suspendCapturing r s) := by
  unfold Machine.suspendCapturing
  split
  · rename_i hc
    rw [suspendNow_eq r hc.1]
    exact k.status (k.run _ _ _ _ (fun hb => suspended_balances hb hc.1 rfl rfl rfl rfl rfl) h)
  · exact h

theorem resumeRun (h : P s) : P (resumeRun s) := by
  unfold Machine.resumeRun
  split
  · rename_i hs
    dsimp only
    generalize hr : (if s.sched.resumeState = some .faultHold then (if s.cache.hasFault then RunState.faultHold else .running)
      else if watchedFault s then .faultHold else .running) = r
    have hc : r.capturing = true := by
      rw [← hr]
      (repeat' split) <;> rfl
    unfold Machine.setRunState
    rw [if_neg (fun hn => by
      have hn : s.sched.runState = r := hn
      rw [← hn, hs] at hc
      cases hc)]
    refine k.status (k.run (s := s) _ _ _ _ (fun hb => ?_) h)
    have hl := (hb.2.1 hs).2
    exact hb.of_filled hc (by simp [length_resumptionIssues]; omega) hb.2.2.2.1 rfl
  · exact h

theorem changeSupply (x e) (h : P s) : P (changeSupply x e s) := by
  have h0 : ∀ rc : Option Elapsed, (rc.isSome = true ↔ x = .critical) →
      P (Machine.raiseOptional e (requestStatus (s.modSupply fun y => { y with state := x, recheck := rc }))) :=
    fun _ hrc => k.raiseOptional _ (k.status (k.supply _ (fun _ => hrc) h))
  unfold Machine.changeSupply
  dsimp only
  split
  · rename_i hx; exact k.suspendCapturing _ (h0 _ (by simp [hx]))
  · rename_i hx
    split
    · exact k.resumeRun (h0 _ (by simp [hx]))
    · exact h0 _ (by simp [hx])

theorem sampleSupply (b) (h : P s) : P (sampleSupply b s) := by
  have h0 : P ((s.modPins fun p => { p with batterySense := b }).modSupply fun y => { y with lastSample := min b 8191 }) :=
    k.supply _ (fun hr => hr) (k.board _ rfl rfl rfl h)
  unfold Machine.sampleSupply
  dsimp only
  split
  · exact h0
  · exact k.changeSupply _ _ h0

theorem loseLog (h : P s) : P (loseLog s) :=
  k.status (k.raiseEvent .logLost (k.engine (s := s) { s.engine with lost := _ } rfl (.inr rfl) h))

theorem requestLog (l) (h : P s) : P (requestLog l s) := by
  unfold Machine.requestLog
  split
  · rename_i hl; exact k.log l hl h
  · exact k.loseLog h

/-- A predicate that reads nothing of the run is kept by a retirement. -/
theorem retire (blind : ∀ {s : State} q g, P s → P { s with sched := q, seg := g }) (e o c m g) (h : P s) :
    P (retire e o c m g s) := by
  have h0 := k.requestLog (logContent (s.modSched fun q => q.retireEntry e o) e o c m g)
    (show P (s.modSched fun q => q.retireEntry e o) from blind _ _ h)
  unfold Machine.retire handOver
  dsimp only
  generalize Machine.requestLog _ _ = t at h0 ⊢
  split
  · exact k.status (blind (s := t) _ _ h0)
  · exact k.status (blind (s := t) t.sched _ h0)

end KeptByEvents

namespace KeptBySettling

variable {P : State → Prop} (k : KeptBySettling P) {s : State}
include k

/-! ### The engine's choice -/

theorem beginOnce (h : P s) : P (beginOnce s) := by
  unfold Machine.beginOnce
  split
  · exact h
  · rename_i hn
    have hn : s.engine.service = none := by simpa using hn
    split
    · exact h
    · rename_i r hr
      have hm := chooseRequest_mem hr
      cases r with
      | order c => exact k.serve _ _ _ _ hn hm (by simp [recordAccesses]) h
      | status =>
        exact k.serve (s := s.modEngine fun e => { e with updateCount := e.updateCount + 1 }) _ _ _ _ hn hm
          (by simp [statusAccesses]) (k.engine (s := s) { s.engine with updateCount := _ } rfl (.inl rfl) h)
      | log l =>
        simp only [beginRequest, serveLog]
        split
        · exact k.drop _ hm h
        · split
          · exact k.drop _ hm h
          · exact k.serve _ _ _ _ hn hm (by simp [recordAccesses]) h
      | planFetch n a => exact k.serve _ _ _ _ hn hm (by simp) h
      | configRead => exact k.serve _ _ _ _ hn hm (by simp [configReads]) h

theorem beginService (h : P s) : P (beginService s) := k.beginOnce (k.beginOnce h)

theorem retireNow (e o c m g) (he : e ∈ s.sched.queue) (h : P s) : P (retireNow e o c m g s) :=
  k.beginService (k.retires e o c m g he h)

/-! ### Issues -/

theorem deferredSuspend (i) (h : P s) : P (deferredSuspend i s) := by
  unfold Machine.deferredSuspend
  split
  · split
    · exact k.suspendCapturing _ h
    · exact h
  all_goals exact h

theorem completeIssue (i c) (hc : s.sched.runState.capturing = true) (ho : s.sched.owed ≠ []) (h : P s) : P (completeIssue i c s) := by
  refine k.deferredSuspend i (k.beginService (k.status (k.order _ (k.run (s := s) _ _ _ _ (fun hb => ?_) h))))
  refine hb.of_capturing hc hc ?_ rfl rfl
  have hl := List.length_pos_of_ne_nil ho
  simp
  omega

theorem abandonAll (l : List Entry) (hl : s.sched.queue = l) (h : P s) : P (abandonAll l s) := by
  induction l generalizing s with
  | nil => exact h
  | cons e es ih =>
    refine ih ?_ (k.retireNow e _ _ _ _ (by rw [hl]; exact List.mem_cons_self) h)
    have hr := (retire_run e .abandoned .noCause none false s).1
    simp [Machine.retireNow, hr, retired, hl]

/-- The queue abandoned and the run stopped (R5, R6). -/
theorem stopped {t u : State} (f : Scheduler → Scheduler) (ht : t = Machine.abandonAll s.sched.queue s)
    (hu : u = t.modSched fun q => f { q with owed := [], heldCopy := none, startRequest := none })
    (hf : ∀ q, (f q).queue = q.queue ∧ (f q).owed = q.owed ∧ (f q).depth = q.depth ∧ (f q).runState = .stopped) (h : P s) :
    P { u with seg := { u.seg with decided := none }, stats := { u.stats with latched := none } } := by
  have h0 : P t := ht ▸ k.abandonAll _ rfl h
  have hq : t.sched.queue = [] := ht ▸ abandonAll_queue _ _ rfl
  rw [hu]
  refine k.run (s := t) _ _ _ _ (fun hb => ?_) h0
  obtain ⟨fq, fo, fd, fr⟩ := hf { t.sched with owed := [], heldCopy := none, startRequest := none }
  exact hb.of_resting (by simp [fr, RunState.resting]) (fq.trans hq) fo fd rfl

theorem endOfPlan (h : P s) : P (endOfPlan s) :=
  k.status (k.stopped (fun q => { q with runState := .stopped, finish := .finished }) rfl rfl (fun _ => ⟨rfl, rfl, rfl, rfl⟩) h)

/-- The book as a settled queue leaves it: as many orders held and owed together, in the run state it found. -/
theorem voidIssued (l : List Entry) (hl : l.Subperm s.sched.queue) (h : P s) : P (voidIssued l s) := by
  induction l generalizing s with
  | nil => exact h
  | cons e es ih =>
    unfold Machine.voidIssued
    split
    · exact ih ((List.sublist_cons_self e es).subperm.trans hl) h
    · have hr := (retire_run e .voided .noCause none false s).1
      refine ih ?_ (k.beginService (k.order _ (k.retires e _ _ _ _ (hl.subset List.mem_cons_self) h)))
      have he := hl.erase e
      rw [List.erase_cons_head] at he
      simpa [voidEntry, hr, retired] using he

theorem settleQueue (t) (h : P s) : P (settleQueue t s) := by
  have hd : ∀ {u : State}, P u → P (discountTriggered u) := fun hu =>
    k.modSched _ (fun hb => hb.of_lengths rfl (by simp) rfl rfl rfl) hu
  unfold Machine.settleQueue
  split
  · exact h
  · split
    · refine hd ?_
      have h0 := k.voidIssued s.sched.queue (List.Subperm.refl _) h
      unfold returnToStanding
      split
      · exact h0
      · exact k.status (k.modExpo _ (k.modSched _ (fun hb => hb.of_lengths rfl rfl rfl rfl rfl) h0))
    · exact hd h

theorem enterSegment (n c) (h : P s) : P (enterSegment n c s) := k.cache _ rfl rfl (k.modSeg _ h)

theorem continueFaultHold (c) (hc : s.sched.runState.capturing = true) (ho : s.sched.owed ≠ []) (h : P s) :
    P (continueFaultHold c s) := by
  have h0 := k.setRunState (s := s.modSeg fun g => { g with decided := none }) .faultHold hc rfl (k.modSeg _ h)
  obtain ⟨r, o⟩ : (Machine.setRunState .faultHold (s.modSeg fun g => { g with decided := none })).sched.runState = .faultHold ∧
      (Machine.setRunState .faultHold (s.modSeg fun g => { g with decided := none })).sched.owed = s.sched.owed := by
    unfold Machine.setRunState
    split <;> simp_all
  exact k.completeIssue _ _ (by rw [r]; rfl) (by rw [o]; exact ho) h0

theorem takeTransition (m) (l : Segment) (n c) (hc : s.sched.runState.capturing = true) (ho : s.sched.owed ≠ []) (h : P s) :
    P (takeTransition m l n c s) := by
  obtain ⟨h1, h2⟩ := settleQueue_run l.settle s
  exact k.completeIssue _ _ (by simpa [h1] using hc) (by simpa using h2 ho) (k.enterSegment _ _ (k.settleQueue l.settle h))

theorem makeRoom (h : P s) : P (makeRoom s) := by
  unfold Machine.makeRoom
  split
  · exact h
  · split
    · exact h
    · exact k.cache _ rfl rfl h

theorem judgeTransition (m l n) (hc : s.sched.runState.capturing = true) (ho : s.sched.owed ≠ []) (h : P s) : P (judgeTransition m l n s).state := by
  have hw : P ((s.modSched fun q => { q with heldCopy := some l }).modSeg fun g => { g with decided := some n }) :=
    k.modSeg _ (k.modSched _ (fun hb => hb.of_lengths rfl rfl rfl rfl rfl) h)
  unfold Machine.judgeTransition
  dsimp only
  split
  · exact k.cache _ rfl rfl (k.makeRoom hw)
  · split
    · exact k.takeTransition _ _ _ _ hc ho h
    · exact hw
    · exact k.continueFaultHold _ hc ho h
    all_goals exact hw

theorem ordinaryIssue (m c) (hc : s.sched.runState.capturing = true) (ho : s.sched.owed ≠ []) (h : P s) : P (ordinaryIssue m c s).state := by
  unfold Machine.ordinaryIssue
  split
  · split
    · exact k.endOfPlan h
    · exact k.judgeTransition _ _ _ hc ho h
  · exact k.completeIssue (.ordinary m false) c hc ho h

theorem issueUnder (o c) (hc : s.sched.runState.capturing = true) (ho : s.sched.owed ≠ []) (h : P s) : P (issueUnder o c s).state := by
  unfold Machine.issueUnder
  split
  · rename_i first; exact k.completeIssue (.start first) c hc ho h
  · exact k.completeIssue (if s.sched.runState = .faultHold then .faultHold else .resumption) c hc ho h
  · split
    · exact k.completeIssue .faultHold c hc ho h
    · exact k.ordinaryIssue _ _ hc ho h
  · split
    · exact k.completeIssue .faultHold c hc ho h
    · exact k.ordinaryIssue _ _ hc ho h

theorem attemptIssue (o) (hc : s.sched.runState.capturing = true) (ho : s.sched.owed ≠ []) (h : P s) : P (attemptIssue o s).state := by
  unfold Machine.attemptIssue
  split
  · split
    · exact k.continueFaultHold _ hc ho h
    · exact k.judgeTransition _ _ _ hc ho h
  · split
    · exact h
    · exact k.issueUnder _ _ hc ho (k.modSeg _ h)

theorem judgeRun (h : P s) : P (judgeRun s) := by
  unfold Machine.judgeRun
  split
  · rename_i hr
    split
    · exact k.setRunState _ (by rw [hr]; rfl) rfl h
    · exact h
  · split
    · rename_i hr
      split
      · exact h
      · exact k.setRunState _ (by rw [hr]; rfl) rfl h
    · exact h

theorem makeIssues (n : Nat) (h : P s) : P (makeIssues n s) := by
  induction n generalizing s with
  | zero => exact h
  | succ n ih =>
    have h0 := k.judgeRun h
    simp only [Machine.makeIssues]
    split
    · rename_i hc
      split
      · exact h0
      · rename_i o os ho
        have h1 := k.attemptIssue o hc (by simp [ho]) h0
        split
        · exact ih h1
        · exact h1
    · exact h0

theorem issueOwed (h : P s) : P (issueOwed s) := k.makeIssues _ h

/-! ### What follows an effect, before the port -/

theorem freeBuffer (h : P s) : P (freeBuffer s) := by
  unfold Machine.freeBuffer
  split
  · exact k.modStats _ h
  · exact h

theorem walkCreate (n) (hf : s.cache.fetch = none) (h : P s) : P (walkCreate n s) :=
  k.fetch (s := s.modCache fun c => { c with entries := c.entries ++ [newEntry n] }) n hf (k.cache _ rfl rfl h)

theorem cacheSettle (h : P s) : P (cacheSettle s) := by
  unfold Machine.cacheSettle
  split
  · exact h
  · rename_i hf
    have hf : s.cache.fetch = none := by simpa using hf
    split
    · rename_i w hw
      split
      · exact h
      · exact k.walkCreate (s := s.modCache fun c => { c with walk := some { w with started := true } }) _ hf
          (k.cache _ rfl (by simp [hw]) h)
    · split
      · exact h
      · exact k.fetch _ hf h

theorem judgeScheduled (h : P s) : P (judgeScheduled s) := by
  unfold Machine.judgeScheduled
  split
  · rename_i hj; exact k.wake _ _ hj.1 h
  · exact h

theorem judgeIdle (h : P s) : P (judgeIdle s) := by
  unfold Machine.judgeIdle
  split
  · rename_i hj; exact k.wake _ _ hj.1 h
  · exact h

theorem judgeWakes (h : P s) : P (judgeWakes s) := k.judgeIdle (k.judgeScheduled h)

theorem settleWord (h : P s) : P (settleWord s) :=
  k.beginService (k.judgeWakes (k.freeBuffer (k.judgeRun (k.issueOwed h))))

theorem settle (h : P s) : P (settle s) :=
  k.beginService (k.judgeWakes (k.cacheSettle (k.freeBuffer (k.judgeRun (k.issueOwed h)))))

end KeptBySettling

namespace KeptInside

variable {P : State → Prop} (k : KeptInside P) {s : State}
include k

/-! ### Shared operations -/

theorem modPath (f) (h : P s) : P (s.modPath f) := k.path _ h

theorem waitPass (w : Option Transaction) (h : P s) : P (s.modPort fun q => { q with waitPass := w }) :=
  k.port _ rfl rfl rfl ⟨.inl rfl, .inl rfl⟩ h

theorem judgeHolds (h : P s) : P (judgeHolds s) := by
  unfold Machine.judgeHolds
  repeat' split
  · exact h
  · exact k.waitPass _ (k.path _ h)
  · exact h
  · exact k.waitPass _ (k.path _ h)
  · exact h

theorem leaveList (r) (h : P s) : P (leaveList r s) := by
  unfold Machine.leaveList
  split
  · exact h
  · exact k.judgeHolds (k.path _ h)

theorem restartTimer (h : P s) : P (restartTimer s) := by
  unfold Machine.restartTimer
  split
  · rename_i ho; exact k.timer _ ho h
  · exact h

theorem decideCommand (q r) (h : P s) : P (decideCommand q r s) := by
  have h0 := k.status (k.cmd { s.cmd with lastDecided := some (q, r) } rfl h)
  unfold Machine.decideCommand
  dsimp only
  split
  · exact k.restartTimer h0
  · exact h0

/-! ### Commands -/

theorem unlessBusy (q) {f : State → State} (hf : s.cmd.busy = none → P s → P (f s)) (h : P s) : P (unlessBusy q f s) := by
  unfold Machine.unlessBusy
  split
  · exact k.decideCommand _ _ h
  · rename_i hb; exact hf (by simpa using hb) h

omit k in
theorem outsideReset {f : State → State} (hf : P s → P (f s)) (h : P s) : P (outsideReset f s) := by
  unfold Machine.outsideReset
  split
  · exact h
  · exact hf h

omit k in
theorem guarded {b : Bool} {f : State → State} (hf : b = true → P s → P (f s)) (h : P s) : P (guarded b f s) := by
  unfold Machine.guarded
  split
  · rename_i hb; exact hf hb h
  · exact h

theorem configureCommand (q) (hb : s.cmd.busy = none) (h : P s) : P (configureCommand q s) := by
  unfold Machine.configureCommand
  split
  · exact k.decideCommand _ _ h
  · exact k.configures _ hb h

theorem setTime (q) (h : P s) : P (setTime q s) := by
  unfold Machine.setTime
  repeat' split
  · exact k.decideCommand _ _ h
  · exact k.decideCommand _ _ h
  · exact k.decideCommand _ _ (k.status (k.clock _ (fun hd => hd) h))

theorem comeDue (e) (he : e ∈ s.sched.queue) (h : P s) : P (comeDue e s) := by
  unfold Machine.comeDue
  split
  · exact k.restartTimer (k.modSched _ (fun hb => hb.of_lengths rfl (by simp [replaceEntry]) rfl rfl rfl)
      (k.board _ rfl rfl rfl h))
  · exact k.retireNow _ _ _ _ _ he h

theorem comeDueAll (l : List Word) (h : P s) : P (comeDueAll l s) := by
  induction l generalizing s with
  | nil => exact h
  | cons f fs ih =>
    refine ih ?_
    split
    · exact h
    · rename_i e he
      exact k.issueOwed (k.comeDue e (List.mem_of_find?_eq_some he) h)

theorem trimTime (q) (h : P s) : P (trimTime q s) := by
  unfold Machine.trimTime
  dsimp only
  split
  · exact k.comeDueAll _ (k.judgeScheduled (k.decideCommand _ _ (k.status (k.clock _ (fun hd => hd) h))))
  · exact k.decideCommand _ _ h

theorem setEv (q) (h : P s) : P (setEv q s) := by
  unfold Machine.setEv
  split
  · exact k.decideCommand _ _ (k.status (k.modExpo _ h))
  · exact k.decideCommand _ _ h

/-- A stopped run has nothing in the queue, and D comes from the tuning in force (R2, R10). -/
theorem startRun (n) {t : Tuning} (hs : s.sched.runState = .stopped) (ht : s.config.tuning = some t) (h : P s) :
    P (startRun n t s) := by
  have h0 : P (s.modCache fun c => c.touch n) := k.cache _ rfl rfl h
  unfold Machine.startRun
  dsimp only
  generalize hr : (if watchedFault (Machine.enterSegment n none (s.modSched fun q => q.begin t (requestedDue s))) then
    RunState.faultHold else .running) = r
  have hc : r.capturing = true := by
    rw [← hr]
    split <;> rfl
  refine k.status (k.run (s := s.modCache fun c => c.touch n) _ _ _ _ (fun hb => ?_) h0)
  obtain ⟨-, -, h3, -, h5⟩ := id hb
  have hq : s.sched.queue = [] := (h3 (by simp [hs, RunState.resting])).1
  exact hb.of_filled hc (by simp [Scheduler.begin, hq, length_startIssues]) (h5 t ht) rfl

theorem startCommand (q) (h : P s) : P (startCommand q s) := by
  unfold Machine.startCommand
  split
  · exact k.decideCommand _ _ h
  · rename_i hs
    split
    · rename_i ht
      split
      · exact k.decideCommand _ _ h
      · split
        · exact k.decideCommand _ _ h
        · exact k.decideCommand _ _ (k.startRun _ (by simpa using hs) ht h)
    · exact k.decideCommand _ _ h

theorem stopCommand (q) (h : P s) : P (stopCommand q s) := by
  unfold Machine.stopCommand
  split
  · exact k.decideCommand _ _ (k.status (k.stopped
      (fun q => { q with resumeState := none, runState := .stopped, finish := .command }) rfl rfl (fun _ => ⟨rfl, rfl, rfl, rfl⟩) h))
  · exact k.decideCommand _ _ h

theorem armCommand (q) (h : P s) : P (armCommand q s) := by
  unfold Machine.armCommand
  repeat' split
  · exact k.decideCommand _ _ h
  · exact k.decideCommand _ _ h
  · exact k.decideCommand _ _ (k.modSched _ (fun hb => hb.of_lengths rfl (by simp [replaceEntry]) rfl rfl rfl) h)

theorem sleepCommand (q) (h : P s) : P (sleepCommand q s) := by
  unfold Machine.sleepCommand
  repeat' split
  · exact k.decideCommand _ _ h
  · exact k.decideCommand _ _ h
  · exact k.decideCommand _ _ h
  · rename_i ho _ _
    exact k.decideCommand _ _ (k.status (k.sleeps _ (by simpa using ho) h))

omit k in
theorem onBit (w i) {f : State → State} (hf : P s → P (f s)) (h : P s) : P (onBit w i f s) := by
  unfold Machine.onBit
  split
  · exact hf h
  · exact h

theorem clearPlan (h : P s) : P (clearPlan s) := k.status (k.cache _ rfl rfl h)
theorem clearStatistics (h : P s) : P (clearStatistics s) := k.status (k.modStats _ h)
theorem clearEvents (h : P s) : P (clearEvents s) := k.status (k.marks _ rfl rfl rfl rfl rfl (.inl rfl) h)

theorem clearTime (h : P s) : P (clearTime s) := by
  unfold Machine.clearTime
  split
  · exact k.status (k.clock _ (fun _ => by simp) h)
  · exact h

theorem clearCommand (q) (h : P s) : P (clearCommand q s) := by
  unfold Machine.clearCommand
  exact k.decideCommand _ _ (onBit _ _ k.clearTime (onBit _ _ k.clearEvents (onBit _ _ k.clearStatistics
    (onBit _ _ k.clearPlan h))))

theorem loadPlan (q) (hb : s.cmd.busy = none) (h : P s) : P (loadPlan q s) := by
  unfold Machine.loadPlan
  repeat' split
  · exact k.decideCommand _ _ h
  · exact k.decideCommand _ _ h
  · exact k.loads _ q hb (by simp [PlanCache.emptied]) h

theorem resetPart (q) (h : P s) : P (resetPart q s) := k.decideCommand _ _ (k.soft h)

theorem takeCommand (c q) (h : P s) : P (takeCommand c q s) := by
  unfold Machine.takeCommand
  split
  · exact k.unlessBusy _ (fun b => k.configureCommand _ b) h
  · exact k.unlessBusy _ (fun _ => k.setTime _) h
  · exact k.unlessBusy _ (fun _ => k.trimTime _) h
  · exact k.unlessBusy _ (fun b => k.loadPlan _ b) h
  · exact k.unlessBusy _ (fun _ => k.setEv _) h
  · exact k.unlessBusy _ (fun _ => k.startCommand _) h
  · exact k.unlessBusy _ (fun _ => k.stopCommand _) h
  · exact k.unlessBusy _ (fun _ => k.armCommand _) h
  · exact k.unlessBusy _ (fun _ => k.sleepCommand _) h
  · exact k.unlessBusy _ (fun _ => k.clearCommand _) h
  · exact k.resetPart _ h
  · exact k.unlessBusy _ (fun _ => k.decideCommand _ _) h

/-! ### Statistics words -/

theorem raiseFlag (f) (h : P s) : P (raiseFlag f s) := k.status (k.raiseEvent _ (k.modStats _ h))

theorem raiseFlagIf (b f) (h : P s) : P (raiseFlagIf b f s) := by
  unfold Machine.raiseFlagIf
  split
  · exact k.raiseFlag _ h
  · exact h

theorem setAssembler (a) (h : P s) : P (setAssembler a s) := k.modStats _ h

theorem dropOpen (h : P s) : P (dropOpen s) := k.raiseFlagIf _ _ h

theorem takeHeader (w) (h : P s) : P (takeHeader w s) := by
  unfold Machine.takeHeader
  split
  · exact h
  · exact k.setAssembler _ (k.dropOpen h)
  · exact k.setAssembler _ (k.raiseFlag _ (k.dropOpen h))
  · exact k.setAssembler _ (k.raiseFlagIf _ _ (k.dropOpen h))

theorem takeZone (i w) (h : P s) : P (takeZone i w s) := by
  unfold Machine.takeZone poisonZone
  repeat' split
  all_goals first | exact h | exact k.setAssembler _ h | exact k.raiseFlagIf _ _ (k.setAssembler _ h)

theorem supersede (f) (h : P s) : P (supersede f s) := by
  unfold Machine.supersede
  split
  · exact h
  · rename_i hq
    split
    · exact h
    · exact k.issueOwed (k.retireNow _ _ _ _ _ (by rw [hq]; exact List.mem_cons_self) h)

theorem reportPoisoned (f) (h : P s) : P (reportPoisoned f s) := by
  unfold Machine.reportPoisoned
  dsimp only
  split
  · exact k.supersede _ h
  · rename_i he
    exact k.retireNow _ _ _ _ _ (List.mem_of_find?_eq_some he) (k.supersede _ h)

theorem retireLatched (e r) (he : e ∈ s.sched.queue) (h : P s) : P (retireLatched e r s) := by
  unfold Machine.retireLatched
  repeat' split
  · exact k.retireNow _ _ _ _ _ he h
  · exact k.retireNow _ _ _ _ _ he h
  · exact k.retireNow _ _ _ _ _ he (k.modExpo _ h)

theorem reportLatched (f r) (h : P s) : P (reportLatched f r s) := by
  unfold Machine.reportLatched
  dsimp only
  split
  · exact k.supersede _ h
  · rename_i he
    exact k.retireLatched _ _ (List.mem_of_find?_eq_some he) (k.supersede _ h)

theorem judgeClosed (r t) (h : P s) : P (judgeClosed r t s) := by
  unfold Machine.judgeClosed judgeAgreed latchRecord
  repeat' split
  all_goals first
    | exact h
    | exact k.raiseFlag _ h
    | exact k.raiseFlagIf _ _ h
    | exact k.reportPoisoned _ h
    | exact k.reportLatched _ _ (k.raiseFlagIf _ _ (k.modStats _ h))

theorem takeClosing (w) (h : P s) : P (takeClosing w s) := by
  unfold Machine.takeClosing
  repeat' split
  · exact h
  · exact h
  · exact h
  · exact k.judgeClosed _ _ (k.setAssembler _ h)
  · exact k.judgeClosed _ _ (k.raiseFlagIf _ _ (k.setAssembler _ h))
  · exact k.raiseFlag _ (k.setAssembler _ h)

omit k in
theorem whenReported {f : State → State} (hf : P s → P (f s)) (h : P s) : P (whenReported f s) := by
  unfold Machine.whenReported
  split
  · exact hf h
  · exact h

/-! ### Snooped words -/

theorem busAnomaly (h : P s) : P (busAnomaly s) := k.raiseEvent _ h

theorem takeArgument (i w) (h : P s) : P (takeArgument i w s) := by
  unfold Machine.takeArgument
  repeat' split
  · exact h
  · exact k.path _ h
  · exact k.busAnomaly h

theorem takeConsumer (w) (h : P s) : P (takeConsumer w s) := by
  unfold Machine.takeConsumer
  repeat' split
  · exact h
  · exact h
  · exact k.path _ h
  · exact k.busAnomaly h

theorem takeDamaged (w) (h : P s) : P (takeDamaged w s) := by
  unfold Machine.takeDamaged
  split
  · exact h
  · exact k.busAnomaly h

theorem takePlanWord (a e) (h : P s) : P (takePlanWord a e s) := by
  unfold Machine.takePlanWord planWritten
  repeat' split
  · exact h
  · exact h
  · exact k.cache _ rfl rfl h

theorem markDirty (g) (h : P s) : P (markDirty g s) := k.engine (s := s) { s.engine with dirty := _ } rfl (.inl rfl) h

omit k in
theorem event {h : Handing} {f : State → State} (hf : P h.state → P (f h.state)) (hs : P h.state) : P (h.event f).state := hf hs

theorem judgeOverwrite (a) {h : Handing} (hs : P h.state) : P (judgeOverwrite a h).state := by
  unfold Machine.judgeOverwrite
  repeat' split
  · exact hs
  · exact k.busAnomaly hs
  · exact hs

theorem handRole (a w r) {h : Handing} (hs : P h.state) : P (handRole a w h r).state := by
  unfold Machine.handRole handCommand
  repeat' split
  · exact hs
  · exact k.takeDamaged _ hs
  · exact k.takeArgument _ _ hs
  · exact k.takeConsumer _ hs
  · exact k.judgeOverwrite _ (k.markDirty _ hs)
  · exact k.judgeOverwrite _ hs
  · exact k.takePlanWord _ _ hs
  · exact KeptInside.whenReported (k.takeHeader _) hs
  · exact KeptInside.whenReported (k.takeZone _ _) hs
  · exact KeptInside.whenReported (k.takeClosing _) hs
  · exact k.judgeOverwrite _ hs
  · exact hs

theorem settled {h : Handing} (hs : P h.state) : P h.settled.state := by
  unfold Handing.settled
  split
  · exact k.settleWord hs
  · exact hs

theorem handWord (a w) {h : Handing} (hs : P h.state) : P (handWord a w h).state := by
  unfold Machine.handWord
  split
  · exact hs
  · exact k.handRole _ _ _ (k.settled hs)

theorem handWords (as : List Nat) (ws : List BusWord) {h : Handing} (hs : P h.state) : P (handWords as ws h).state := by
  induction as generalizing ws h with
  | nil => exact hs
  | cons a as ih =>
    cases ws with
    | nil => exact hs
    | cons w ws => exact ih ws (k.handWord a w hs)

theorem handWrite (as ws) (h : P s) : P (handWrite as ws s) := by
  have h0 := k.handWords as ws (h := { state := s, events := false, taken := false, command := none, raised := false }) h
  unfold Machine.handWrite
  dsimp only
  split
  · exact h0
  · refine k.takeCommand _ _ ?_
    unfold Handing.done
    split
    · exact k.settle h0
    · exact h0

/-! ### Completions of the engine -/

theorem walkFail (n r) (hw : s.cache.walk.isSome = true) (h : P s) : P (walkFail n r s) := by
  have h0 := k.walkEnds (s := s) { s.cache.emptied with walk := none, loaded := none, fault := some (n, r) } .invalid hw
    (by simp [PlanCache.emptied]) rfl h
  exact k.status h0

theorem walkExtend (n) (hf : s.cache.fetch = none) (hw : s.cache.walk.isSome = true) (h : P s) : P (walkExtend n s) := by
  unfold Machine.walkExtend
  split
  · exact k.walkCreate _ hf h
  · exact k.walkFail _ _ hw h

theorem walkNext (e n) (hf : s.cache.fetch = none) (hw : s.cache.walk.isSome = true) (h : P s) : P (walkNext e n s) := by
  unfold Machine.walkNext
  split
  · exact k.walkExtend _ hf hw h
  · split
    · exact k.fetch _ hf h
    · split
      · exact k.walkExtend _ hf hw h
      · have h0 := k.walkEnds (s := s) { s.cache with walk := none, loaded := some e } .ok hw rfl rfl h
        exact k.status h0

theorem walkFetched (e n x ws) (hf : s.cache.fetch = none) (hw : s.cache.walk.isSome = true) (h : P s) :
    P (walkFetched e n x ws s) := by
  unfold Machine.walkFetched
  split
  · exact k.walkNext (s := s.modCache fun c => c.update n fun x => { x with state := .stale, writtenDuringFetch := false })
      _ _ hf hw (k.cache _ rfl rfl h)
  · split
    · rename_i r _
      exact k.walkFail (s := s.modCache fun c => c.update n fun x => { x with state := .invalid, reason := some r })
        _ _ hw (k.cache _ rfl rfl h)
    · rename_i g _
      exact k.walkNext (s := s.modCache fun c =>
        c.update n fun x => { x with state := .valid, record := some g, reason := none }) _ _ hf hw (k.cache _ rfl rfl h)

/-- The completion of a fetch, with the request's service ended before it. -/
theorem fetchDone (ws) (hs : P s)
    (h : P (s.modCache fun c => { c with fetch := none })) : P (fetchDone ws s) := by
  unfold Machine.fetchDone
  split
  · exact hs
  · dsimp only
    split
    · exact h
    · split
      · exact h
      · split
        · rename_i w hw
          exact k.walkFetched _ _ _ _ rfl (by rw [hw]; rfl) h
        · split
          · exact k.cache _ rfl rfl h
          · split
            · exact k.judgeRun (k.status (k.raiseEvent _ (k.cache _ rfl rfl (k.cache _ rfl rfl h))))
            · exact k.judgeRun (k.cache _ rfl rfl h)

theorem applyConfig (b : ConfigBlock) (hd : b.tuning.depth ≤ 2) (h : P s) : P (applyConfig b s) := by
  have h0 : P (changePlanWindow b.plan s) := by
    unfold changePlanWindow
    split
    · exact h
    · exact k.status (k.cache _ (by simp [PlanCache.emptied]) rfl h)
  have h1 := k.config (s := (Machine.setAssembler .idle ((changePlanWindow b.plan s).modPath fun p =>
        { p with plan := some b.plan, stat := some b.stat, log := some b.log, consumer := none })).modEngine fun e =>
          { e with producer := 0, lost := 0 })
    { settings := b.settings, tuning := some b.tuning } (fun ⟨b1, b2, b3, b4, _⟩ => ⟨b1, b2, b3, b4, fun t ht => by cases ht; exact hd⟩)
    (k.empties (k.setAssembler .idle (k.path _ h0)))
  unfold Machine.applyConfig
  dsimp only
  split
  · rename_i hu
    unfold Machine.setRunState
    rw [if_neg (by rw [hu]; decide)]
    refine k.status (k.modSched _ (fun hb => ?_) h1)
    obtain ⟨hq, ho⟩ := hb.2.2.1 (by exact (congrArg RunState.resting hu).trans rfl)
    exact hb.of_resting rfl hq ho rfl rfl
  · exact h1

theorem statusWritten (sv) (h : P s) : P (statusWritten sv s) := by
  have h0 : P (if sv.rewrite then requestStatus s else s) := by
    split
    · exact k.status h
    · exact h
  unfold Machine.statusWritten
  generalize (if sv.rewrite then requestStatus s else s) = t at h0 ⊢
  dsimp only
  split
  · rename_i ho; exact k.opens _ ho.2 h0
  · exact h0

theorem logWritten (h : P s) : P (logWritten s) := by
  unfold Machine.logWritten
  split
  · exact h
  · exact k.status (k.engine (s := s) { s.engine with producer := _ } rfl (.inl rfl) h)

theorem serviceDone (sv : Service) (ws) (hv : s.engine.service = some sv) (he : sv.ended = false) (h : P s) :
    P (serviceDone sv ws (s.modEngine fun e => { e with service := none })) := by
  have h0 := k.ends h
  unfold Machine.serviceDone
  split
  · exact h0
  · exact k.statusWritten _ h0
  · exact k.logWritten h0
  · rename_i n a hr
    exact k.fetchDone ws h0 (k.fetched sv n a hv he hr h)
  · rename_i hr
    unfold decideConfigure
    split
    · exact k.configured sv _ hv he hr h
    · rename_i hj
      exact k.applyConfig _ (judgeConfig_depth hj) (k.configured sv _ hv he hr h)

theorem serviceAfter (sv : Service) (a ws) (hv : s.engine.service = some sv) (h : P s) : P (serviceAfter sv a ws s) := by
  unfold Machine.serviceAfter
  split
  · exact k.leaveList _ (k.ends h)
  · rename_i he
    split
    · exact k.serviceDone sv _ hv (by simpa using he) h
    · exact k.next sv _ _ _ hv (by simpa using he) h

/-- An engine access completes, its words in memory. -/
theorem engineAccessEnds (a : EngineAccess) (ws) (h : P s) :
    P (let t := (s.modPort fun q => { q with access := .noAccess }).modEngine fun e => e.groupWritten a
       let t := if a.commit then Machine.leaveList a.record t else t
       match t.engine.service with
       | none => t
       | some sv => Machine.serviceAfter sv a ws t) := by
  have hq : (s.engine.groupWritten a).queued = s.engine.queued := by
    unfold Engine.groupWritten
    split <;> rfl
  have h0 : P ((s.modPort fun q => { q with access := .noAccess }).modEngine fun e => e.groupWritten a) :=
    k.engine (s := s.modPort fun q => { q with access := .noAccess }) _ hq
      (.inl (by unfold Engine.groupWritten; split <;> rfl)) (k.port _ rfl rfl rfl ⟨.inr rfl, .inl rfl⟩ h)
  have h1 : P (if a.commit then Machine.leaveList a.record
        ((s.modPort fun q => { q with access := .noAccess }).modEngine fun e => e.groupWritten a)
      else (s.modPort fun q => { q with access := .noAccess }).modEngine fun e => e.groupWritten a) := by
    split
    · exact k.leaveList _ h0
    · exact h0
  dsimp only
  split
  · exact h1
  · rename_i sv hv; exact k.serviceAfter sv a ws hv h1

/-! ### Transactions -/

theorem arrive (tx) (h : P s) : P (arrive tx s) := by
  have h0 := k.waitPass (some tx) h
  unfold Machine.arrive recordArrival
  dsimp only
  split
  · exact h0
  · split
    · exact k.busAnomaly (k.judgeHolds h0)
    · exact k.judgeHolds h0

theorem makeTransaction (tx) (h : P s) : P (makeTransaction tx s) := by
  unfold Machine.makeTransaction
  repeat' split
  · exact k.path _ h
  · exact h
  · exact k.arrive _ h

theorem followOn (h : P s) : P (followOn s) := by
  unfold Machine.followOn
  split
  · exact h
  · exact k.makeTransaction _ (k.path _ h)

theorem dueNow (h : P s) : P (dueNow s) := by
  unfold Machine.dueNow
  split
  · exact h
  · rename_i he
    exact k.comeDue _ (List.mem_of_find?_eq_some he) h

theorem deadlineNow (h : P s) : P (deadlineNow s) := by
  unfold Machine.deadlineNow
  split
  · exact h
  · rename_i he
    exact k.retireNow _ _ _ _ _ (List.mem_of_find?_eq_some he) h

/-! ### Session, supply and crystal -/

theorem takeDeferredAlert (h : P s) : P (takeDeferredAlert s) := by
  unfold Machine.takeDeferredAlert
  split
  · exact k.judgeAlert (k.unmark h)
  · exact h

omit k in
/-- A sample leaves an awake session awake in its state. -/
theorem sampleSupply_state {s : State} (b : Nat) (h : s.session.asleep = false) :
    (Machine.sampleSupply b s).session.state = s.session.state := by
  have hr : ∀ (e : Option EventClass) (t : State), t.session.asleep = false →
      (Machine.raiseOptional e t).session.state = t.session.state := by
    intro e t ht
    unfold Machine.raiseOptional
    split
    · rfl
    · exact state_of_course ((raiseEvent_undisturbed _ t).same (.inl ht)).course
  unfold Machine.sampleSupply Machine.changeSupply
  dsimp only
  (repeat' split) <;> simp [hr, h]

theorem closeSession (b) (hc : s.session.state = .closing) (h : P s) : P (closeSession b s) := by
  have hs : (Machine.sampleSupply b s).session.state = .closing :=
    (sampleSupply_state b (by simp [Session.asleep, hc])).trans hc
  exact k.takeDeferredAlert (k.status (k.closes hs (k.sampleSupply b h)))

theorem forceSleep (b) (ho : s.session.state = .open) (h : P s) : P (forceSleep b s) :=
  k.status (k.raiseEvent _ (k.sampleSupply b (k.forced ho h)))

theorem recheck (b) (h : P s) : P (recheck b s) := by
  unfold Machine.recheck
  dsimp only
  split
  · rename_i hc; exact k.supply _ (fun _ => by simp [hc]) (k.sampleSupply b h)
  · exact k.sampleSupply b h

theorem crystalStopped (h : P s) : P (crystalStopped s) := by
  have h0 : P (s.modTb fun y => { y with crystalRunning := false, sinceStop := 0 }) := k.clock _ (fun hd => hd) h
  unfold Machine.crystalStopped fallBack
  dsimp only
  split
  · exact k.status (k.raiseEvent _ (k.clock _ (fun _ => by simp) h0))
  · exact h0

theorem entryComplete (b) (hr : s.port.retention = .entering) (h : P s) : P (entryComplete b s) := by
  unfold Machine.entryComplete
  split
  · exact k.port _ rfl rfl rfl ⟨.inl rfl, .inr (by simp [hr])⟩ h
  · have h0 : P (s.modPort fun q => { q with retention := .retained }) :=
      k.port _ rfl rfl rfl ⟨.inl rfl, .inr (by simp [hr])⟩ h
    dsimp only
    split
    · rename_i hc; exact k.closeSession b hc h0
    · exact h0

end KeptInside

namespace Kept

variable {P : State → Prop} (k : Kept P) {s : State}
include k

theorem portSettle (h : P s) : P (portSettle s) := by
  have h0 : P (beginExit s) := by
    unfold beginExit
    split
    · rename_i hr
      exact k.port _ rfl rfl rfl ⟨.inl rfl, .inr (by simp [hr.1])⟩ h
    · exact h
  unfold Machine.portSettle beginEntry
  split
  · exact k.entry (k.grant h0)
  · exact k.grant h0

theorem finish (h : P s) : P (finish s) := k.portSettle (k.settle h)

theorem engineCompleteNow (h : P s) : P (engineCompleteNow s) := by
  unfold Machine.engineCompleteNow
  split
  · rename_i a _
    have h0 : P (engineRam a s) := by
      unfold engineRam
      split
      · exact k.memory _ _ h
      · exact h
    exact k.engineAccessEnds a (engineWords a s) h0
  · exact h
  · exact h

theorem passComplete (tx) (h : P s) : P (passComplete tx s) := by
  have h0 : P (s.modPort fun q => { q with access := .noAccess }) := k.port _ rfl rfl rfl ⟨.inr rfl, .inl rfl⟩ h
  unfold Machine.passComplete
  dsimp only
  split
  · exact k.path _ h0
  · split
    · exact k.memory _ _ h0
    · exact k.handWrite _ _ (k.memory _ _ h0)

theorem passCompleteNow (h : P s) : P (passCompleteNow s) := by
  unfold Machine.passCompleteNow
  split
  · exact k.followOn (k.passComplete _ h)
  · exact h
  · exact h

theorem rowEffect (c : Instr) (h : P s) : P (rowEffect c s) := by
  unfold Machine.rowEffect
  split
  · exact KeptInside.outsideReset (k.unlessBusy _ fun b => k.configureCommand _ b) h
  · exact KeptInside.guarded (fun _ => k.engineCompleteNow) h
  · exact KeptInside.outsideReset (k.unlessBusy _ fun _ => k.setTime _) h
  · exact KeptInside.outsideReset (k.unlessBusy _ fun _ => k.trimTime _) h
  · exact KeptInside.outsideReset (k.unlessBusy _ fun b => k.loadPlan _ b) h
  · exact KeptInside.outsideReset (k.unlessBusy _ fun _ => k.setEv _) h
  · exact KeptInside.outsideReset (k.unlessBusy _ fun _ => k.startCommand _) h
  · exact KeptInside.outsideReset (k.unlessBusy _ fun _ => k.stopCommand _) h
  · exact KeptInside.outsideReset (k.unlessBusy _ fun _ => k.armCommand _) h
  · exact KeptInside.outsideReset (k.unlessBusy _ fun _ => k.sleepCommand _) h
  · exact KeptInside.outsideReset (k.unlessBusy _ fun _ => k.clearCommand _) h
  · exact KeptInside.outsideReset k.clearPlan h
  · exact KeptInside.outsideReset k.clearStatistics h
  · exact KeptInside.outsideReset k.clearEvents h
  · exact KeptInside.outsideReset k.clearTime h
  · exact KeptInside.outsideReset (fun h => k.resetPart _ (k.board _ rfl rfl rfl h)) h
  · exact KeptInside.outsideReset (k.unlessBusy _ fun _ => k.decideCommand _ _) h
  · exact KeptInside.outsideReset (k.takeDamaged _) h
  · exact KeptInside.outsideReset (k.takeArgument _ _) h
  · exact k.takeConsumer _ h
  · exact k.takePlanWord _ _ h
  · exact KeptInside.whenReported (k.takeHeader _) h
  · exact KeptInside.whenReported (k.takeZone _ _) h
  · exact KeptInside.whenReported (k.takeClosing _) h
  · exact k.dueNow h
  · exact k.deadlineNow h
  · exact KeptInside.guarded (fun _ => k.engineCompleteNow) h
  · exact k.judgeScheduled h
  · exact k.judgeIdle h
  · exact KeptInside.guarded (fun hw => k.holdEnds _ hw) h
  · refine KeptInside.guarded (fun hw => k.forceSleep _ ?_) h
    simp only [sessionExpired, Bool.and_eq_true, decide_eq_true_eq] at hw
    exact hw.1
  · exact KeptInside.guarded (fun _ => k.marks _ rfl rfl rfl rfl rfl (.inl rfl)) h
  · exact KeptInside.guarded (fun _ => k.recheck _) h
  · exact KeptInside.outsideReset k.crystalStopped h
  · exact KeptInside.outsideReset (KeptInside.guarded fun _ => k.clock _ fun hd => hd) h
  · unfold powerOnSample
    split
    · exact k.sampleSupply _ (k.power _ h)
    · exact k.power _ h
  · exact k.makeTransaction _ h
  · exact k.passCompleteNow h
  · exact k.engineCompleteNow h
  · exact KeptInside.guarded (fun hr => k.entryComplete _ (of_decide_eq_true hr)) h
  · exact KeptInside.guarded (fun _ => k.exit) h
  · exact KeptInside.guarded (fun hw => k.pulseEnds _ hw) h
  · exact k.board _ rfl rfl rfl h

/-- Every step keeps what the shared operations keep, of a predicate that does not read the command queue. -/
theorem step {t : State} (hp : ∀ {s : State} q, P s → P (s.setPending q)) (h : P s) (hs : step s = .next t) : P t :=
  step_keeps hp (fun h => k.clock _ (fun hd => hd) h) k.rowEffect k.finish h hs

end Kept

end Sys2Proof.Machine
end

section
/-! PROOFS. The step's front command, the reset state, and the invariants of the RAM, the starvation count and the timers. -/

namespace Sys2Proof.Machine

/-- Settles O1: `step` takes the front command. -/
theorem stepRunsFrontCommand : Obligations.StepRunsFrontCommand := by
  intro c rest s h
  unfold step
  rw [h]
  rfl

/-- Settles O60, each invariant evaluated at the reset state. -/
theorem resetMeetsTheInvariants : Obligations.ResetMeetsTheInvariants := by
  refine ⟨rfl, ?_, ?_, ?_, ?_, ⟨rfl, rfl, ?_⟩, ?_, ?_, ?_⟩
  · exact ⟨by decide, fun _ => rfl⟩
  · unfold TimerRunsInOpen; decide
  · unfold RecheckRunsInCritical; decide
  · unfold DegradedOnRc; decide
  · intro h; cases h
  · exact ⟨fun h => (by cases h), fun h => (by cases h), fun _ => ⟨rfl, rfl⟩, by decide, fun _ h => (by cases h)⟩
  · unfold EngineQueueLimits; decide
  · exact ⟨fun _ => rfl, fun _ => rfl, fun h => (by cases h)⟩

/-! ### The canonical form of the RAM -/

theorem ramWfFrom_iff (lo : Nat) (m : List (Nat × RamByte)) :
    ramWfFrom lo m = true ↔ (∀ x ∈ m, lo ≤ x.1) ∧ (m.map Prod.fst).Pairwise (· < ·) ∧ ∀ x ∈ m, x.2 ≠ 0x100 := by
  induction m generalizing lo with
  | nil => simp [ramWfFrom]
  | cons p r ih =>
    obtain ⟨a, b⟩ := p
    simp only [ramWfFrom, Bool.and_eq_true, decide_eq_true_eq, ih, List.map_cons, List.pairwise_cons, List.mem_cons,
      forall_eq_or_imp, List.mem_map]
    constructor
    · rintro ⟨⟨hlo, hb⟩, hr, hp, hd⟩
      exact ⟨⟨hlo, fun x hx => by have := hr x hx; omega⟩, ⟨fun n ⟨x, hx, hn⟩ => hn ▸ hr x hx, hp⟩, hb, hd⟩
    · rintro ⟨⟨hlo, -⟩, ⟨hr, hp⟩, hb, hd⟩
      exact ⟨⟨hlo, hb⟩, fun x hx => hr x.1 ⟨x, hx, rfl⟩, hp, hd⟩

theorem endEngineAccess_canonical {s : State} (h : RamCanonical s) : RamCanonical (endEngineAccess s) := by
  unfold RamCanonical at *
  unfold endEngineAccess
  split
  · exact h
  · exact h
  · dsimp only
    split
    · exact writeWords_wf h _ _
    · exact h

/-- Nothing but a write to memory and a reset touches the RAM. -/
theorem keptByEvents_ramCanonical : KeptByEvents RamCanonical where
  run _ _ _ _ _ h := h
  supply _ _ h := h
  board _ _ _ _ h := h
  engine _ _ _ h := h
  status h := h
  marks _ _ _ _ _ _ _ h := h
  wake _ _ _ h := by simpa [RamCanonical] using h
  log _ _ h := h

theorem kept_ramCanonical : Kept RamCanonical where
  toKeptByEvents := keptByEvents_ramCanonical
  retires e o c m g _ h := keptByEvents_ramCanonical.retire (fun _ _ h => h) e o c m g h
  path _ h := h
  config _ _ h := h
  clock _ _ h := h
  cmd _ _ h := h
  port _ _ _ _ _ h := h
  order _ h := by simpa [RamCanonical] using h
  drop _ _ h := keptByEvents_ramCanonical.loseLog h
  unmark h := h
  empties h := h
  serve _ _ _ _ _ _ _ h := by simpa [RamCanonical, serve] using h
  ends h := h
  next _ _ _ _ _ _ h := by simpa [RamCanonical] using h
  cache _ _ _ h := h
  fetch _ _ h := h
  fetched _ _ _ _ _ _ h := h
  walkEnds _ _ _ _ _ h := by simpa [RamCanonical] using h
  configured _ _ _ _ _ h := by simpa [RamCanonical] using h
  configures _ _ h := by simpa [RamCanonical] using h
  loads _ _ _ _ h := by simpa [RamCanonical] using h
  timer _ _ h := h
  sleeps _ _ h := h
  forced _ h := by simpa [RamCanonical] using h
  closes _ h := by simpa [RamCanonical] using h
  opens _ _ h := by simpa [RamCanonical] using h
  holdEnds _ _ h := by simpa [RamCanonical] using h
  pulseEnds _ _ h := by simpa [RamCanonical] using h
  exit h := by simpa [RamCanonical] using h
  soft h := endEngineAccess_canonical h
  grant h := by simpa [RamCanonical] using h
  entry h := h
  memory _ _ h := writeWords_wf h _ _
  power _ h := endEngineAccess_canonical h

/-- Settles O54: every write keeps the canonical form. -/
theorem ramStaysCanonical : Obligations.RamStaysCanonical :=
  ⟨fun m => (ramWfFrom_iff 0 m).trans (by simp), fun _ => rfl, fun _ _ h hs => kept_ramCanonical.step (fun _ h => h) h hs⟩

end Sys2Proof.Machine
end

section
/-! PROOFS. The starvation count and the timers through every step. -/

namespace Sys2Proof.Machine

/-! ### The engine's request at the port -/

theorem judgeHolds_waitEngine (s : State) :
    (judgeHolds s).port.waitEngine = s.port.waitEngine ∧ (judgeHolds s).port.starvation = s.port.starvation ∧
      (judgeHolds s).port.waitWake = s.port.waitWake ∧ (judgeHolds s).port.access = s.port.access ∧
      (judgeHolds s).port.retention = s.port.retention := by
  unfold judgeHolds
  (repeat' split) <;> simp

theorem leaveList_waitEngine (r : Option RecordRange) (s : State) :
    (leaveList r s).port.waitEngine = s.port.waitEngine ∧ (leaveList r s).port.starvation = s.port.starvation ∧
      (leaveList r s).port.waitWake = s.port.waitWake ∧ (leaveList r s).port.access = s.port.access ∧
      (leaveList r s).port.retention = s.port.retention := by
  unfold leaveList
  split <;> simp [judgeHolds_waitEngine]

/-- An ORDER_WRITE requested leaves the engine's request at the port, or withdraws it with the starvation count 0 (R157). -/
theorem requestOrder_waitEngine (o : OrderContent) (s : State) :
    ((requestOrder o s).port.waitEngine = s.port.waitEngine ∧ (requestOrder o s).port.starvation = s.port.starvation) ∨
      ((requestOrder o s).port.waitEngine = none ∧ (requestOrder o s).port.starvation = 0) := by
  unfold requestOrder evictOrder endOrderService
  (repeat' split) <;> simp [leaveList_waitEngine]

theorem requestOrder_access (o : OrderContent) (s : State) :
    (requestOrder o s).port.access = s.port.access ∧ (requestOrder o s).port.waitWake = s.port.waitWake ∧
      (requestOrder o s).port.retention = s.port.retention := by
  unfold requestOrder evictOrder endOrderService
  (repeat' split) <;> simp [leaveList_waitEngine]

theorem askPortForWake_waitEngine (s : State) :
    (askPortForWake s).port.waitEngine = s.port.waitEngine ∧ (askPortForWake s).port.starvation = s.port.starvation := by
  unfold askPortForWake
  split <;> simp

theorem beginWake_waitEngine (c : WakeCause) (l : Bool) (s : State) :
    (beginWake c l s).port.waitEngine = s.port.waitEngine ∧ (beginWake c l s).port.starvation = s.port.starvation := by
  unfold beginWake
  simp [askPortForWake_waitEngine]

theorem judgeAlert_waitEngine (s : State) :
    (judgeAlert s).port.waitEngine = s.port.waitEngine ∧ (judgeAlert s).port.starvation = s.port.starvation := by
  unfold judgeAlert beginAlertWake
  split <;> simp [beginWake_waitEngine]

theorem raiseEvent_waitEngine (e : EventClass) (s : State) :
    (raiseEvent e s).port.waitEngine = s.port.waitEngine ∧ (raiseEvent e s).port.starvation = s.port.starvation := by
  unfold raiseEvent
  dsimp only
  (repeat' split) <;> simp [judgeAlert_waitEngine]

theorem sampleSupply_waitEngine (b : Nat) (s : State) :
    (sampleSupply b s).port.waitEngine = s.port.waitEngine ∧ (sampleSupply b s).port.starvation = s.port.starvation := by
  unfold sampleSupply changeSupply raiseOptional
  dsimp only
  (repeat' split) <;> simp [raiseEvent_waitEngine]

theorem wakeSample_waitEngine (b : Nat) (s : State) :
    (wakeSample b s).port.waitEngine = s.port.waitEngine ∧ (wakeSample b s).port.starvation = s.port.starvation := by
  unfold wakeSample
  simp [sampleSupply_waitEngine]

theorem exitComplete_port (s : State) :
    (exitComplete s).port = { s.port with retention := .active, waitWake := false } := by
  unfold exitComplete
  dsimp only
  split <;> simp

theorem askForAccess_port (s : State) :
    (askForAccess s).port.waitEngine = (match s.engine.service with | none => s.port.waitEngine | some sv => sv.todo.head?) ∧
      (askForAccess s).port.starvation = s.port.starvation := by
  unfold askForAccess
  split <;> simp [*]

/-! ### The starvation count -/

theorem StarvationBounded.of_port {a b : State} (h : StarvationBounded a)
    (k : b.port.waitEngine = a.port.waitEngine ∧ b.port.starvation = a.port.starvation) : StarvationBounded b := by
  unfold StarvationBounded at *
  rwa [k.1, k.2]

theorem StarvationBounded.of_waiting {s : State} {a : EngineAccess} (h : s.port.starvation ≤ 4)
    (hw : s.port.waitEngine = some a) : StarvationBounded s := ⟨h, fun hn => by simp [hw] at hn⟩

theorem grantEngine_starvation (a : EngineAccess) (s : State) : StarvationBounded (grantEngine a s) := by
  have h : (grantEngine a s).port.starvation = 0 := by
    unfold grantEngine
    dsimp only
    (repeat' split) <;> simp [judgeHolds_waitEngine]
  exact ⟨by omega, fun _ => h⟩

theorem grant_starvation {s : State} (h : StarvationBounded s) : StarvationBounded (grant s) := by
  unfold grant
  split
  · split
    · split
      · rename_i hw _; exact .of_waiting (a := _) (by simp only [grantPass, State.modPort_port]; omega) hw
      · exact grantEngine_starvation _ _
    · exact h.of_port (by simp [grantPass])
    · exact grantEngine_starvation _ _
    · exact h
  · exact h

theorem keptByEvents_starvationBounded : KeptByEvents StarvationBounded where
  run _ _ _ _ _ h := h
  supply _ _ h := h
  board _ _ _ _ h := h
  engine _ _ _ h := h
  status h := h
  marks _ _ _ _ _ _ _ h := h
  wake _ _ _ h := h.of_port (beginWake_waitEngine _ _ _)
  log _ _ h := h

theorem kept_starvationBounded : Kept StarvationBounded where
  toKeptByEvents := keptByEvents_starvationBounded
  retires e o c m g _ h := keptByEvents_starvationBounded.retire (fun _ _ h => h) e o c m g h
  path _ h := h
  config _ _ h := h
  clock _ _ h := h
  cmd _ _ h := h
  port _ he hs _ _ h := h.of_port ⟨he, hs⟩
  order o h := by
    rcases requestOrder_waitEngine o _ with k | ⟨-, k⟩
    · exact h.of_port k
    · exact ⟨by omega, fun _ => k⟩
  drop _ _ h := keptByEvents_starvationBounded.loseLog h
  unmark h := h
  empties h := h
  serve _ todo _ _ _ _ ht h := by
    obtain ⟨a, l, rfl⟩ := List.exists_cons_of_ne_nil ht
    exact .of_waiting (a := a) (by simpa [serve, askForAccess_port] using h.1) (by simp [serve, askForAccess_port])
  ends h := h
  next _ a _ _ _ _ h := .of_waiting (a := a) (by simpa [askForAccess_port] using h.1) (by simp [askForAccess_port])
  cache _ _ _ h := h
  fetch _ _ h := h
  fetched _ _ _ _ _ _ h := h
  walkEnds _ _ _ _ _ h := h.of_port (by simp)
  configured _ _ _ _ _ h := h.of_port (by simp)
  configures _ _ h := h.of_port (by simp)
  loads _ _ _ _ h := h.of_port (by simp)
  timer _ _ h := h
  sleeps _ _ h := h
  forced _ h := h.of_port (by simp)
  closes _ h := h.of_port (by simp)
  opens _ _ h := h.of_port (by simp)
  holdEnds _ _ h := h.of_port (wakeSample_waitEngine _ _)
  pulseEnds _ _ h := h.of_port (wakeSample_waitEngine _ _)
  exit h := h.of_port (by simp [exitComplete_port])
  soft _ := ⟨Nat.zero_le 4, fun _ => rfl⟩
  grant h := grant_starvation h
  entry h := h
  memory _ _ h := h
  power _ _ := ⟨Nat.zero_le 4, fun _ => rfl⟩

/-- Settles O55: a pass-through grant counts up to 4 with the engine's request left waiting, and whatever withdraws or grants that request
sets 0. -/
theorem starvationStaysBounded : Obligations.StarvationStaysBounded :=
  fun _ _ h hs => kept_starvationBounded.step (fun _ h => h) h hs

/-! ### A sample in an awake session -/

theorem raiseEvent_awake (e : EventClass) {s : State} (h : s.session.asleep = false) :
    SameSession s (raiseEvent e s) ∧ (raiseEvent e s).port = s.port := by
  refine ⟨(raiseEvent_undisturbed e s).same (.inl h), ?_⟩
  have ha : (requestStatus (keepMark e (countEvent e s))).session.asleep = false := by
    rw [(requestStatus_frame _).2.2.2.1, (keepMark_frame e _).2.2.2.1]; exact h
  unfold raiseEvent
  dsimp only
  rw [ha, if_neg Bool.false_ne_true]
  (repeat' split) <;> simp

theorem raiseOptional_awake (e : Option EventClass) {s : State} (h : s.session.asleep = false) :
    SameSession s (raiseOptional e s) ∧ (raiseOptional e s).port = s.port := by
  unfold raiseOptional
  split
  · exact ⟨.rfl' s, rfl⟩
  · exact raiseEvent_awake _ h

/-- A sample in an awake session moves neither the session's course nor a controller line, and asks nothing of the port (R119). -/
theorem sampleSupply_awake (b : Nat) {s : State} (h : s.session.asleep = false) :
    (sampleSupply b s).session.course = s.session.course ∧
      (sampleSupply b s).pins = { s.pins with batterySense := b } ∧ (sampleSupply b s).port = s.port := by
  have k : ∀ (e : Option EventClass) (t : State), t.session = s.session → t.pins = { s.pins with batterySense := b } →
      t.port = s.port → (raiseOptional e t).session.course = s.session.course ∧
        (raiseOptional e t).pins = { s.pins with batterySense := b } ∧ (raiseOptional e t).port = s.port := by
    intro e t hs hp hq
    obtain ⟨hu, hv⟩ := raiseOptional_awake e (s := t) (by rw [hs]; exact h)
    exact ⟨by rw [hu.course, hs], hu.pins.trans hp, hv.trans hq⟩
  unfold sampleSupply changeSupply
  dsimp only
  split
  · simp
  · split
    · simpa only [suspendRun_frame] using k _ _ (by simp) (by simp) (by simp)
    · split
      · simpa only [resumeRun_frame] using k _ _ (by simp) (by simp) (by simp)
      · exact k _ _ (by simp) (by simp) (by simp)

theorem changeSupply_supply (x : SupplyState) (e : Option EventClass) (s : State) :
    (changeSupply x e s).supply =
      { s.supply with
        state := x
        recheck := if x = .critical then some (expiryAfter s.tb.elapsed s.config.settings.recheckPeriod) else none } := by
  unfold changeSupply
  dsimp only
  by_cases hx : x = .critical
  · simp [hx]
  · simp only [hx, if_false]
    split <;> simp

theorem sampleSupply_recheck (b : Nat) {s : State} (h : RecheckRunsInCritical s) : RecheckRunsInCritical (sampleSupply b s) := by
  unfold RecheckRunsInCritical at *
  unfold sampleSupply
  dsimp only
  split
  · exact h
  · rw [changeSupply_supply]
    dsimp only
    split
    · rename_i hc; exact ⟨fun _ => hc, fun _ => rfl⟩
    · rename_i hc; exact ⟨fun hn => (by cases hn), fun hn => absurd hn hc⟩

/-- The controller step of a wake begins: its phase, and nothing else of the session (R112). -/
theorem wakeControllerLines_session (s : State) :
    (wakeControllerLines s).session = { s.session with phase := if s.session.coldWake then .resetHold else .wakePulse } := by
  have hc : s.session.coldWake = true ↔ s.session.sleepKind = .off ∨ s.session.forcedRecovery = true := by
    simp [Session.coldWake]
  unfold wakeControllerLines
  simp only [hc]
  split <;> simp

/-! ### The timers -/

theorem timer_of_course {x y : Session} (h : y.course = x.course) : y.timer = x.timer := by
  have k : y.course.timer = x.course.timer := congrArg Session.timer h
  exact k

theorem phase_of_course {x y : Session} (h : y.course = x.course) : y.phase = x.phase := by
  have k : y.course.phase = x.course.phase := congrArg Session.phase h
  exact k

theorem sleepKind_of_course {x y : Session} (h : y.course = x.course) : y.sleepKind = x.sleepKind := by
  have k : y.course.sleepKind = x.course.sleepKind := congrArg Session.sleepKind h
  exact k

theorem TimerRunsInOpen.of_session {a b : State} (h : TimerRunsInOpen a) (ht : b.session.timer = a.session.timer)
    (hs : b.session.state = a.session.state) : TimerRunsInOpen b := by
  unfold TimerRunsInOpen at *
  rwa [ht, hs]

theorem TimerRunsInOpen.stopped {s : State} (h : TimerRunsInOpen s) (ho : s.session.state ≠ .open) : s.session.timer = none := by
  cases ht : s.session.timer with
  | none => rfl
  | some x => exact absurd (h.1 (by simp [ht])) ho

theorem TimerRunsInOpen.of_stopped {s : State} (ht : s.session.timer = none) (ho : s.session.state ≠ .open) :
    TimerRunsInOpen s := by
  unfold TimerRunsInOpen
  simp [ht, ho]

theorem restartTimer_timer {s : State} (h : TimerRunsInOpen s) : TimerRunsInOpen (restartTimer s) := by
  unfold restartTimer
  split
  · rename_i ho; simp [TimerRunsInOpen, ho]
  · exact h

theorem decideCommand_timer (q : BitVec 8) (r : Result) {s : State} (h : TimerRunsInOpen s) :
    TimerRunsInOpen (decideCommand q r s) := by
  have h0 : TimerRunsInOpen (requestStatus (s.modCmd fun c => { c with lastDecided := some (q, r) })) :=
    h.of_session (by simp) (by simp)
  unfold decideCommand
  dsimp only
  split
  · exact restartTimer_timer h0
  · exact h0

theorem decideLong_timer (r : Result) {s : State} (h : TimerRunsInOpen s) : TimerRunsInOpen (decideLong r s) := by
  unfold decideLong
  split
  · exact h
  · exact decideCommand_timer _ r (h.of_session (by simp) (by simp))

theorem acceptLong_timer (q : BitVec 8) (k : LongKind) {s : State} (h : TimerRunsInOpen s) : TimerRunsInOpen (acceptLong q k s) :=
  restartTimer_timer (h.of_session (by simp) (by simp))

theorem beginWake_session (c : WakeCause) (l : Bool) (s : State) :
    (beginWake c l s).session.state = .waking ∧ (beginWake c l s).session.timer = s.session.timer := by
  unfold beginWake askPortForWake wakeControllerLines
  (repeat' split) <;> simp

theorem enterSleep_session (kind : SleepKind) (s : State) :
    (enterSleep kind s).session =
      { s.session with state := asleepState kind, sleepKind := kind, timer := none, sleepTime := some s.tb.elapsed } := by
  unfold enterSleep asleepLines
  split <;> simp

theorem asleepState_ne_open (kind : SleepKind) : asleepState kind ≠ .open := by unfold asleepState; split <;> simp

theorem wakeSample_awake (b : Nat) {s : State} (h : s.session.asleep = false) :
    (wakeSample b s).session.course = { s.session.course with phase := .status } ∧
      (wakeSample b s).pins = { s.pins with batterySense := b } ∧ (wakeSample b s).port = s.port := by
  obtain ⟨hc, hp, hq⟩ := sampleSupply_awake b h
  refine ⟨?_, by simpa [wakeSample] using hp, by simpa [wakeSample] using hq⟩
  simp only [wakeSample, requestStatus_frame, State.modSession_session]
  rw [← hc]
  rfl

theorem Session.wakeAt_iff (x : Session) (p : WakePhase) : x.wakeAt p = true ↔ x.state = .waking ∧ x.phase = p := by
  simp [Session.wakeAt]

theorem keptByEvents_timerRunsInOpen : KeptByEvents TimerRunsInOpen where
  run _ _ _ _ _ h := h
  supply _ _ h := h
  board _ _ _ _ h := h
  engine _ _ _ h := h
  status h := h
  marks _ hs _ _ _ ht _ h := h.of_session ht hs
  wake c l ha h := by
    obtain ⟨hs, ht⟩ := beginWake_session c l _
    exact .of_stopped (ht.trans (h.stopped fun ho => by simp [Session.asleep, ho] at ha)) (by simp [hs])
  log _ _ h := h

theorem kept_timerRunsInOpen : Kept TimerRunsInOpen where
  toKeptByEvents := keptByEvents_timerRunsInOpen
  retires e o c m g _ h := keptByEvents_timerRunsInOpen.retire (fun _ _ h => h) e o c m g h
  path _ h := h
  config _ _ h := h
  clock _ _ h := h
  cmd _ _ h := h
  port _ _ _ _ _ h := h
  order _ h := h.of_session (by simp) (by simp)
  drop _ _ h := keptByEvents_timerRunsInOpen.loseLog h
  unmark h := h
  empties h := h
  serve _ _ _ _ _ _ _ h := h.of_session (by simp [serve]) (by simp [serve])
  ends h := h
  next _ _ _ _ _ _ h := h.of_session (by simp) (by simp)
  cache _ _ _ h := h
  fetch _ _ h := h
  fetched _ _ _ _ _ _ h := h
  walkEnds _ r _ _ _ h := decideLong_timer r h
  configured _ r _ _ _ h := decideLong_timer r h
  configures q _ h := acceptLong_timer q .configure h
  loads _ q _ _ h := acceptLong_timer q .loadPlan h
  timer _ ho _ := by simp [TimerRunsInOpen, ho]
  sleeps _ _ _ := .of_stopped rfl (by simp)
  forced _ _ := .of_stopped (by simp [enterSleep_session]) (by simp [enterSleep_session, asleepState_ne_open])
  closes _ _ := .of_stopped (by simp [enterSleep_session]) (by simp [enterSleep_session, asleepState_ne_open])
  opens _ _ _ := by simp [TimerRunsInOpen, openSession]
  holdEnds b hw h := by
    obtain ⟨hs, -⟩ := (Session.wakeAt_iff _ _).1 hw
    obtain ⟨hc, -, -⟩ := wakeSample_awake b (s := (State.modSession (fun x => { x with forcedRecovery := false })
      (State.modPins (fun p => { p with ctrlReset := false }) _))) (awake_of_waking hs)
    have hs' := congrArg Session.state hc
    have ht' := congrArg Session.timer hc
    exact h.of_session ht' hs'
  pulseEnds b hw h := by
    obtain ⟨hs, -⟩ := (Session.wakeAt_iff _ _).1 hw
    obtain ⟨hc, -, -⟩ := wakeSample_awake b (s := State.modPins (fun p => { p with wake := false }) _) (awake_of_waking hs)
    have hs' := congrArg Session.state hc
    have ht' := congrArg Session.timer hc
    exact h.of_session ht' hs'
  exit h := by
    refine h.of_session ?_ ?_ <;> unfold exitComplete <;> dsimp only <;> split <;> simp [wakeControllerLines_session]
  soft _ := by simp [TimerRunsInOpen, softReset, Session.softReset]
  grant h := h.of_session (by simp) (by simp)
  entry h := h
  memory _ _ h := h
  power _ _ := by simp [TimerRunsInOpen, powerOn, State.poweredOn]; decide

theorem RecheckRunsInCritical.of_supply {a b : State} (h : RecheckRunsInCritical a) (k : b.supply = a.supply) :
    RecheckRunsInCritical b := by
  unfold RecheckRunsInCritical at *
  rwa [k]

theorem wakeSample_recheck (b : Nat) {s : State} (h : RecheckRunsInCritical s) : RecheckRunsInCritical (wakeSample b s) :=
  (sampleSupply_recheck b h).of_supply (by simp [wakeSample])

theorem keptByEvents_recheckRunsInCritical : KeptByEvents RecheckRunsInCritical where
  run _ _ _ _ _ h := h
  supply _ hy h := hy h
  board _ _ _ _ h := h
  engine _ _ _ h := h
  status h := h
  marks _ _ _ _ _ _ _ h := h
  wake _ _ _ h := h.of_supply (by simp)
  log _ _ h := h

theorem kept_recheckRunsInCritical : Kept RecheckRunsInCritical where
  toKeptByEvents := keptByEvents_recheckRunsInCritical
  retires e o c m g _ h := keptByEvents_recheckRunsInCritical.retire (fun _ _ h => h) e o c m g h
  path _ h := h
  config _ _ h := h
  clock _ _ h := h
  cmd _ _ h := h
  port _ _ _ _ _ h := h
  order _ h := h.of_supply (by simp)
  drop _ _ h := keptByEvents_recheckRunsInCritical.loseLog h
  unmark h := h
  empties h := h
  serve _ _ _ _ _ _ _ h := h.of_supply (by simp [serve])
  ends h := h
  next _ _ _ _ _ _ h := h.of_supply (by simp)
  cache _ _ _ h := h
  fetch _ _ h := h
  fetched _ _ _ _ _ _ h := h
  walkEnds _ _ _ _ _ h := h.of_supply (by simp)
  configured _ _ _ _ _ h := h.of_supply (by simp)
  configures _ _ h := h.of_supply (by simp)
  loads _ _ _ _ h := h.of_supply (by simp)
  timer _ _ h := h
  sleeps _ _ h := h
  forced _ h := h.of_supply (by simp)
  closes _ h := h.of_supply (by simp)
  opens _ _ h := h.of_supply (by simp)
  holdEnds b _ h := wakeSample_recheck b h
  pulseEnds b _ h := wakeSample_recheck b h
  exit h := h.of_supply (by simp)
  soft h := h.of_supply (endEngineAccess_blocks _).1
  grant h := h.of_supply (by simp)
  entry h := h
  memory _ _ h := h
  power _ _ := by simp [RecheckRunsInCritical, powerOn, State.poweredOn]

theorem DegradedOnRc.of_tb {a b : State} (h : DegradedOnRc a) (k : b.tb = a.tb) : DegradedOnRc b := by
  unfold DegradedOnRc at *
  rwa [k]

theorem keptByEvents_degradedOnRc : KeptByEvents DegradedOnRc where
  run _ _ _ _ _ h := h
  supply _ _ h := h
  board _ _ _ _ h := h
  engine _ _ _ h := h
  status h := h
  marks _ _ _ _ _ _ _ h := h
  wake _ _ _ h := h.of_tb (by simp)
  log _ _ h := h

theorem kept_degradedOnRc : Kept DegradedOnRc where
  toKeptByEvents := keptByEvents_degradedOnRc
  retires e o c m g _ h := keptByEvents_degradedOnRc.retire (fun _ _ h => h) e o c m g h
  path _ h := h
  config _ _ h := h
  clock _ hy h := hy h
  cmd _ _ h := h
  port _ _ _ _ _ h := h
  order _ h := h.of_tb (by simp)
  drop _ _ h := keptByEvents_degradedOnRc.loseLog h
  unmark h := h
  empties h := h
  serve _ _ _ _ _ _ _ h := h.of_tb (by simp [serve])
  ends h := h
  next _ _ _ _ _ _ h := h.of_tb (by simp)
  cache _ _ _ h := h
  fetch _ _ h := h
  fetched _ _ _ _ _ _ h := h
  walkEnds _ _ _ _ _ h := h.of_tb (by simp)
  configured _ _ _ _ _ h := h.of_tb (by simp)
  configures _ _ h := h.of_tb (by simp)
  loads _ _ _ _ h := h.of_tb (by simp)
  timer _ _ h := h
  sleeps _ _ h := h
  forced _ h := h.of_tb (by simp)
  closes _ h := h.of_tb (by simp)
  opens _ _ h := h.of_tb (by simp)
  holdEnds _ _ h := h.of_tb (by simp)
  pulseEnds _ _ h := h.of_tb (by simp)
  exit h := h.of_tb (by simp)
  soft h := h.of_tb (endEngineAccess_frame _).2.1
  grant h := h.of_tb (by simp)
  entry h := h
  memory _ _ h := h
  power _ _ := by simp [DegradedOnRc, powerOn, State.poweredOn]

/-- Settles O56: each timer is started and stopped with its state, and TIME_DEGRADED set and cleared with the source. -/
theorem timersFollowTheirStates : Obligations.TimersFollowTheirStates :=
  fun _ _ ⟨ht, hr, hd⟩ hs =>
    ⟨kept_timerRunsInOpen.step (fun _ h => h) ht hs, kept_recheckRunsInCritical.step (fun _ h => h) hr hs, kept_degradedOnRc.step (fun _ h => h) hd hs⟩

end Sys2Proof.Machine
end

section
/-! PROOFS. The controller lines follow the session through every step. -/

namespace Sys2Proof.Machine

/-- Lines and coherence read the state, the phase, the sleep kind and the forced-recovery mark alone. -/
theorem lines_congr {x y : Session} (hs : y.state = x.state) (hp : y.phase = x.phase) (hk : y.sleepKind = x.sleepKind)
    (hf : y.forcedRecovery = x.forcedRecovery) : y.lines = x.lines ∧ y.coherent = x.coherent := by
  unfold Session.lines Session.coherent Session.coldWake
  rw [hs, hp, hk, hf]
  exact ⟨rfl, rfl⟩

theorem LinesAgree.of_marks {a b : State} (h : LinesAgree a)
    (hp : b.pins.pwrEn = a.pins.pwrEn ∧ b.pins.ctrlReset = a.pins.ctrlReset ∧ b.pins.wake = a.pins.wake)
    (hs : b.session.state = a.session.state ∧ b.session.phase = a.session.phase ∧ b.session.sleepKind = a.session.sleepKind ∧
      b.session.forcedRecovery = a.session.forcedRecovery)
    (hw : b.port.waitWake = a.port.waitWake) : LinesAgree b := by
  obtain ⟨hl, hc, hm⟩ := h
  obtain ⟨kl, kc⟩ := lines_congr hs.1 hs.2.1 hs.2.2.1 hs.2.2.2
  exact ⟨by rw [kl, hp.1, hp.2.1, hp.2.2]; exact hl, by rw [kc]; exact hc, by rw [hw, hs.1, hs.2.1]; exact hm⟩

theorem LinesAgree.of_blocks {a b : State} (h : LinesAgree a) (hp : b.pins = a.pins) (hs : b.session = a.session)
    (hw : b.port.waitWake = a.port.waitWake) : LinesAgree b :=
  h.of_marks ⟨by rw [hp], by rw [hp], by rw [hp]⟩ ⟨by rw [hs], by rw [hs], by rw [hs], by rw [hs]⟩ hw

/-- A wake request waits at the port in a wake's first step alone. -/
theorem LinesAgree.noWaitWake {s : State} (h : LinesAgree s) (hn : ¬(s.session.state = .waking ∧ s.session.phase = .memory)) :
    s.port.waitWake = false := by
  by_contra hw
  exact hn (h.2.2 (by simpa using hw))

/-- A cold wake's lines before its controller step are those of OFF, another's those of STANDBY (R108, R112). -/
def StepTwoReady (s : State) : Prop :=
  (s.pins.pwrEn, s.pins.ctrlReset, s.pins.wake) =
    if s.session.coldWake = true then (false, true, false) else (true, false, false)

theorem wakeControllerLines_pins (s : State) :
    (wakeControllerLines s).pins =
      if s.session.coldWake = true then { s.pins with pwrEn := true, ctrlReset := true, wake := false }
      else { s.pins with wake := true } := by
  have hc : s.session.coldWake = true ↔ s.session.sleepKind = .off ∨ s.session.forcedRecovery = true := by
    simp [Session.coldWake]
  unfold wakeControllerLines
  simp only [hc]
  split <;> simp [driveLines]

theorem coldWake_congr {x y : Session} (hk : y.sleepKind = x.sleepKind) (hf : y.forcedRecovery = x.forcedRecovery) :
    y.coldWake = x.coldWake := by
  unfold Session.coldWake
  rw [hk, hf]

theorem wakeControllerLines_agree {s : State} (hs : s.session.state = .waking) (hr : StepTwoReady s)
    (hw : s.port.waitWake = false) : LinesAgree (wakeControllerLines s) := by
  unfold StepTwoReady at hr
  have hc : (wakeControllerLines s).session.coldWake = s.session.coldWake := by
    rw [wakeControllerLines_session]; rfl
  unfold LinesAgree Session.lines Session.coherent
  rw [hc, wakeControllerLines_pins, wakeControllerLines_session]
  simp only [hs, wakeControllerLines_frame, hw]
  by_cases hk : s.session.coldWake = true <;> simp [hk] at hr ⊢
  exact ⟨hr.1, hr.2.1⟩

/-- An asleep session's lines are those its wake begins from. -/
theorem LinesAgree.stepTwoReady_of_asleep {s : State} (h : LinesAgree s) (ha : s.session.asleep = true) : StepTwoReady s := by
  obtain ⟨hl, hc, -⟩ := h
  unfold Session.asleep at ha
  unfold StepTwoReady
  rw [hl]
  unfold Session.lines
  unfold Session.coherent at hc
  cases hs : s.session.state <;> rw [hs] at ha hc <;> simp at ha hc ⊢
  · simp [Session.coldWake, hc]
  · simp [hc]

/-- So are those of a wake that waits for the memory. -/
theorem LinesAgree.stepTwoReady_of_memory {s : State} (h : LinesAgree s) (hs : s.session.state = .waking)
    (hp : s.session.phase = .memory) : StepTwoReady s := by
  unfold StepTwoReady
  rw [h.1]
  simp [Session.lines, hs, hp]

theorem beginWake_agree (c : WakeCause) (l : Bool) {s : State} (ha : s.session.asleep = true) (h : LinesAgree s) :
    LinesAgree (beginWake c l s) := by
  have hw : s.port.waitWake = false :=
    h.noWaitWake fun k => by rw [awake_of_waking k.1] at ha; cases ha
  have hr := h.stepTwoReady_of_asleep ha
  unfold beginWake
  show LinesAgree (askPortForWake _)
  generalize ht : State.modSession _ s = t
  have hts : t.session.state = .waking := by rw [← ht]; rfl
  have htr : StepTwoReady t := by rw [← ht]; exact hr
  have htw : t.port.waitWake = false := by rw [← ht]; exact hw
  unfold askPortForWake
  split
  · exact wakeControllerLines_agree hts htr htw
  · refine ⟨?_, ?_, fun _ => ⟨hts, rfl⟩⟩
    · unfold StepTwoReady Session.coldWake at htr
      simpa [Session.lines, Session.coldWake, hts] using htr
    · simp [Session.coherent, hts]

theorem exitComplete_agree {s : State} (h : LinesAgree s) : LinesAgree (exitComplete s) := by
  unfold exitComplete
  dsimp only
  split
  · rename_i hw
    obtain ⟨hs, hp⟩ := h.2.2 hw
    exact wakeControllerLines_agree hs (h.stepTwoReady_of_memory hs hp) rfl
  · rename_i hw
    exact h.of_blocks rfl rfl (by simpa using hw)

theorem grantEngine_waitWake (a : EngineAccess) (s : State) : (grantEngine a s).port.waitWake = s.port.waitWake := by
  unfold grantEngine
  dsimp only
  (repeat' split) <;> simp [judgeHolds_waitEngine]

theorem grant_waitWake (s : State) : (grant s).port.waitWake = s.port.waitWake := by
  unfold grant grantPass
  (repeat' split) <;> simp [grantEngine_waitWake]

theorem wakeSample_agree (b : Nat) {s : State} (hs : s.session.state = .waking)
    (hl : (s.pins.pwrEn, s.pins.ctrlReset, s.pins.wake) = (true, false, false)) (hf : s.session.forcedRecovery = false)
    (hw : s.port.waitWake = false) : LinesAgree (wakeSample b s) := by
  obtain ⟨hc, hp, hq⟩ := wakeSample_awake b (awake_of_waking hs)
  have ks : (wakeSample b s).session.state = .waking := (congrArg Session.state hc).trans hs
  have kp : (wakeSample b s).session.phase = .status := congrArg Session.phase hc
  have kf : (wakeSample b s).session.forcedRecovery = false := (congrArg Session.forcedRecovery hc).trans hf
  refine ⟨?_, ?_, ?_⟩
  · rw [hp]; simpa [Session.lines, ks, kp] using hl
  · simpa [Session.coherent, ks, kp] using kf
  · rw [hq, hw]; intro hn; cases hn

/-- A session put to sleep has the lines and the marks of its kind. -/
theorem enterSleep_agree (kind : SleepKind) {s : State} (hk : kind = .off ∨ s.session.forcedRecovery = false)
    (hw : s.port.waitWake = false) : LinesAgree (enterSleep kind s) := by
  refine ⟨?_, ?_, by simp [hw]⟩
  · rw [enterSleep_session]
    by_cases hn : kind = .off <;> simp [enterSleep, asleepLines, asleepState, Session.lines, driveLines, hn]
  · rw [enterSleep_session]
    by_cases hn : kind = .off
    · simp [asleepState, Session.coherent, hn]
    · simpa [asleepState, Session.coherent, Session.coldWake, hn] using hk.resolve_left hn

theorem restartTimer_agree {s : State} (h : LinesAgree s) : LinesAgree (restartTimer s) := by
  unfold restartTimer
  split <;> exact h

theorem decideCommand_agree (q : BitVec 8) (r : Result) {s : State} (h : LinesAgree s) : LinesAgree (decideCommand q r s) := by
  unfold decideCommand
  dsimp only
  split
  · exact restartTimer_agree (s := requestStatus _) h
  · exact h

theorem decideLong_agree (r : Result) {s : State} (h : LinesAgree s) : LinesAgree (decideLong r s) := by
  unfold decideLong
  split
  · exact h
  · exact decideCommand_agree _ r (s := s.modCmd _) h

theorem keptByEvents_linesAgree : KeptByEvents LinesAgree where
  run _ _ _ _ _ h := h
  supply _ _ h := h
  board _ hp hc hw h := h.of_marks ⟨hp, hc, hw⟩ ⟨rfl, rfl, rfl, rfl⟩ rfl
  engine _ _ _ h := h
  status h := h
  marks _ hs hp hk hf _ _ h := h.of_marks ⟨rfl, rfl, rfl⟩ ⟨hs, hp, hk, hf⟩ rfl
  wake c l ha h := beginWake_agree c l ha h
  log _ _ h := h

theorem kept_linesAgree : Kept LinesAgree where
  toKeptByEvents := keptByEvents_linesAgree
  retires e o c m g _ h := keptByEvents_linesAgree.retire (fun _ _ h => h) e o c m g h
  path _ h := h
  config _ _ h := h
  clock _ _ h := h
  cmd _ _ h := h
  port _ _ _ hw _ h := h.of_blocks rfl rfl hw
  order o h := h.of_marks (by simp) (by simp) (requestOrder_access o _).2.1
  drop _ _ h := keptByEvents_linesAgree.loseLog h
  unmark h := h
  empties h := h
  serve _ _ _ _ _ _ _ h := h.of_blocks (by simp [serve]) (by simp [serve]) (by simp [serve, askForAccess])
  ends h := h
  next _ _ _ _ _ _ h := h.of_blocks (by simp) (by simp) (by simp [askForAccess])
  cache _ _ _ h := h
  fetch _ _ h := h
  fetched _ _ _ _ _ _ h := h
  walkEnds _ r _ _ _ h := decideLong_agree r h
  configured _ r _ _ _ h := decideLong_agree r h
  configures _ _ h := restartTimer_agree h
  loads _ _ _ _ h := restartTimer_agree h
  timer _ _ h := h
  sleeps _ ho h := by
    obtain ⟨hl, hc, hw⟩ := h
    refine ⟨?_, ?_, fun k => absurd (hw k).1 (by simp [ho])⟩
    · simpa [Session.lines, ho] using hl
    · simpa [Session.coherent, ho] using hc
  forced ho h := enterSleep_agree .off (.inl rfl) (h.noWaitWake fun k => by simp [ho] at k)
  closes hc h := enterSleep_agree _ (.inr (by simpa [Session.coherent, hc] using h.2.1)) (h.noWaitWake fun k => by simp [hc] at k)
  opens v hw h := by
    obtain ⟨hs, hp⟩ := (Session.wakeAt_iff _ _).1 hw
    have hf := h.2.1
    have hn := h.noWaitWake fun k => by simp [hp] at k
    simp only [Session.coherent, hs, hp] at hf
    exact ⟨by simp [openSession, driveLines, Session.lines], by simpa [openSession, Session.coherent] using hf, by simp [hn]⟩
  holdEnds b hw h := by
    obtain ⟨hs, hp⟩ := (Session.wakeAt_iff _ _).1 hw
    have hl := h.1
    simp only [Session.lines, hs, hp, Prod.mk.injEq] at hl
    exact wakeSample_agree b hs (by simp [hl]) rfl (h.noWaitWake fun k => by simp [hp] at k)
  pulseEnds b hw h := by
    obtain ⟨hs, hp⟩ := (Session.wakeAt_iff _ _).1 hw
    obtain ⟨hl, hc, -⟩ := id h
    simp only [Session.lines, hs, hp, Prod.mk.injEq] at hl
    simp only [Session.coherent, hs, hp, Session.coldWake, Bool.or_eq_false_iff] at hc
    exact wakeSample_agree b hs (by simp [hl]) hc.2 (h.noWaitWake fun k => by simp [hp] at k)
  exit h := exitComplete_agree h
  soft _ := ⟨rfl, rfl, fun hn => by cases hn⟩
  grant h := h.of_marks (by simp) (by simp) (grant_waitWake _)
  entry h := h
  memory _ _ h := h
  power _ _ := ⟨rfl, rfl, fun hn => by cases hn⟩

/-- Settles O57: each operation that moves the session drives the lines of the state it leaves. -/
theorem linesStayThoseOfTheSession : Obligations.LinesStayThoseOfTheSession :=
  fun _ _ h hs => kept_linesAgree.step (fun _ h => h) h hs

end Sys2Proof.Machine
end

section
/-! PROOFS. The limits of the engine's queue, counted by kind of request, through every step. -/

namespace Sys2Proof.Machine

/-- The kinds of request that the engine's queue limits apart (R161). -/
inductive RequestKind where
  | order | status | log | planFetch | configRead
deriving DecidableEq

/-- The kind of a request. -/
def Request.kind : Request → RequestKind
  | .order _ => .order
  | .status => .status
  | .log _ => .log
  | .planFetch _ _ => .planFetch
  | .configRead => .configRead

/-- The kinds of the requests in the queue, the one in service first. -/
def Engine.kinds (e : Engine) : List RequestKind := e.queued.map Request.kind

/-- The limit of each kind (R161). -/
def RequestKind.limit : RequestKind → Nat
  | .order => 2
  | .status => 1
  | .log => 3
  | .planFetch => 1
  | .configRead => 1

/-- The queue by kinds, with what its reads were asked for by (R36, R39, R161, R176). -/
structure QueueSound (l : List RequestKind) (fetch : Bool) (busy : Option (BitVec 8 × LongKind)) (walk : Bool) : Prop where
  within : ∀ k, l.count k ≤ k.limit
  fetch  : fetch = false → l.count .planFetch = 0
  config : (∀ seq, busy ≠ some (seq, .configure)) → l.count .configRead = 0
  walk   : walk = true → ∃ seq, busy = some (seq, .loadPlan)

/-- The queue of a state and what its reads were asked for by. -/
def EngineSound (s : State) : Prop := QueueSound s.engine.kinds s.cache.fetch.isSome s.cmd.busy s.cache.walk.isSome

/-- A filter for one kind of request counts that kind. -/
theorem length_filter_kind {p : Request → Bool} (k : RequestKind) (hp : ∀ r, p r = (r.kind == k)) (l : List Request) :
    (l.filter p).length = (l.map Request.kind).count k := by
  rw [← List.countP_eq_length_filter, List.count, List.countP_map, funext hp]
  rfl

theorem any_kind {p : Request → Bool} (k : RequestKind) (hp : ∀ r, p r = (r.kind == k)) (l : List Request) :
    l.any p = false ↔ (l.map Request.kind).count k = 0 := by
  rw [← length_filter_kind k hp]
  simp

theorem isStatus_kind (r : Request) : r.isStatus = (r.kind == .status) := by cases r <;> rfl
theorem isLog_kind (r : Request) : r.isLog = (r.kind == .log) := by cases r <;> rfl
theorem isFetch_kind (r : Request) : r.isFetch = (r.kind == .planFetch) := by cases r <;> rfl
theorem isConfigRead_kind (r : Request) : r.isConfigRead = (r.kind == .configRead) := by cases r <;> rfl
theorem isOrder_kind (r : Request) : r.orderContent?.isSome = (r.kind == .order) := by cases r <;> rfl

theorem length_filterMap_order (l : List Request) :
    (l.filterMap Request.orderContent?).length = (l.map Request.kind).count .order := by
  rw [List.length_filterMap_eq_countP, List.countP_eq_length_filter, length_filter_kind .order isOrder_kind]

/-- The five kinds make up the queue. -/
theorem length_eq_counts (l : List RequestKind) :
    l.length = l.count .order + l.count .status + l.count .log + l.count .planFetch + l.count .configRead := by
  induction l with
  | nil => rfl
  | cons k ks ih => cases k <;> simp [ih] <;> omega

theorem engineSound_iff (s : State) : EngineQueueLimits s ∧ ReadsAgree s ↔ EngineSound s := by
  unfold EngineQueueLimits ReadsAgree EngineSound
  rw [length_filterMap_order, length_filter_kind .status isStatus_kind, length_filter_kind .log isLog_kind,
    length_filter_kind .planFetch isFetch_kind, length_filter_kind .configRead isConfigRead_kind, any_kind .planFetch isFetch_kind,
    any_kind .configRead isConfigRead_kind]
  constructor
  · rintro ⟨⟨ho, hs, hl, hf, hc, -⟩, hfetch, hconfig, hwalk⟩
    exact ⟨fun k => by cases k <;> assumption, fun h => hfetch (by simpa using h), hconfig, hwalk⟩
  · rintro ⟨hw, hfetch, hconfig, hwalk⟩
    have ho := hw .order
    have hs := hw .status
    have hl := hw .log
    have hf := hw .planFetch
    have hc := hw .configRead
    have hlen := length_eq_counts s.engine.kinds
    simp only [RequestKind.limit, Engine.kinds, List.length_map] at *
    exact ⟨⟨ho, hs, hl, hf, hc, by omega⟩, fun h => hfetch (by simp [h]), hconfig, hwalk⟩

/-! ### The queue by kinds -/

variable {l m : List RequestKind} {f w : Bool} {b : Option (BitVec 8 × LongKind)}

/-- A queue whose kinds are among those of a sound one is sound. -/
theorem QueueSound.subperm (h : QueueSound l f b w) (hm : m.Subperm l) : QueueSound m f b w where
  within k := (hm.count_le k).trans (h.within k)
  fetch hf := Nat.le_zero.1 (h.fetch hf ▸ hm.count_le _)
  config hb := Nat.le_zero.1 (h.config hb ▸ hm.count_le _)
  walk := h.walk

/-- A request of another kind than the reads, below its limit, can enter. -/
theorem QueueSound.concat (h : QueueSound l f b w) {k : RequestKind} (hk : l.count k < k.limit) (hf : k ≠ .planFetch)
    (hc : k ≠ .configRead) : QueueSound (l ++ [k]) f b w where
  within j := by
    rw [List.count_append, List.count_singleton]
    split
    · rename_i hj; simp only [beq_iff_eq] at hj; subst hj; omega
    · simpa using h.within j
  fetch hn := by simp [h.fetch hn, hf]
  config hn := by simp [h.config hn, hc]
  walk := h.walk

/-! ### Requests entering and leaving the queue -/

theorem requestStatus_kinds (s : State) :
    (requestStatus s).engine.kinds = s.engine.kinds ∨
      (s.engine.kinds.count .status = 0 ∧ (requestStatus s).engine.kinds = s.engine.kinds ++ [.status]) := by
  unfold requestStatus Engine.kinds Engine.queued Engine.inService
  rw [State.modEngine_engine]
  cases hv : s.engine.service with
  | none =>
    by_cases hw : s.engine.waiting.any Request.isStatus = true
    · exact .inl (by simp [hw, hv])
    · have h0 := (any_kind .status isStatus_kind _).1 (Bool.eq_false_iff.2 hw)
      exact .inr ⟨by simpa using h0, by simp [hw, Request.kind]⟩
  | some sv =>
    by_cases hs : sv.request.isStatus = true
    · exact .inl (by simp [hs])
    · by_cases hw : s.engine.waiting.any Request.isStatus = true
      · exact .inl (by simp [hw, hv, hs])
      · have h0 := (any_kind .status isStatus_kind _).1 (Bool.eq_false_iff.2 hw)
        have h1 : sv.request.kind ≠ .status := by simpa [isStatus_kind] using hs
        refine .inr ⟨?_, by simp [hw, hs, Request.kind]⟩
        by_cases he : sv.ended = true <;> simp [he, h0, h1]

theorem replaceOrder_kinds (o : OrderContent) (l : List Request) : (replaceOrder o l).map Request.kind = l.map Request.kind := by
  induction l with
  | nil => rfl
  | cons r rs ih =>
    cases r with
    | order c =>
      simp only [replaceOrder]
      split
      · rfl
      · simp [ih]
    | _ => simp [replaceOrder, ih]

theorem earliestOrder_mem {next : Word} {l : List OrderContent} {c : OrderContent} (h : earliestOrder next l = some c) :
    c ∈ l := by
  have fold : ∀ (l : List OrderContent) (a : OrderContent), l.foldl (earlierOrder next) a = a ∨
      l.foldl (earlierOrder next) a ∈ l := by
    intro l
    induction l with
    | nil => exact fun a => .inl rfl
    | cons x xs ih =>
      intro a
      have hx : earlierOrder next a x = a ∨ earlierOrder next a x = x := by unfold earlierOrder; split <;> simp
      rw [List.foldl_cons, List.mem_cons]
      rcases ih (earlierOrder next a x) with k | k
      · rw [k]; exact hx.imp id .inl
      · exact .inr (.inr k)
  cases l with
  | nil => cases h
  | cons a as =>
    cases h
    exact List.mem_cons.2 (fold as a)

theorem mem_filterMap_order {l : List Request} {c : OrderContent} (h : c ∈ l.filterMap Request.orderContent?) :
    Request.order c ∈ l := by
  obtain ⟨r, hr, hc⟩ := List.mem_filterMap.1 h
  cases r <;> cases hc
  exact hr

/-- With an ORDER_WRITE in the queue, one is found that gives up its place. -/
theorem orderToEvict_some {s : State} (h : s.engine.queued.filterMap Request.orderContent? ≠ []) :
    ∃ c, orderToEvict s = some c ∧ Request.order c ∈ s.engine.queued := by
  unfold orderToEvict
  dsimp only
  split
  · rename_i c hc
    exact ⟨c, rfl, mem_filterMap_order (List.mem_filter.1 (earliestOrder_mem hc)).1⟩
  · obtain ⟨a, as, ha⟩ := List.exists_cons_of_ne_nil h
    rw [ha]
    refine ⟨_, rfl, mem_filterMap_order ?_⟩
    rw [ha]
    exact earliestOrder_mem (l := a :: as) rfl

theorem endOrderService_kinds {s : State} {r : Request} (h : s.engine.inService = some r) :
    s.engine.kinds = r.kind :: (endOrderService s).engine.kinds := by
  unfold Engine.inService at h
  cases hv : s.engine.service with
  | none => simp [hv] at h
  | some sv =>
    rw [hv] at h
    by_cases he : sv.ended = true
    · simp [he] at h
    · simp only [he] at h
      cases h
      have hk : (endOrderService s).engine.kinds = s.engine.waiting.map Request.kind := by
        unfold endOrderService
        rw [hv]
        dsimp only
        split <;> simp [Engine.kinds, Engine.queued, Engine.inService]
      rw [hk]
      simp [Engine.kinds, Engine.queued, Engine.inService, hv, he]

theorem evictOrder_kinds {s : State} (h : s.engine.queued.filterMap Request.orderContent? ≠ []) :
    s.engine.kinds.Perm (.order :: (evictOrder s).engine.kinds) := by
  obtain ⟨c, hc, hm⟩ := orderToEvict_some h
  unfold evictOrder
  rw [hc]
  dsimp only
  split
  · rename_i hs
    exact .of_eq (endOrderService_kinds hs)
  · rename_i hs
    have hw : Request.order c ∈ s.engine.waiting := by
      unfold Engine.queued at hm
      rcases List.mem_append.1 hm with k | k
      · exact absurd (by simpa using k) hs
      · exact k
    have hp := ((List.perm_cons_erase hw).map Request.kind).append_left (s.engine.inService.toList.map Request.kind)
    simp only [Engine.kinds, Engine.queued, State.modEngine_engine, List.map_append]
    exact hp.trans List.perm_middle

theorem concat_order_kinds (o : OrderContent) (s : State) :
    (s.modEngine fun e => { e with waiting := e.waiting ++ [.order o] }).engine.kinds = s.engine.kinds ++ [.order] := by
  simp [Engine.kinds, Engine.queued, Engine.inService, Request.kind]

/-- An ORDER_WRITE requested replaces one or takes the place of one, or enters where fewer than two stand (R162). -/
theorem requestOrder_kinds (o : OrderContent) (s : State) :
    (requestOrder o s).engine.kinds.Perm s.engine.kinds ∨
      (s.engine.kinds.count .order < 2 ∧ (requestOrder o s).engine.kinds = s.engine.kinds ++ [.order]) := by
  unfold requestOrder
  split
  · left
    simp only [Engine.kinds, Engine.queued, Engine.inService, State.modEngine_engine, List.map_append, replaceOrder_kinds]
    exact .refl _
  · dsimp only
    rw [concat_order_kinds]
    split
    · rename_i hl
      rw [length_filterMap_order] at hl
      exact .inr ⟨hl, rfl⟩
    · rename_i hl
      have hn : s.engine.queued.filterMap Request.orderContent? ≠ [] := fun k => hl (by simp [k])
      exact .inl ((List.perm_append_singleton _ _).trans (evictOrder_kinds hn).symm)

/-! ### The invariant -/

theorem EngineSound.of_blocks {a b : State} (h : EngineSound a) (he : b.engine.queued = a.engine.queued)
    (hc : b.cache.fetch.isSome = a.cache.fetch.isSome ∧ b.cache.walk.isSome = a.cache.walk.isSome)
    (hb : b.cmd.busy = a.cmd.busy) : EngineSound b := by
  unfold EngineSound Engine.kinds at *
  rwa [he, hc.1, hc.2, hb]

theorem requestStatus_sound {s : State} (h : EngineSound s) : EngineSound (requestStatus s) := by
  unfold EngineSound at *
  rw [(requestStatus_frame s).2.2.2.2.2.2.2.2.1, (requestStatus_frame s).2.2.2.2.2.2.2.2.2.2.2.1]
  rcases requestStatus_kinds s with k | ⟨hn, k⟩ <;> rw [k]
  · exact h
  · exact h.concat (by simp [hn, RequestKind.limit]) (by simp) (by simp)

theorem requestOrder_sound (o : OrderContent) {s : State} (h : EngineSound s) : EngineSound (requestOrder o s) := by
  unfold EngineSound at *
  rw [(requestOrder_frame o s).2.2.2.2.2.2.2.2.1, (requestOrder_frame o s).2.2.2.2.2.2.2.2.2.1]
  rcases requestOrder_kinds o s with k | ⟨hn, k⟩
  · exact h.subperm k.subperm
  · rw [k]; exact h.concat hn (by simp) (by simp)

/-- A service ended leaves the requests that wait. -/
theorem kinds_without_service (s : State) :
    (s.modEngine fun e => { e with service := none }).engine.kinds.Subperm s.engine.kinds := by
  simp only [Engine.kinds, Engine.queued, Engine.inService, State.modEngine_engine, List.map_append]
  exact (List.sublist_append_right _ _).subperm

/-- The service that ends is the first of the queue. -/
theorem kinds_of_service {s : State} {sv : Service} (hv : s.engine.service = some sv) (he : sv.ended = false) :
    s.engine.kinds = sv.request.kind :: (s.modEngine fun e => { e with service := none }).engine.kinds := by
  simp [Engine.kinds, Engine.queued, Engine.inService, hv, he]

theorem decideCommand_sound (q : BitVec 8) (r : Result) {s : State} (h : EngineSound s) : EngineSound (decideCommand q r s) := by
  have h0 : EngineSound (requestStatus (s.modCmd fun c => { c with lastDecided := some (q, r) })) :=
    requestStatus_sound (s := s.modCmd _) h
  unfold decideCommand
  dsimp only
  split
  · exact h0.of_blocks (by simp) (by simp) (by simp)
  · exact h0

/-- A long command is decided where no CONFIG_READ stands and no load walk. -/
theorem decideLong_sound (r : Result) {s : State} (h : EngineSound s) (hn : s.engine.kinds.count .configRead = 0)
    (hw : s.cache.walk.isSome = false) : EngineSound (decideLong r s) := by
  unfold decideLong
  split
  · exact h
  · exact decideCommand_sound _ r (s := s.modCmd _)
      ⟨h.within, h.fetch, fun _ => hn, fun k => absurd (k : s.cache.walk.isSome = true) (by simp [hw])⟩

theorem acceptLong_sound (q : BitVec 8) (k : LongKind) {s : State} (h : EngineSound (s.modCmd fun c => { c with busy := some (q, k) })) :
    EngineSound (acceptLong q k s) :=
  (requestStatus_sound h).of_blocks (by simp [acceptLong]) (by simp) (by simp [acceptLong])

/-- A PLAN_FETCH enters where none is in flight. -/
theorem requestFetch_sound (n : Nat) {s : State} (hf : s.cache.fetch = none) (h : EngineSound s) : EngineSound (requestFetch n s) := by
  have hk : (requestFetch n s).engine.kinds = s.engine.kinds ++ [.planFetch] := by
    simp [requestFetch, Engine.kinds, Engine.queued, Engine.inService, Request.kind]
  have h0 := h.fetch (by simp [hf])
  unfold EngineSound
  rw [hk]
  refine ⟨fun k => ?_, fun k => by simp [requestFetch] at k, fun hb => ?_, fun hw => h.walk hw⟩
  · have := h.within k
    rw [List.count_append]
    cases k <;> simp_all [RequestKind.limit]
  · simpa using h.config hb

theorem configures_sound (q : BitVec 8) {s : State} (hb : s.cmd.busy = none) (h : EngineSound s) :
    EngineSound ((acceptLong q .configure s).modEngine fun e => { e with waiting := e.waiting ++ [.configRead] }) := by
  have hw : s.cache.walk.isSome = false := by
    refine Bool.eq_false_iff.2 fun k => ?_
    obtain ⟨seq, k⟩ := h.walk k
    simp [hb] at k
  have hr : s.engine.kinds.count .configRead = 0 := h.config (by simp [hb])
  have h0 : EngineSound (acceptLong q .configure s) :=
    acceptLong_sound q .configure ⟨h.within, h.fetch, fun _ => hr, fun k => absurd (k : s.cache.walk.isSome = true) (by simp [hw])⟩
  have hr0 : (acceptLong q .configure s).engine.kinds.count .configRead = 0 := by
    have he : (acceptLong q .configure s).engine = (requestStatus (s.modCmd fun c => { c with busy := some (q, .configure) })).engine := by
      simp [acceptLong]
    rw [he]
    rcases requestStatus_kinds (s.modCmd fun c => { c with busy := some (q, .configure) }) with k | ⟨-, k⟩ <;> rw [k]
    · exact hr
    · simpa using hr
  have hbusy : (acceptLong q .configure s).cmd.busy = some (q, .configure) := by simp [acceptLong]
  have hk : ((acceptLong q .configure s).modEngine fun e => { e with waiting := e.waiting ++ [.configRead] }).engine.kinds =
      (acceptLong q .configure s).engine.kinds ++ [.configRead] := by
    simp [Engine.kinds, Engine.queued, Engine.inService, Request.kind]
  unfold EngineSound at h0 ⊢
  rw [hk]
  refine ⟨fun k => ?_, fun k => by simpa using h0.fetch k, fun k => absurd hbusy (k q), h0.walk⟩
  have := h0.within k
  rw [List.count_append]
  cases k <;> simp_all [RequestKind.limit]

theorem serve_kinds {s : State} {r : Request} (todo : List EngineAccess) (b : Bool) (v : BitVec 8) (hn : s.engine.service = none)
    (hr : r ∈ s.engine.waiting) :
    (serve r todo b v (s.modEngine fun e => { e with waiting := e.waiting.erase r })).engine.kinds.Perm s.engine.kinds := by
  have he : (serve r todo b v (s.modEngine fun e => { e with waiting := e.waiting.erase r })).engine.queued =
      r :: s.engine.waiting.erase r := by
    simp [serve, Engine.queued, Engine.inService]
  have hq : s.engine.queued = s.engine.waiting := by simp [Engine.queued, Engine.inService, hn]
  unfold Engine.kinds
  rw [he, hq]
  exact ((List.perm_cons_erase hr).map Request.kind).symm

theorem keptByEvents_engineSound : KeptByEvents EngineSound where
  run _ _ _ _ _ h := h
  supply _ _ h := h
  board _ _ _ _ h := h
  engine _ he _ h := h.of_blocks he ⟨rfl, rfl⟩ rfl
  status h := requestStatus_sound h
  marks _ _ _ _ _ _ _ h := h
  wake c l _ h := requestStatus_sound (h.of_blocks (by simp) (by simp) (by simp))
  log := fun {s} l hl h => by
    rw [length_filter_kind .log isLog_kind] at hl
    have hk : (s.modEngine fun e => { e with waiting := e.waiting ++ [.log l] }).engine.kinds = s.engine.kinds ++ [.log] := by
      simp [Engine.kinds, Engine.queued, Engine.inService, Request.kind]
    unfold EngineSound
    rw [hk]
    exact QueueSound.concat h hl (by simp) (by simp)

theorem kept_engineSound : Kept EngineSound where
  toKeptByEvents := keptByEvents_engineSound
  retires e o c m g _ h := keptByEvents_engineSound.retire (fun _ _ h => h) e o c m g h
  path _ h := h
  config _ _ h := h
  clock _ _ h := h
  cmd _ hb h := h.of_blocks rfl ⟨rfl, rfl⟩ hb
  port _ _ _ _ _ h := h
  order o h := requestOrder_sound o h
  drop _ _ h := keptByEvents_engineSound.loseLog (QueueSound.subperm h (((List.erase_sublist).append_left _).map _).subperm)
  unmark h := h
  empties h := h
  serve _ todo b v hn hr _ h := by
    have h0 := QueueSound.subperm h (serve_kinds todo b v hn hr).subperm
    unfold EngineSound
    simpa [serve] using h0
  ends h := QueueSound.subperm h (kinds_without_service _)
  next sv _ _ _ hv he h := h.of_blocks (by simp [Engine.queued, Engine.inService, hv, he]) (by simp) (by simp)
  cache _ hf hw h := h.of_blocks rfl ⟨hf, hw⟩ rfl
  fetch n hf h := requestFetch_sound n hf h
  fetched sv n a hv he hr h := by
    have hk := kinds_of_service hv he
    have hf := h.within .planFetch
    rw [hk, hr] at hf
    have h0 := QueueSound.subperm h (kinds_without_service _)
    exact ⟨h0.within, fun _ => by simpa [RequestKind.limit, Request.kind] using hf, h0.config, h0.walk⟩
  walkEnds := fun {s} c r hw hf hc h => by
    obtain ⟨seq, hb⟩ := h.walk hw
    have hr := h.config (by simp [hb])
    refine decideLong_sound r (s := { s with cache := c }) ⟨h.within, fun k => h.fetch (hf ▸ k), fun _ => hr, fun k => ?_⟩ hr
      (by simp [hc])
    simp [hc] at k
  configured sv r hv he hr h := by
    have hk := kinds_of_service hv he
    have hc := h.within .configRead
    rw [hk, hr] at hc
    have h0 := QueueSound.subperm h (kinds_without_service _)
    refine decideLong_sound r h0 (by simpa [RequestKind.limit, Request.kind] using hc) ?_
    refine Bool.eq_false_iff.2 fun hw => ?_
    obtain ⟨seq, hb⟩ := h.walk hw
    have hn := h.config (by simp [hb])
    rw [hk, hr] at hn
    simp [Request.kind] at hn
  configures q hb h := configures_sound q hb h
  loads := fun {s} c q hb hf h => by
    have hr := h.config (by simp [hb])
    exact acceptLong_sound q .loadPlan (s := { s with cache := c })
      ⟨h.within, fun k => h.fetch (hf ▸ k), fun _ => hr, fun _ => ⟨q, rfl⟩⟩
  timer _ _ h := h
  sleeps _ _ h := h
  forced _ h := h.of_blocks (by simp) (by simp) (by simp)
  closes _ h := h.of_blocks (by simp) (by simp) (by simp)
  opens _ _ h := requestStatus_sound h
  holdEnds b _ h := requestStatus_sound
    ((keptByEvents_engineSound.sampleSupply b (s := State.modSession _ (State.modPins _ _)) h).of_blocks rfl ⟨rfl, rfl⟩ rfl)
  pulseEnds b _ h := requestStatus_sound
    ((keptByEvents_engineSound.sampleSupply b (s := State.modPins _ _) h).of_blocks rfl ⟨rfl, rfl⟩ rfl)
  exit h := h.of_blocks (by simp) (by simp) (by simp)
  soft _ := ⟨fun k => Nat.zero_le _, fun _ => rfl, fun _ => rfl, fun k => by cases k⟩
  grant h := h.of_blocks (by simp) (by simp) (by simp)
  entry h := h
  memory _ _ h := h
  power _ _ := ⟨fun k => Nat.zero_le _, fun _ => rfl, fun _ => rfl, fun k => by cases k⟩

/-- Settles O59: counted by kind, a request enters below its limit or in another's place, and a read leaves with what asked for it. -/
theorem engineQueueStaysWithinLimits : Obligations.EngineQueueStaysWithinLimits :=
  fun s t h hs => (engineSound_iff t).2 (kept_engineSound.step (fun _ h => h) ((engineSound_iff s).1 h) hs)

end Sys2Proof.Machine
end

section
/-! PROOFS. The order book through every step. -/

namespace Sys2Proof.Machine

theorem balanced_of_reset {s : State} (hs : s.sched = .reset) (hc : s.config = .default) : OrderBookBalances s := by
  unfold OrderBookBalances
  rw [hs, hc]
  exact ⟨fun k => (by cases k), fun k => (by cases k), fun _ => ⟨rfl, rfl⟩, Nat.zero_le 2, fun _ k => (by cases k)⟩

theorem keptByEvents_orderBookBalances : KeptByEvents OrderBookBalances where
  run _ _ _ _ hb h := hb h
  supply _ _ h := h
  board _ _ _ _ h := h
  engine _ _ _ h := h
  status h := h
  marks _ _ _ _ _ _ _ h := h
  wake _ _ _ h := h.of_run (by simp) (by simp)
  log _ _ h := h

theorem wakeSample_balances (b : Nat) {s : State} (h : OrderBookBalances s) : OrderBookBalances (wakeSample b s) :=
  (keptByEvents_orderBookBalances.sampleSupply b h).of_run (by simp [wakeSample]) (by simp)

theorem kept_orderBookBalances : Kept OrderBookBalances where
  toKeptByEvents := keptByEvents_orderBookBalances
  retires _ o c m g he h := retire_balances he o c m g h
  path _ h := h
  config _ hb h := hb h
  clock _ _ h := h
  cmd _ _ h := h
  port _ _ _ _ _ h := h
  order _ h := h.of_run (by simp) (by simp)
  drop _ _ h := keptByEvents_orderBookBalances.loseLog h
  unmark h := h
  empties h := h
  serve _ _ _ _ _ _ _ h := h.of_run (by simp [serve]) (by simp [serve])
  ends h := h
  next _ _ _ _ _ _ h := h.of_run (by simp) (by simp)
  cache _ _ _ h := h
  fetch _ _ h := h
  fetched _ _ _ _ _ _ h := h
  walkEnds _ _ _ _ _ h := h.of_run (by simp) (by simp)
  configured _ _ _ _ _ h := h.of_run (by simp) (by simp)
  configures _ _ h := h.of_run (by simp) (by simp)
  loads _ _ _ _ h := h.of_run (by simp) (by simp)
  timer _ _ h := h
  sleeps _ _ h := h
  forced _ h := h.of_run (by simp) (by simp)
  closes _ h := h.of_run (by simp) (by simp)
  opens _ _ h := h.of_run (by simp) (by simp)
  holdEnds b _ h := wakeSample_balances b h
  pulseEnds b _ h := wakeSample_balances b h
  exit h := h.of_run (by simp) (by simp)
  soft _ := balanced_of_reset rfl rfl
  grant h := h.of_run (by simp) (by simp)
  entry h := h
  memory _ _ h := h
  power _ _ := balanced_of_reset rfl rfl

/-- Settles O58: a retirement trades an order held for one owed, and an issue back; suspension, resumption, START and STOP set both. -/
theorem orderBookStaysBalanced : Obligations.OrderBookStaysBalanced :=
  fun _ _ h hs => kept_orderBookBalances.step (fun _ h => h) h hs

end Sys2Proof.Machine
end

section
/-! PROOFS. What every command leaves of the command queue and of the port, and the step on an empty queue. -/

namespace Sys2Proof.Machine

/-! ### The command queue -/

theorem endEngineAccess_pending (s : State) : (endEngineAccess s).pending = s.pending := (endEngineAccess_blocks s).2.2.2

theorem keptByEvents_pending (q : List Instr) : KeptByEvents fun s => s.pending = q where
  run _ _ _ _ _ h := h
  supply _ _ h := h
  board _ _ _ _ h := h
  engine _ _ _ h := h
  status h := h
  marks _ _ _ _ _ _ _ h := h
  wake _ _ _ h := by simpa using h
  log _ _ h := h

/-- No row's effect reaches into the command queue. -/
theorem kept_pending (q : List Instr) : Kept fun s => s.pending = q where
  toKeptByEvents := keptByEvents_pending q
  retires e o c m g _ h := (keptByEvents_pending q).retire (fun _ _ h => h) e o c m g h
  path _ h := h
  config _ _ h := h
  clock _ _ h := h
  cmd _ _ h := h
  port _ _ _ _ _ h := h
  order _ h := by simpa using h
  drop _ _ h := (keptByEvents_pending q).loseLog h
  unmark h := h
  empties h := h
  serve _ _ _ _ _ _ _ h := by simpa [serve] using h
  ends h := h
  next _ _ _ _ _ _ h := by simpa using h
  cache _ _ _ h := h
  fetch _ _ h := h
  fetched _ _ _ _ _ _ h := h
  walkEnds _ _ _ _ _ h := by simpa using h
  configured _ _ _ _ _ h := by simpa using h
  configures _ _ h := by simpa using h
  loads _ _ _ _ h := by simpa using h
  timer _ _ h := h
  sleeps _ _ h := h
  forced _ h := by simpa using h
  closes _ h := by simpa using h
  opens _ _ h := by simpa using h
  holdEnds _ _ h := by simpa using h
  pulseEnds _ _ h := by simpa using h
  exit h := by simpa using h
  soft h := (endEngineAccess_pending _).trans h
  grant h := by simpa using h
  entry h := h
  memory _ _ h := h
  power _ h := h

/-! ### The port's conditions after a command (R151, R153, R156) -/

/-- A grant made leaves an access in progress. -/
theorem grantEngine_access (a : EngineAccess) (s : State) : (grantEngine a s).port.access = .engine a := by
  unfold grantEngine
  dsimp only
  (repeat' split) <;> simp [judgeHolds_waitEngine]

/-- After the grant an ACTIVE port without an access has no request that it could grant. -/
theorem grant_granted {s : State} (hr : (grant s).port.retention = .active) (ha : (grant s).port.access = .noAccess) :
    (grant s).port.waitPass = none ∧ (grant s).port.waitEngine = none := by
  unfold grant at *
  split at ha
  · split at ha
    · split at ha
      · simp [grantPass] at ha
      · simp [grantEngine_access] at ha
    · simp [grantPass] at ha
    · simp [grantEngine_access] at ha
    · rename_i hp he
      split <;> simp [hp, he]
  · rename_i hn
    rw [if_neg hn] at hr
    exact absurd ⟨hr, ha⟩ hn

theorem grantEngine_retention (a : EngineAccess) (s : State) : (grantEngine a s).port.retention = s.port.retention := by
  unfold grantEngine
  dsimp only
  (repeat' split) <;> simp [judgeHolds_waitEngine]

theorem grant_retention (s : State) : (grant s).port.retention = s.port.retention := by
  unfold grant grantPass
  (repeat' split) <;> simp [grantEngine_retention]

theorem grant_of_inactive {s : State} (h : s.port.retention ≠ .active) : grant s = s := by simp [grant, h]

/-- A port left RETAINED has no request of any kind. -/
theorem beginExit_retained {s : State} (h : (beginExit s).port.retention = .retained) :
    (beginExit s).port.anyWaiting = false := by
  unfold beginExit at *
  split at h
  · simp at h
  · rename_i hn
    rw [if_neg hn]
    exact Bool.eq_false_iff.2 fun hw => hn ⟨h, hw⟩

/-- A port left ACTIVE has not met the conditions of entry (R151). -/
theorem beginEntry_active {s : State} (h : (beginEntry s).port.retention = .active) : beginEntry s = s ∧ mayEnter s = false := by
  unfold beginEntry at *
  split at h
  · simp at h
  · rename_i hn
    exact ⟨if_neg hn, by simpa using hn⟩

theorem beginEntry_waiting (s : State) :
    (beginEntry s).port.retention ≠ .entering → beginEntry s = s := by
  unfold beginEntry
  split
  · simp
  · exact fun _ => rfl

theorem portSettle_active {s : State} (h : (portSettle s).port.retention = .active) :
    mayEnter (portSettle s) = false ∧
      ((portSettle s).port.access = .noAccess → (portSettle s).port.waitPass = none ∧ (portSettle s).port.waitEngine = none) := by
  obtain ⟨he, hm⟩ := beginEntry_active h
  have hp : portSettle s = grant (beginExit s) := he
  rw [hp] at h ⊢
  exact ⟨hm, grant_granted h⟩

theorem portSettle_retained {s : State} (h : (portSettle s).port.retention = .retained) :
    (portSettle s).port.anyWaiting = false := by
  have he : portSettle s = grant (beginExit s) := beginEntry_waiting _ (by rw [portSettle] at h; simp [h])
  rw [he, grant_retention] at h
  rw [he, grant_of_inactive (by simp [h])]
  exact beginExit_retained h

/-- A session that may retain, on a port left ACTIVE, has something that keeps it so. -/
theorem busy_of_not_mayEnter {s : State} (hm : mayEnter s = false) (hr : s.port.retention = .active)
    (hs : s.session.state = .closing ∨ s.session.state = .asleepOff ∨ s.session.state = .asleepStandby) :
    s.engine.waiting ≠ [] ∨ s.engine.service ≠ none ∨ s.path.held ≠ none ∨ s.port.waitPass ≠ none ∨ s.port.access ≠ .noAccess := by
  have hk : s.session.mayRetain = true := by
    unfold Session.mayRetain
    rcases hs with hs | hs | hs <;> rw [hs]
  by_contra hn
  push Not at hn
  obtain ⟨h1, h2, h3, h4, h5⟩ := hn
  simp [mayEnter, hr, hk, h1, h2, h3, h4, h5] at hm

/-- Settles O2: every row is an effect and `finish`, which ends by the port's judgement. -/
theorem everyCommandCompletes : Obligations.EveryCommandCompletes := by
  intro c s
  refine ⟨_, exec_eq c s, (kept_pending s.pending).finish ((kept_pending s.pending).rowEffect c rfl), ?_⟩
  rw [finish]
  generalize settle (rowEffect c s) = u
  refine ⟨fun ha hs => busy_of_not_mayEnter (portSettle_active ha).1 ha hs, fun ha => (portSettle_active ha).2, fun hr => ?_⟩
  simpa [Port.anyWaiting, and_assoc] using portSettle_retained hr

/-! ### A step with no command waiting -/

theorem timerDue_iff (now : Elapsed) (timer : Option Elapsed) :
    timerDue now timer = true ↔ ∃ x, timer = some x ∧ (now - x).toNat < 2 ^ 47 := by
  cases timer <;> simp [timerDue, expired]

theorem firstDueEntry_isSome (s : State) :
    (firstDueEntry s).isSome = true ↔ ∃ e ∈ s.sched.queue, e.triggered = false ∧ e.due.toNat ≤ s.tb.time.toNat := by
  simp [firstDueEntry, List.find?_isSome, Entry.isDue, notLater]

theorem deadlineReached_iff (e : Entry) (now : Time) :
    e.deadlineReached now = true ↔ e.triggered = true ∧ ∃ d, e.deadline = some d ∧ d.toNat ≤ now.toNat := by
  cases h : e.deadline <;> simp [Entry.deadlineReached, h, notLater]

theorem firstAtDeadline_isSome (s : State) :
    (firstAtDeadline s).isSome = true ↔
      ∃ e ∈ s.sched.queue, e.triggered = true ∧ ∃ d, e.deadline = some d ∧ d.toNat ≤ s.tb.time.toNat := by
  simp [firstAtDeadline, List.find?_isSome, deadlineReached_iff]

theorem silent_iff (y : TimeBase) : y.silent = true ↔ y.source = .crystal ∧ y.crystalRunning = false := by
  simp [TimeBase.silent]

theorem sessionExpired_iff (s : State) :
    sessionExpired s = true ↔ s.session.state = .open ∧ ∃ x, s.session.timer = some x ∧ (s.tb.elapsed - x).toNat < 2 ^ 47 := by
  simp [sessionExpired, timerDue_iff]

theorem wakeControllerLines_modStats (f : Intake → Intake) (s : State) :
    wakeControllerLines (s.modStats f) = (wakeControllerLines s).modStats f := by
  unfold wakeControllerLines
  rw [State.modStats_session]
  split <;> rfl

theorem beginWake_modStats (c : WakeCause) (l : Bool) (f : Intake → Intake) (s : State) :
    beginWake c l (s.modStats f) = (beginWake c l s).modStats f := by
  have h : ∀ t : State, askPortForWake (t.modStats f) = (askPortForWake t).modStats f := by
    intro t
    unfold askPortForWake
    rw [State.modStats_port]
    split
    · exact wakeControllerLines_modStats f t
    · rfl
  unfold beginWake
  exact (congrArg requestStatus (h (s.modSession fun x =>
    { x with state := .waking, cause := if x.forcedRecovery then .forcedRecovery else c, late := l }))).trans rfl

/-- The record freed and a wake begun touch different blocks. -/
theorem freeBuffer_beginWake (c : WakeCause) (l : Bool) (s : State) :
    freeBuffer (beginWake c l s) = beginWake c l (freeBuffer s) := by
  have hs : (beginWake c l s).sched = s.sched := by simp
  unfold freeBuffer
  rw [hs]
  split
  · exact (beginWake_modStats c l _ s).symm
  · rfl

theorem SameRun.of_eq {a b : State} (hs : b.sched = a.sched) (hg : b.seg = a.seg) (hx : b.expo = a.expo) : SameRun a b :=
  ⟨hs, hg, hx⟩

/-- With nothing to issue or fetch, a wake condition that holds of a sleeping session begins its wake whether its row runs or not. -/
theorem finish_wakeBegun {c : WakeCause} {l : Bool} {s : State} (hi : NoIssue s) (hf : NoFetch s)
    (hw : judgeWakes (freeBuffer s) = beginWake c l (freeBuffer s)) : finish s = finish (beginWake c l s) := by
  have hrun : SameRun s (beginWake c l s) := .of_eq (by simp) (by simp) (by simp)
  have hcache : (beginWake c l s).cache = s.cache := by simp
  have hfree : ∀ x : State, SameRun x (freeBuffer x) := fun x => .of_eq (by simp) (by simp) (by simp)
  have hwaking : (beginWake c l (freeBuffer s)).session.asleep = false := awake_of_waking (beginWake_session c l _).1
  rw [finish_of_noIssue hi, finish_of_noIssue (hi.congr hrun hcache), cacheSettle_of_noFetch (hf.congr (hfree s) (by simp)),
    cacheSettle_of_noFetch ((hf.congr hrun hcache).congr (hfree _) (by simp)), hw, freeBuffer_beginWake, judgeWakes_of_awake hwaking]

theorem finish_beginWake_state (c : WakeCause) (l : Bool) (s : State) : (finish (beginWake c l s)).session.state = .waking := by
  have hs := (beginWake_session c l s).1
  exact (state_of_course (finish_awake (awake_of_waking hs)).course).trans hs

theorem scheduledDue_of_capturing {s : State} {e : Entry} (hc : s.sched.runState.capturing = true)
    (he : (s.sched.queue.find? fun x => !x.triggered) = some e) : scheduledDue s = some e.due := by
  simp [scheduledDue, hc, firstIssued, he]

theorem judgeWakes_freeBuffer_scheduled {s : State} (ha : s.session.asleep = true) (hs : s.supply.state ≠ .critical)
    (hr : scheduledReached s = true) :
    judgeWakes (freeBuffer s) = beginWake .scheduled (scheduledLate s) (freeBuffer s) ∧
      judgeScheduled s = beginWake .scheduled (scheduledLate s) s := by
  have h1 : scheduledReached (freeBuffer s) = true :=
    (reached_congr (a := s) (by simp) (by simp) (by simp) (by simp)).1.trans hr
  have h2 : scheduledLate (freeBuffer s) = scheduledLate s := by
    unfold scheduledLate scheduledDue wakeLeadTicks
    rw [(by simp : (freeBuffer s).sched = s.sched), (by simp : (freeBuffer s).tb = s.tb),
      (by simp : (freeBuffer s).config = s.config)]
  rw [judgeWakes_asleep (by simpa using ha) (by simpa using hs), if_pos h1, h2]
  exact ⟨rfl, if_pos ⟨ha, hs, hr⟩⟩

theorem judgeWakes_freeBuffer_idle {s : State} (ha : s.session.asleep = true) (hs : s.supply.state ≠ .critical)
    (hn : scheduledReached s = false) (hr : idleReached s = true) :
    judgeWakes (freeBuffer s) = beginWake .idle false (freeBuffer s) ∧ judgeIdle s = beginWake .idle false s := by
  obtain ⟨h1, h2⟩ := reached_congr (a := s) (b := freeBuffer s) (by simp) (by simp) (by simp) (by simp)
  rw [judgeWakes_asleep (by simpa using ha) (by simpa using hs), if_neg (by simp [h1, hn]), if_pos (h2.trans hr)]
  exact ⟨rfl, if_pos ⟨ha, hs, hr⟩⟩

/-- Settles O3: each test of `dueEvent` in its order, and the tick with the wake it brings. -/
theorem idleStepIsOneTick : Obligations.IdleStepIsOneTick := by
  intro s hp
  have hstep : step s = .next (idle s) := by unfold step; rw [hp]
  refine ⟨fun hr => by rw [hstep, idle, if_pos hr], fun hr => ?_⟩
  have hidle : idle s = match dueEvent s with | some f => finish (f s) | none => tick s := by
    unfold idle; rw [hr]; rfl
  rw [hstep, hidle]
  dsimp only
  rw [← silent_iff, ← firstDueEntry_isSome, ← firstAtDeadline_isSome, ← sessionExpired_iff, ← timerDue_iff, ← timerDue_iff]
  unfold dueEvent
  refine ⟨fun h1 => ?_, fun h1 h2 => ?_, fun h1 h2 h3 => ?_, fun h1 h2 h3 h4 => ?_, fun h1 h2 h3 h4 h5 => ?_,
    fun h1 h2 h3 h4 h5 h6 => ?_, fun h1 h2 h3 h4 h5 h6 => ?_⟩
  · rw [if_pos h1, exec_eq]; simp [rowEffect, outsideReset, hr]
  · rw [if_neg h1, if_pos h2, exec_eq]; rfl
  · rw [if_neg h1, if_neg h2, if_pos h3, exec_eq]; rfl
  · rw [if_neg h1, if_neg h2, if_neg h3, if_pos h4, exec_eq]; simp [rowEffect, guarded, h4]
  · rw [if_neg h1, if_neg h2, if_neg h3, if_neg h4, if_pos h5, exec_eq]; simp [rowEffect, guarded, h5]
  · rw [if_neg h1, if_neg h2, if_neg h3, if_neg h4, if_neg h5, if_pos h6, exec_eq]; simp [rowEffect, guarded, h6]
  · rw [if_neg h1, if_neg h2, if_neg h3, if_neg h4, if_neg h5, if_neg h6]
    refine ⟨⟨_, rfl, finish_follows _⟩, fun ha hs hi hf => ?_⟩
    have hi' : NoIssue (s.modTb TimeBase.ticked) := hi.congr (.of_eq rfl rfl rfl) rfl
    have hf' : NoFetch (s.modTb TimeBase.ticked) := hf.congr (.of_eq rfl rfl rfl) rfl
    have wakes : ∀ {c l} {f : State → State} (i : Instr), rowEffect i (s.modTb TimeBase.ticked) = f (s.modTb TimeBase.ticked) →
        judgeWakes (freeBuffer (s.modTb TimeBase.ticked)) = beginWake c l (freeBuffer (s.modTb TimeBase.ticked)) ∧
          f (s.modTb TimeBase.ticked) = beginWake c l (s.modTb TimeBase.ticked) →
        (Host.Outcome.next (tick s) : Host.Outcome State Fault Refusal) = exec i (s.modTb TimeBase.ticked) ∧
          ∃ t, (Host.Outcome.next (tick s) : Host.Outcome State Fault Refusal) = .next t ∧ t.session.state = .waking := by
      intro c l f i hrow ⟨hj, hb⟩
      have ht : tick s = finish (beginWake c l (s.modTb TimeBase.ticked)) := finish_wakeBegun hi' hf' hj
      exact ⟨by rw [exec_eq, hrow, hb, ht], _, rfl, by rw [ht]; exact finish_beginWake_state _ _ _⟩
    refine ⟨fun e hc he hd => ?_, fun hrest hz ⟨z, hzs, hzd⟩ => ?_⟩
    · have hr' : scheduledReached (s.modTb TimeBase.ticked) = true := by
        unfold scheduledReached
        rw [scheduledDue_of_capturing (s := s.modTb TimeBase.ticked) hc he]
        exact decide_eq_true hd
      exact wakes .scheduledWake rfl (judgeWakes_freeBuffer_scheduled ha hs hr')
    · have hn : scheduledReached (s.modTb TimeBase.ticked) = false := by
        have hnc : s.sched.runState.capturing = false := by
          cases hx : s.sched.runState <;> rw [hx] at hrest <;> first | rfl | cases hrest
        simp [scheduledReached, scheduledDue, hnc]
      have hr' : idleReached (s.modTb TimeBase.ticked) = true := by
        have hx : expired (s.modTb TimeBase.ticked).tb.elapsed (expiryAfter z s.config.settings.idleWake) = true := decide_eq_true hzd
        unfold idleReached
        rw [State.modTb_session, hzs]
        simpa [hrest, hz] using hx
      exact wakes .idleWake rfl (judgeWakes_freeBuffer_idle ha hs hn hr')

end Sys2Proof.Machine
end

section
/-! PROOFS. The commands of the interpreter that are decided at once: refusals, ARM, STOP, SLEEP, CLEAR, START and LOAD_PLAN. -/

namespace Sys2Proof.Machine

/-! ### How a command's row is decided (R171) -/

/-- Outside reset a row's effect is its operation. -/
theorem outsideReset_of_running {s : State} (hr : s.pins.inReset = false) (f : State → State) : outsideReset f s = f s := by
  simp [outsideReset, hr]

theorem outsideReset_of_reset {s : State} (hr : s.pins.inReset = true) (f : State → State) : outsideReset f s = s := by
  simp [outsideReset, hr]

/-- A row whose effect is near a state leaves that state. -/
theorem Leaves.of_effect {c : Instr} {s a : State} (n : Near a (rowEffect c s)) : Leaves c s a := .of_near (exec_eq c s) n

/-- A row whose effect is near a state, with a STATUS_WRITE requested, reports that state. -/
theorem Reports.of_effect {c : Instr} {s a : State} (n : Near a (rowEffect c s)) (k : StatusStands (rowEffect c s)) :
    Reports c s a := .of_near (exec_eq c s) n k

/-- A row whose effect is a decision decides it. -/
theorem Decides.of_effect {c : Instr} {s a x : State} {seq : BitVec 8} {r : Result}
    (h : rowEffect c s = decideCommand seq r x) (n : Near a x) : Decides c s seq r a := .of_near (h ▸ exec_eq c s) n

/-- With no busy command the row of a command is decided by its own judgement. -/
theorem decides_of_free {c : Instr} {s a x : State} {seq : BitVec 8} {r : Result} {f : State → State}
    (hc : rowEffect c s = outsideReset (unlessBusy seq f) s) (hb : s.cmd.busy = none) (hr : s.pins.inReset = false)
    (hx : f s = decideCommand seq r x) (n : Near a x) : Decides c s seq r a :=
  .of_effect (hc.trans ((outsideReset_of_running hr _).trans ((unlessBusy_of_free hb seq f).trans hx))) n

/-- While a long command runs the row of a command is refused BUSY. -/
theorem decides_busy {c : Instr} {s : State} {seq : BitVec 8} {f : State → State}
    (hc : rowEffect c s = outsideReset (unlessBusy seq f) s) (hb : s.cmd.busy.isSome = true) (hr : s.pins.inReset = false) :
    Decides c s seq .busy s :=
  .of_effect (hc.trans ((outsideReset_of_running hr _).trans (unlessBusy_of_busy hb seq f))) (.rfl' s)

/-- In power-on reset a row that needs the part leaves the state as it is. -/
theorem leaves_in_reset {c : Instr} {s : State} {f : State → State} (hc : rowEffect c s = outsideReset f s)
    (hr : s.pins.inReset = true) : Leaves c s s :=
  .of_effect (by rw [hc, outsideReset_of_reset hr]; exact .rfl' s)

/-! ### The common refusals (R116, R147, R171) -/

theorem Result.accepts_iff (r : Result) : r.accepts = true ↔ r = .ok ∨ r = .okClamped := by
  cases r <;> simp [Result.accepts]

theorem restartTimer_of_open {s : State} (h : s.session.state = .open) :
    restartTimer s =
      { s with
        session :=
          { s.session with timer := some (s.tb.elapsed + BitVec.ofNat 48 (s.config.settings.sessionLimit * 1024)) } } :=
  if_pos h

theorem restartTimer_of_not_open {s : State} (h : s.session.state ≠ .open) : restartTimer s = s := if_neg h

/-- Settles O6: BUSY is the common test of every row but RESET_PART, and reset keeps every row from acting. -/
theorem busyAndUnknownCommandsAreRefused : Obligations.BusyAndUnknownCommandsAreRefused := by
  refine ⟨Result.accepts_iff, fun s => ⟨restartTimer_of_open, restartTimer_of_not_open⟩, fun code seq straps s => ⟨?_, ?_, ?_⟩⟩
  · exact fun hb hr => decides_of_free rfl hb hr rfl (.rfl' s)
  · intro hb hr
    have busy {c : Instr} {f : State → State} (hc : rowEffect c s = outsideReset (unlessBusy seq f) s) :
        Decides c s seq .busy s := decides_busy hc hb hr
    exact ⟨busy rfl, busy rfl, busy rfl, busy rfl, busy rfl, busy rfl, busy rfl, busy rfl, busy rfl, busy rfl, busy rfl⟩
  · intro hr
    have still {c : Instr} {f : State → State} (hc : rowEffect c s = outsideReset f s) : Leaves c s s := leaves_in_reset hc hr
    exact ⟨still rfl, still rfl, still rfl, still rfl, still rfl, still rfl, still rfl, still rfl, still rfl, still rfl,
      still (f := fun t => resetPart seq (t.modPins fun p => { p with straps := straps })) rfl, still rfl, still rfl, still rfl,
      still rfl, still rfl⟩

/-! ### ARM (R21) -/

/-- Settles O13: the entry of the frame, if there is one, decides. -/
theorem armMarksAnIssuedEntry : Obligations.ArmMarksAnIssuedEntry := by
  intro seq s hb hr
  refine ⟨fun h => ?_, fun e he => ⟨fun ht => ?_, fun ht => ?_⟩⟩
  · have hn : (s.sched.queue.find? fun e => e.frame == s.path.arg1) = none := by simpa using h
    exact decides_of_free (f := armCommand seq) rfl hb hr (by simp [armCommand, hn]) (.rfl' s)
  · exact decides_of_free (f := armCommand seq) rfl hb hr (by simp [armCommand, he, ht]) (.rfl' s)
  · exact decides_of_free (f := armCommand seq) rfl hb hr (by simp [armCommand, he, ht]; rfl) (.rfl' _)

/-! ### STOP (R5) -/

/-- Near states stay near under the same retirement. -/
theorem Near.retired {a b : State} (h : Near a b) (e : Entry) (o : FrameOutcome) :
    Near (retired e o a) (Machine.retired e o b) := by
  have hr (s : State) : Machine.retired e o s =
      (s.modSched fun q =>
        { q.retireEntry e o with
          owed := if q.runState.capturing then q.owed ++ [.retirement e.frame (o == .metered)] else q.owed }).modSeg fun g =>
        { g with hold := holdAfter g.copyRead g.hold e.el e.limit o } := retired_eq e o s
  rw [hr, hr]
  exact (h.modSched _).modSeg _

/-- Entries retired ABANDONED, head first, by their own effects. -/
def abandoned (l : List Entry) (s : State) : State := l.foldl (fun t e => retired e .abandoned t) s

theorem near_abandonAll {a b : State} (h : Near a b) (l : List Entry) : Near (abandoned l a) (abandonAll l b) := by
  induction l generalizing a b with
  | nil => exact h
  | cons e l ih => exact ih ((h.retired e .abandoned).trans (near_retireNow e .abandoned .noCause none false b))

theorem holdAfter_of_not_metered {o : FrameOutcome} (h : o ≠ .metered) (c : Option Segment) (hold el : Nat) (l : Limit) :
    holdAfter c hold el l o = hold := by
  cases c <;> simp [holdAfter, h]

theorem dropIssues_owed (s : State) (o : List Origin) :
    dropIssues (s.modSched fun q => { q with owed := o }) = dropIssues s := rfl

/-- The whole queue abandoned, and the issues that its retirements would owe dropped (R5, R6). -/
theorem dropIssues_abandoned (s : State) :
    dropIssues (abandoned s.sched.queue s) =
      dropIssues (s.modSched fun q =>
        { q with
          queue := []
          lastRetired := (s.sched.queue.getLast?.map Entry.frame).or s.sched.lastRetired
          latestKept := s.sched.queue.foldl laterKept s.sched.latestKept }) := by
  generalize hq : s.sched.queue = l
  induction l generalizing s with
  | nil =>
    have hs : s = s.modSched fun q => { q with queue := [] } := by
      obtain ⟨_, _, _, _, _, _⟩ := s
      simp only [State.modSched] at hq ⊢
      rw [← hq]
    simp only [abandoned, List.foldl_nil]
    rw [hs]
    rfl
  | cons e l ih =>
    have hr : (retired e .abandoned s).sched.queue = l := by simp [retired, hq]
    have hl : ((e :: l).getLast?.map Entry.frame) = (l.getLast?.map Entry.frame).or (some e.frame) := by
      cases l <;> simp [List.getLast?_cons]
    rw [abandoned, List.foldl_cons, ← abandoned, ih _ hr, hl]
    have hh : holdAfter s.seg.copyRead s.seg.hold e.el e.limit .abandoned = s.seg.hold :=
      holdAfter_of_not_metered (by decide) ..
    simp [dropIssues, retired, State.modSched, State.modSeg, State.modStats, hh]

/-- Settles O12: a stoppable run's queue is abandoned head first. -/
theorem stopAbandonsTheQueue : Obligations.StopAbandonsTheQueue := by
  intro seq s hb hr
  refine ⟨fun h => ?_, fun h => ?_⟩
  · have hs : s.sched.runState.stoppable = false := by rcases h with h | h <;> rw [h] <;> rfl
    exact decides_of_free (f := stopCommand seq) rfl hb hr (by simp [stopCommand, hs]) (.rfl' s)
  · have hs : s.sched.runState.stoppable = true := by rcases h with h | h | h <;> rw [h] <;> rfl
    refine decides_of_free (f := stopCommand seq) rfl hb hr (by simp [stopCommand, hs]; rfl) ?_
    have hd := (near_abandonAll (.rfl' s) s.sched.queue).dropIssues
    rw [dropIssues_abandoned] at hd
    exact ((hd.modSched fun q => { q with resumeState := none }).modSched fun q =>
      { q with runState := .stopped, finish := .command }).trans (near_requestStatus _)

/-! ### SLEEP (R110, R115) -/

/-- SLEEP judged by a gap, or without one. -/
theorem sleepCommand_of_gap {s : State} {seq : BitVec 8} (ho : s.session.state = .open) (hw : s.sched.owed = [])
    {gap : Option Int} (hg : wakeGap s = gap) :
    sleepCommand seq s =
      if gapBelow gap s.config.settings.minSleep then decideCommand seq .tooSoon s
      else decideCommand seq .ok (requestStatus (s.modSession fun x =>
        { x with state := .closing, sleepKind := sleepKindFor gap s.config.settings.offGap, timer := none,
                 deferredAlert := false })) := by
  simp [sleepCommand, ho, hw, hg]

theorem not_resting_of_capturing {r : RunState} (h : r.capturing = true) : r.resting = false := by
  cases r <;> first | rfl | cases h

theorem not_capturing_of_resting {r : RunState} (h : r.resting = true) : r.capturing = false := by
  cases r <;> first | rfl | cases h

theorem wakeGap_of_issued {s : State} {e : Entry} (hc : s.sched.runState.capturing = true)
    (he : (s.sched.queue.find? fun x => !x.triggered) = some e) :
    wakeGap s = some ((e.due.toNat : Int) - s.config.settings.wakeLead * 1024 - s.tb.time.toNat) := by
  simp [wakeGap, scheduledDue_of_capturing hc he, wakeLeadTicks]

theorem wakeGap_of_not_capturing {s : State} (hc : s.sched.runState.capturing = false) :
    wakeGap s = if s.sched.runState.resting ∧ s.config.settings.idleWake ≠ 0 then
      some ((s.config.settings.idleWake : Int) * 1024) else none := by
  simp [wakeGap, scheduledDue, hc]

theorem wakeGap_of_none_issued {s : State} (hc : s.sched.runState.capturing = true)
    (hq : ∀ e ∈ s.sched.queue, e.triggered = true) : wakeGap s = none := by
  have hn : firstIssued s.sched.queue = none := by simpa [firstIssued] using hq
  simp [wakeGap, scheduledDue, hc, hn, not_resting_of_capturing hc]

/-- Settles O14: the gap decides TOO_SOON, then the kind; without one the kind is OFF. -/
theorem sleepChoosesItsKind : Obligations.SleepChoosesItsKind := by
  intro seq s hb hr closing chosen
  have hclose (ho : s.session.state = .open) (hw : s.sched.owed = []) {gap : Option Int} (hg : wakeGap s = gap)
      (hm : gapBelow gap s.config.settings.minSleep = false) {kind : SleepKind}
      (hk : sleepKindFor gap s.config.settings.offGap = kind) : closing kind :=
    decides_of_free (f := sleepCommand seq) rfl hb hr (by rw [sleepCommand_of_gap ho hw hg, hm, hk]; rfl) (near_requestStatus _)
  have hoff (ho : s.session.state = .open) (hw : s.sched.owed = []) (hg : wakeGap s = none) : closing .off :=
    hclose ho hw hg rfl rfl
  have hchosen (ho : s.session.state = .open) (hw : s.sched.owed = []) {gap : Int} (hg : wakeGap s = some gap) :
      chosen gap := by
    refine ⟨fun hlt => ?_, fun hle => ⟨fun h => hclose ho hw hg ?_ ?_, fun h => hclose ho hw hg ?_ ?_⟩⟩
    · refine decides_of_free (f := sleepCommand seq) rfl hb hr ?_ (.rfl' s)
      rw [sleepCommand_of_gap ho hw hg, if_pos (by simpa [gapBelow] using hlt)]
    all_goals simp [sleepKindFor, gapBelow]; omega
  refine ⟨fun ho => ?_, fun ho hw => ?_, fun ho hw => ⟨fun e hc he => ?_, fun hc hi => ?_, fun hc hq => ?_, fun hc => ?_,
    fun hc hi => ?_⟩⟩
  · exact decides_of_free (f := sleepCommand seq) rfl hb hr (by simp [sleepCommand, ho]) (.rfl' s)
  · exact decides_of_free (f := sleepCommand seq) rfl hb hr (by simp [sleepCommand, ho, hw]) (.rfl' s)
  · exact hchosen ho hw (wakeGap_of_issued hc he)
  · exact hchosen ho hw (by simp [wakeGap_of_not_capturing (not_capturing_of_resting hc), hc, hi])
  · exact hoff ho hw (wakeGap_of_none_issued hc hq)
  · exact hoff ho hw (by simp [wakeGap_of_not_capturing (s := s) (by rw [hc]; rfl), hc, RunState.resting])
  · exact hoff ho hw (by simp [wakeGap_of_not_capturing (not_capturing_of_resting hc), hi])

end Sys2Proof.Machine
end

section
/-! PROOFS. CLEAR with its four bits, LOAD_PLAN and START. -/

namespace Sys2Proof.Machine

/-! ### States that differ in the engine's queue alone -/

/-- `b` is `a` with another queue of the Record Engine. -/
def QueueAlone (a b : State) : Prop := ∃ e, b = { a with engine := e } ∧ e.kept = a.engine.kept

theorem QueueAlone.near {a b : State} (h : QueueAlone a b) : Near a b := by
  obtain ⟨e, rfl, hk⟩ := h
  exact ⟨⟨rfl, rfl, rfl, rfl, hk, rfl, rfl, rfl, rfl, rfl, rfl, rfl⟩, ⟨rfl, rfl, rfl⟩, rfl, .of_eq rfl rfl, rfl⟩

theorem QueueAlone.rfl' (s : State) : QueueAlone s s := ⟨s.engine, rfl, rfl⟩

theorem QueueAlone.requestStatus {a b : State} (h : QueueAlone a b) : QueueAlone a (requestStatus b) := by
  obtain ⟨e, rfl, hk⟩ := h
  exact ⟨_, rfl, (requestStatus_kept _).trans hk⟩

/-- The same change of anything but the engine, made on both sides. -/
theorem QueueAlone.map {a b : State} {f : State → State} (h : QueueAlone a b)
    (hf : ∀ s e, f { s with engine := e } = { f s with engine := e }) : QueueAlone (f a) (f b) := by
  obtain ⟨e, rfl, hk⟩ := h
  have ha : (f a).engine = a.engine := calc
    (f a).engine = ({ f a with engine := a.engine } : State).engine := congrArg State.engine (hf a a.engine)
    _ = a.engine := rfl
  exact ⟨e, hf a e, by rw [ha, hk]⟩

/-! ### CLEAR (R47, R83, R123, R133, R174) -/

theorem bitOf_eq_getLsbD (w : Word) (i : Nat) : bitOf w i = w.getLsbD i := by
  simp [bitOf, field, BitVec.getLsbD, Nat.testBit_eq_decide_div_mod_eq]

/-- What the four bits of CLEAR leave, without the STATUS_WRITE. -/
def planCleared (s : State) : State :=
  s.modCache fun c =>
    { c with
      fault := none
      entries := c.entries.map fun e => if e.state = .fault then { e with awaiting := true } else e }
def flagsCleared (s : State) : State := s.modStats fun x => { x with flags := .clear }
def countsCleared (s : State) : State := s.modSession fun x => { x with counts := .zero, cold := false }
def timeCleared (s : State) : State :=
  s.modTb fun y => if y.source = .rc ∧ y.crystalRunning = true then { y with source := .crystal, degraded := false } else y

theorem clearTime_of_fallen {s : State} (h : s.tb.source = .rc ∧ s.tb.crystalRunning = true) :
    clearTime s = requestStatus (s.modTb fun y => { y with source := .crystal, degraded := false }) := if_pos h

theorem clearTime_of_not_fallen {s : State} (h : ¬(s.tb.source = .rc ∧ s.tb.crystalRunning = true)) : clearTime s = s := if_neg h

theorem queueAlone_clearTime (s : State) : QueueAlone (timeCleared s) (clearTime s) := by
  by_cases h : s.tb.source = .rc ∧ s.tb.crystalRunning = true
  · rw [clearTime_of_fallen h]
    have ht : timeCleared s = s.modTb fun y => { y with source := .crystal, degraded := false } := by
      simp [timeCleared, State.modTb, h]
    rw [ht]
    exact (QueueAlone.rfl' _).requestStatus
  · rw [clearTime_of_not_fallen h]
    have ht : timeCleared s = s := by simp [timeCleared, State.modTb, h]
    rw [ht]
    exact .rfl' s

/-- An action of a bit that differs from a pure change in the engine's queue alone. -/
theorem QueueAlone.onBit {a b : State} {f g : State → State} (h : QueueAlone a b) (w : Word) (i : Nat)
    (hf : ∀ s, QueueAlone (g s) (f s)) (hg : ∀ s e, g { s with engine := e } = { g s with engine := e }) :
    QueueAlone (Machine.onBit w i g a) (Machine.onBit w i f b) := by
  unfold Machine.onBit
  split
  · obtain ⟨e, he, hk⟩ := hf b
    obtain ⟨e', he', hk'⟩ := h.map hg
    exact ⟨e, by rw [he, he'], by rw [hk, he']; exact hk'⟩
  · exact h

theorem queueAlone_clearBits (w : Word) (s : State) :
    QueueAlone (onBit w 3 timeCleared (onBit w 2 countsCleared (onBit w 1 flagsCleared (onBit w 0 planCleared s))))
      (onBit w 3 clearTime (onBit w 2 clearEvents (onBit w 1 clearStatistics (onBit w 0 clearPlan s)))) := by
  have status (s : State) : QueueAlone s (requestStatus s) := (QueueAlone.rfl' s).requestStatus
  exact ((((QueueAlone.rfl' s).onBit w 0 (g := planCleared) (fun _ => status _) fun _ _ => rfl).onBit w 1 (g := flagsCleared)
    (fun _ => status _) fun _ _ => rfl).onBit w 2 (g := countsCleared) (fun _ => status _) fun _ _ => rfl).onBit w 3
    queueAlone_clearTime fun _ _ => rfl

theorem onBit_planCleared (w : Word) (s : State) :
    onBit w 0 planCleared s =
      { s with
        cache :=
          if w.getLsbD 0 then
            { s.cache with
              fault := none
              entries := s.cache.entries.map fun e => if e.state = .fault then { e with awaiting := true } else e }
          else s.cache } := by
  rw [onBit, bitOf_eq_getLsbD]
  split <;> rfl

theorem onBit_flagsCleared (w : Word) (s : State) :
    onBit w 1 flagsCleared s = { s with stats := if w.getLsbD 1 then { s.stats with flags := .clear } else s.stats } := by
  rw [onBit, bitOf_eq_getLsbD]
  split <;> rfl

theorem onBit_countsCleared (w : Word) (s : State) :
    onBit w 2 countsCleared s =
      { s with session := if w.getLsbD 2 then { s.session with counts := .zero, cold := false } else s.session } := by
  rw [onBit, bitOf_eq_getLsbD]
  split <;> rfl

theorem onBit_timeCleared (w : Word) (s : State) :
    onBit w 3 timeCleared s =
      { s with
        tb :=
          if w.getLsbD 3 ∧ s.tb.source = .rc ∧ s.tb.crystalRunning = true then
            { s.tb with source := .crystal, degraded := false }
          else s.tb } := by
  rw [onBit, bitOf_eq_getLsbD]
  cases w.getLsbD 3
  · rfl
  · simp only [if_true, true_and]
    rfl

/-- Settles O15: the bits change different blocks, and the engine's queue takes the STATUS_WRITE. -/
theorem clearActsByItsBits : Obligations.ClearActsByItsBits := by
  refine ⟨⟨rfl, rfl⟩, fun seq s hr => ⟨fun hb => ?_, ?_, ?_, ?_, fun hs hc => ?_, fun h => ?_⟩⟩
  · have hn := (queueAlone_clearBits s.path.arg1 s).near
    rw [onBit_planCleared, onBit_flagsCleared, onBit_countsCleared, onBit_timeCleared] at hn
    exact decides_of_free (f := clearCommand seq) rfl hb hr rfl hn
  all_goals have he (f : State → State) : outsideReset f s = f s := outsideReset_of_running hr f
  · exact .of_effect (by rw [rowEffect, he]; exact near_requestStatus _) (by rw [rowEffect, he]; exact requestStatus_stands _)
  · exact .of_effect (by rw [rowEffect, he]; exact near_requestStatus _) (by rw [rowEffect, he]; exact requestStatus_stands _)
  · exact .of_effect (by rw [rowEffect, he]; exact near_requestStatus _) (by rw [rowEffect, he]; exact requestStatus_stands _)
  · exact .of_effect (by rw [rowEffect, he, clearTime_of_fallen ⟨hs, hc⟩]; exact near_requestStatus _)
      (by rw [rowEffect, he, clearTime_of_fallen ⟨hs, hc⟩]; exact requestStatus_stands _)
  · have hn : ¬(s.tb.source = .rc ∧ s.tb.crystalRunning = true) := by rcases h with h | h <;> simp [h]
    exact .of_effect (by rw [rowEffect, he, clearTime_of_not_fallen hn]; exact .rfl' s)

/-! ### LOAD_PLAN (R35, R36) -/

theorem cacheSettle_of_fetch {s : State} (h : s.cache.fetch.isSome = true) : cacheSettle s = s := cacheSettle_of_noFetch (.inl h)

theorem cacheSettle_of_walk {s : State} {w : Walk} (hf : s.cache.fetch = none) (hw : s.cache.walk = some w)
    (hs : w.started = false) :
    cacheSettle s = walkCreate w.entrySlot (s.modCache fun c => { c with walk := some { w with started := true } }) := by
  simp [cacheSettle, hf, hw, hs]

theorem cacheSettle_freeBuffer_of_walk {s : State} {w : Walk} (hf : s.cache.fetch = none) (hw : s.cache.walk = some w)
    (hs : w.started = false) : cacheSettle (freeBuffer s) = freeBuffer (cacheSettle s) := by
  rw [cacheSettle_of_walk hf hw hs, cacheSettle_of_walk (w := w) (by simpa using hf) (by simpa using hw) hs]
  unfold freeBuffer
  split
  · rename_i h
    rw [if_pos (by simpa [walkCreate, requestFetch] using h)]
    rfl
  · rename_i h
    rw [if_neg (by simpa [walkCreate, requestFetch] using h)]

/-- What follows the acceptance of a load walk is its first fetch, and what follows that. -/
theorem finish_of_walk {s : State} {w : Walk} (hc : s.sched.runState.capturing = false) (hf : s.cache.fetch = none)
    (hw : s.cache.walk = some w) (hs : w.started = false) : finish s = finish (cacheSettle s) := by
  have hf' : (cacheSettle s).cache.fetch.isSome = true := by
    rw [cacheSettle_of_walk hf hw hs]
    rfl
  rw [finish_of_idle hc, finish_of_idle (s := cacheSettle s) (by simpa using hc), cacheSettle_freeBuffer_of_walk hf hw hs,
    cacheSettle_of_fetch (s := freeBuffer (cacheSettle s)) (by simpa using hf')]

/-- The first fetch of a load walk, into an empty cache (R36). -/
theorem cacheSettle_of_emptied {s : State} {w : Walk} (hf : s.cache.fetch = none) (hw : s.cache.walk = some w)
    (hs : w.started = false) (he : s.cache.entries = []) :
    cacheSettle s =
      { s with
        cache :=
          { entries := [{ newEntry w.entrySlot with state := .fetching }], loaded := s.cache.loaded,
            fetch := some { slot := w.entrySlot, orphan := false }, walk := some { w with started := true }, fault := s.cache.fault }
        engine :=
          { s.engine with waiting := s.engine.waiting ++ [.planFetch w.entrySlot (s.path.planBase + 32 * w.entrySlot)] } } := by
  rw [cacheSettle_of_walk hf hw hs]
  simp [walkCreate, requestFetch, PlanCache.update, State.modCache, State.modEngine, he, newEntry, CacheEntry.fetchRequested]

theorem QueueAlone.waiting {a b : State} (h : QueueAlone a b) (l : List Request) :
    QueueAlone a { b with engine := { b.engine with waiting := l } } := by
  obtain ⟨e, rfl, hk⟩ := h
  exact ⟨_, rfl, hk⟩

theorem QueueAlone.cache {a b : State} (h : QueueAlone a b) (c : PlanCache) :
    QueueAlone { a with cache := c } { b with cache := c } := h.map (f := fun s => { s with cache := c }) fun _ _ => rfl

theorem restartTimer_cache (c : PlanCache) (s : State) :
    { restartTimer s with cache := c } = restartTimer { s with cache := c } := by
  unfold restartTimer
  dsimp only
  split <;> rfl

/-- A request other than a LOG_WRITE that waits in a run that issues nothing stands in what follows. -/
theorem finish_queued_of_idle {s : State} {r : Request} (hl : r.isLog = false) (hc : s.sched.runState.capturing = false)
    (hf : s.cache.fetch.isSome = true) (h : r ∈ s.engine.queued) : r ∈ (finish s).engine.queued := by
  rw [finish_of_idle hc, cacheSettle_of_fetch (by simpa using hf)]
  exact queued_of_engine (a := beginService (judgeWakes (freeBuffer s))) (by simp)
    (beginService_queued hl (judgeWakes_queued (by
      have he : (freeBuffer s).engine = s.engine := by simp
      exact queued_of_engine he h)))

theorem Path.planSlots_none {p : Path} (h : p.plan = none) : p.planSlots = 0 ∧ p.planBase = 0 := by
  simp [Path.planSlots, Path.planBase, h]

theorem Path.planSlots_some {p : Path} {v : Window} (h : p.plan = some v) :
    p.planSlots = min ((v.limit - v.base + 1) / 32) 64 ∧ p.planBase = v.base := by
  simp [Path.planSlots, Path.planBase, h, Window.planSlots]

/-- An accepted long command's state is that of its busy mark with the timer restarted, the queue apart. -/
theorem queueAlone_acceptLong (seq : BitVec 8) (k : LongKind) (s : State) :
    QueueAlone (restartTimer { s with cmd := { s.cmd with busy := some (seq, k) } }) (acceptLong seq k s) := by
  refine ((QueueAlone.rfl' _).requestStatus (b := { s with cmd := { s.cmd with busy := some (seq, k) } })).map (f := restartTimer) ?_
  intro s e
  unfold restartTimer
  dsimp only
  split <;> rfl

theorem acceptLong_stands (seq : BitVec 8) (k : LongKind) (s : State) : StatusStands (acceptLong seq k s) :=
  restartTimer_stands (requestStatus_stands _)

/-- Settles O16: an accepted LOAD_PLAN stands ready, and its first fetch is requested in what follows when none is in flight. -/
theorem loadPlanBeginsAWalk : Obligations.LoadPlanBeginsAWalk := by
  refine ⟨fun p => ⟨Path.planSlots_none, fun v => Path.planSlots_some⟩, fun slot => rfl, fun seq s hb hr => ⟨fun hs => ?_, fun hs hp => ?_, ?_⟩⟩
  · exact decides_of_free (f := loadPlan seq) rfl hb hr (by simp [loadPlan, hs]) (.rfl' s)
  · exact decides_of_free (f := loadPlan seq) rfl hb hr (by simp [loadPlan, hs, hp]) (.rfl' s)
  intro hs hp slot busy
  have hx : rowEffect (.loadPlan seq) s = loadPlan seq s :=
    (outsideReset_of_running hr _).trans (unlessBusy_of_free hb seq _)
  obtain ⟨m, hm⟩ : ∃ m, m = s.modCache fun c =>
      { c.emptied with loaded := none, fault := none, walk := some { entrySlot := s.path.arg1.toNat, started := false } } := ⟨_, rfl⟩
  have hl : loadPlan seq s = acceptLong seq .loadPlan m := by
    simp [loadPlan, hs, Nat.not_le.mpr hp, hm]
  have hq := queueAlone_acceptLong seq .loadPlan m
  refine ⟨_, (exec_eq _ s), finish_stands (by rw [hx, hl]; exact acceptLong_stands _ _ _), fun f hf => ?_, fun hf => ?_⟩
  · rw [hx, hl]
    refine Near.follows ?_ (finish_follows _)
    have hn := hq.near
    rw [hm] at hn ⊢
    simpa [State.modCache, PlanCache.emptied, hf, busy] using hn
  · have hw : (loadPlan seq s).cache = m.cache := by rw [hl]; simp [acceptLong]
    have hc : (loadPlan seq s).sched.runState.capturing = false := by rw [hl, hm]; simp [acceptLong, hs, RunState.capturing]
    have hf' : (loadPlan seq s).cache.fetch = none := by rw [hw, hm]; simp [PlanCache.emptied, hf]
    have hk : (loadPlan seq s).cache.walk = some { entrySlot := slot, started := false } := by rw [hw, hm]; rfl
    have he : (loadPlan seq s).cache.entries = [] := by rw [hw, hm]; rfl
    have hp : (loadPlan seq s).path = s.path := by rw [hl, hm]; simp [acceptLong]
    rw [hx, finish_of_walk hc hf' hk rfl, cacheSettle_of_emptied hf' hk rfl he]
    refine ⟨Near.follows (QueueAlone.near ?_) (finish_follows _), finish_queued_of_idle rfl hc rfl ?_⟩
    · rw [← hl] at hq
      have hc := (hq.cache
        { entries := [{ newEntry slot with state := .fetching }], loaded := none,
          fetch := some { slot := slot, orphan := false }, walk := some { entrySlot := slot, started := true },
          fault := none }).waiting ((loadPlan seq s).engine.waiting ++ [.planFetch slot ((loadPlan seq s).path.planBase + 32 * slot)])
      rw [restartTimer_cache, hm] at hc
      rw [hw, hm]
      exact hc
    · rw [← hp]
      exact List.mem_append_right _ (List.mem_append_right _ (List.mem_singleton.mpr rfl))

end Sys2Proof.Machine
end

section
/-! PROOFS. START: its judgement, the run it begins and the first order of that run. -/

namespace Sys2Proof.Machine

/-! ### START judged (R2, R3) -/

theorem argTime_eq_zero_iff {s : State} (h : s.path.arg2.toNat ≤ 1023) :
    argTime s = 0 ↔ s.path.arg1 = 0 ∧ s.path.arg2 = 0 := by
  have ht := argTime_toNat s
  constructor
  · intro h0
    rw [h0] at ht
    constructor <;> apply BitVec.eq_of_toNat_eq <;> simp at ht ⊢ <;> omega
  · rintro ⟨h1, h2⟩
    apply BitVec.eq_of_toNat_eq
    rw [ht, h1, h2]
    rfl

theorem startCommand_of_loaded {s : State} {slot : Nat} {u : Tuning} (seq : BitVec 8) (hs : s.sched.runState = .stopped)
    (hl : s.cache.loaded = some slot) (hu : s.config.tuning = some u) :
    startCommand seq s =
      if s.tb.unset then decideCommand seq .state s
      else if 1023 < s.path.arg2.toNat then decideCommand seq .range s
      else decideCommand seq .ok (startRun slot u s) := by
  simp [startCommand, hs, hl, hu]

/-- The run that an accepted START begins, in the run state given (R2, R3). -/
def begun (slot : Nat) (u : Tuning) (r : RunState) (s : State) : State :=
  { s with
    sched :=
      { s.sched with
        runState := r, finish := .noReason, resumeState := none, startState := some r, depth := u.depth,
        dailyFrom := u.dailyFrom, dailyTo := u.dailyTo, heldCopy := none, startRequest := requestedDue s,
        chainBase := none, latestKept := none, owed := startIssues u.depth }
    seg := { s.seg with current := some slot, frames := 0, hold := 0, entryTime := none, copyRead := none, decided := none }
    cache := s.cache.touch slot }

theorem startRun_eq (slot : Nat) (u : Tuning) (s : State) :
    startRun slot u s =
      requestStatus (begun slot u (if watchedFault (begun slot u .running s) then .faultHold else .running) s) := rfl

theorem startIssues_of_depth {d : Nat} (h1 : 1 ≤ d) (h2 : d ≤ 2) :
    startIssues d = if d = 1 then [.start true] else [.start true, .start false] := by
  obtain rfl | rfl : d = 1 ∨ d = 2 := by omega
  · rfl
  · rfl

/-- Settles O10: the refusals in their order, and the state of an accepted START by its watched entries. -/
theorem startJudgedAndBegun : Obligations.StartJudgedAndBegun := by
  refine ⟨fun k slot => rfl, fun seq s hb hr => ⟨fun hs => ?_, fun hs hl => ?_, fun slot u hs hl hu => ⟨fun ht => ?_, fun ht ha => ?_, fun ht ha h1 h2 => ?_⟩⟩⟩
  · exact decides_of_free (f := startCommand seq) rfl hb hr (by simp [startCommand, hs]) (.rfl' s)
  · exact decides_of_free (f := startCommand seq) rfl hb hr (by simp [startCommand, hs, hl]) (.rfl' s)
  · exact decides_of_free (f := startCommand seq) rfl hb hr (by simp [startCommand_of_loaded seq hs hl hu, ht]) (.rfl' s)
  · exact decides_of_free (f := startCommand seq) rfl hb hr (by simp [startCommand_of_loaded seq hs hl hu, ht, ha]) (.rfl' s)
  · refine ⟨requestedDue s, ?_, fun d hd => ?_, fun entered he => ?_⟩
    · rw [← argTime_eq_zero_iff ha, requestedDue]
      simp
    · obtain rfl : argTime s = d := by
        unfold requestedDue at hd
        split at hd <;> cases hd
        rfl
      exact ⟨argTime_seconds s, argTime_tick ha⟩
    · obtain rfl : entered = begun slot u .running s := by
        rw [he, begun, startIssues_of_depth h1 h2]
      refine decides_of_free (f := startCommand seq) rfl hb hr
        (by simp [startCommand_of_loaded seq hs hl hu, ht, Nat.not_lt.mpr ha]; rfl) ?_
      rw [startRun_eq]
      split
      · exact near_requestStatus _
      · exact near_requestStatus _

end Sys2Proof.Machine
end

section
/-! PROOFS. States near each other through events and flags, and the header, zone and closing words of a statistics record that lead to
no entry. -/

namespace Sys2Proof.Machine

/-! ### Near states through the changes that a row makes -/

/-- The Statistics Intake of near states is the same. -/
theorem Near.stats {a b : State} (h : Near a b) : b.stats = a.stats := by
  calc b.stats = { b.stats.shown with latched := b.stats.latched } := rfl
    _ = { a.stats.shown with latched := a.stats.latched } := by rw [h.fixed.shown, h.latched]
    _ = a.stats := rfl

theorem Near.modStats {a b : State} (h : Near a b) (f : Intake → Intake) : Near (a.modStats f) (b.modStats f) := by
  have k := h.fixed
  exact ⟨⟨k.board, k.tb, k.supply, by simp [h.stats], k.kept, k.tally, k.table, k.cmd, k.config, k.ram, k.freeCount, k.pending⟩,
    ⟨h.run.sched, h.run.seg, h.run.expo⟩, h.cache, h.session.congr ⟨rfl, rfl, rfl, rfl, rfl⟩ ⟨rfl, rfl⟩, by simp [h.stats]⟩

theorem Near.modExpo {a b : State} (h : Near a b) (f : Exposure → Exposure) : Near (a.modExpo f) (b.modExpo f) := by
  have k := h.fixed
  exact ⟨⟨k.board, k.tb, k.supply, k.shown, k.kept, k.tally, k.table, k.cmd, k.config, k.ram, k.freeCount, k.pending⟩,
    ⟨h.run.sched, h.run.seg, by simp [h.run.expo]⟩, h.cache, h.session.congr ⟨rfl, rfl, rfl, rfl, rfl⟩ ⟨rfl, rfl⟩, h.latched⟩

theorem Near.modCache {a b : State} (h : Near a b) (f : PlanCache → PlanCache) : Near (a.modCache f) (b.modCache f) := by
  have k := h.fixed
  exact ⟨⟨k.board, k.tb, k.supply, k.shown, k.kept, k.tally, k.table, k.cmd, k.config, k.ram, k.freeCount, k.pending⟩,
    ⟨h.run.sched, h.run.seg, h.run.expo⟩, by simp [h.cache], h.session.congr ⟨rfl, rfl, rfl, rfl, rfl⟩ ⟨rfl, rfl⟩, h.latched⟩

theorem PerClass.set_set (p : PerClass) (k : EventClass) (v w : Nat) : (p.set k v).set k w = p.set k w := by cases k <;> rfl

theorem PerClass.set_comm (p : PerClass) {k l : EventClass} (h : k ≠ l) (v w : Nat) :
    (p.set k v).set l w = (p.set l w).set k v := by
  cases k <;> cases l <;> first | rfl | exact absurd rfl h

theorem PerClass.get_set_of_ne (p : PerClass) {k l : EventClass} (h : k ≠ l) (w : Nat) : (p.set l w).get k = p.get k := by
  cases k <;> cases l <;> first | rfl | exact absurd rfl h

theorem mark_or_andNot (p m l : BitVec 8) : (p ||| m) &&& ~~~l = (p &&& ~~~l) ||| (m &&& ~~~l) := by
  ext i hi
  simp only [BitVec.getElem_and, BitVec.getElem_or, BitVec.getElem_not]
  cases p[i] <;> cases m[i] <;> cases l[i] <;> rfl

/-- The counts and marks that `Follows` looks at stay alike under the same event. -/
theorem countEvent_tally {a b : State} (k : EventClass) (h : b.session.tally = a.session.tally) :
    (countEvent k b).session.tally = (countEvent k a).session.tally := by
  have hc : b.session.counts.set .logLost 0 = a.session.counts.set .logLost 0 := congrArg Prod.fst h
  have hp : b.session.pendingSet &&& ~~~EventClass.logLost.mark = a.session.pendingSet &&& ~~~EventClass.logLost.mark :=
    congrArg Prod.snd h
  have hset (s : State) : (countEvent k s).session.tally =
      ((s.session.counts.set k (saturatingAdd max16 (s.session.counts.get k) 1)).set .logLost 0,
        (s.session.pendingSet &&& ~~~EventClass.logLost.mark) ||| (k.mark &&& ~~~EventClass.logLost.mark)) :=
    Prod.ext rfl (mark_or_andNot _ _ _)
  rw [hset, hset, hp]
  refine Prod.ext ?_ rfl
  by_cases hk : k = .logLost
  · subst hk
    simpa only [PerClass.set_set] using hc
  · have hg : b.session.counts.get k = a.session.counts.get k := by
      rw [← PerClass.get_set_of_ne b.session.counts hk 0, hc, PerClass.get_set_of_ne _ hk]
    show (b.session.counts.set k _).set .logLost 0 = (a.session.counts.set k _).set .logLost 0
    rw [hg, PerClass.set_comm _ hk, PerClass.set_comm _ hk, hc]

/-- Near states stay near when the same event is counted. -/
theorem Near.countEvent {a b : State} (h : Near a b) (k : EventClass) : Near (countEvent k a) (Machine.countEvent k b) := by
  have f := h.fixed
  refine ⟨⟨f.board, f.tb, f.supply, f.shown, f.kept, countEvent_tally k f.tally, f.table, f.cmd, f.config, f.ram, f.freeCount,
    f.pending⟩, ⟨h.run.sched, h.run.seg, h.run.expo⟩, h.cache, ?_, h.latched⟩
  rcases h.session with e | ⟨hn, p, hp⟩
  · exact .inl ⟨e.course, e.pins⟩
  · exact .inr ⟨hn, p, hp⟩

theorem Near.raiseEvent {a b : State} (h : Near a b) (k : EventClass) : Near (Machine.countEvent k a) (Machine.raiseEvent k b) :=
  (h.countEvent k).trans (near_raiseEvent k b)

theorem Near.requestStatus {a b : State} (h : Near a b) : Near a (Machine.requestStatus b) := h.trans (near_requestStatus b)

/-- A sticky flag raised on the model's side and counted on the statement's (R83). -/
theorem Near.raiseFlag {a b : State} (h : Near a b) (f : StickyFlag) : Near (flagged f a) (Machine.raiseFlag f b) :=
  ((h.modStats fun x => { x with flags := x.flags.raise f }).raiseEvent .statsError).requestStatus

theorem Near.raiseFlagIf {a b : State} (h : Near a b) (c : Bool) (f : StickyFlag) :
    Near (flaggedIf c f a) (Machine.raiseFlagIf c f b) := by
  unfold flaggedIf Machine.raiseFlagIf
  split
  · exact h.raiseFlag f
  · exact h

theorem Near.setAssembler {a b : State} (h : Near a b) (x : Assembler) :
    Near { a with stats := { a.stats with assembler := x } } (Machine.setAssembler x b) :=
  h.modStats fun y => { y with assembler := x }

/-! ### The words of the STAT window (R69, R70) -/

theorem whenReported_of_none {s : State} (h : s.path.stat = none) (f : State → State) : whenReported f s = s := by
  simp [whenReported, h]

theorem whenReported_of_some {s : State} (h : s.path.stat.isSome = true) (f : State → State) : whenReported f s = f s := by
  simp [whenReported, h]

theorem wordKind_of_whole {w : BusWord} (he : w.empty = false) (h : w.whole = true) : wordKind w = .whole w.good := by
  simp [wordKind, he, h]

theorem wordKind_of_part {w : BusWord} (he : w.empty = false) (h : w.whole = false) : wordKind w = .part w.good := by
  simp [wordKind, he, h]

theorem tagOf_eq (w : Word) : tagOf w = w.extractLsb' 16 16 := by
  apply BitVec.eq_of_toNat_eq
  simp [tagOf, field, Nat.shiftRight_eq_div_pow]

theorem frameTag_eq (f : Word) : frameTag f = f.setWidth 16 := by
  apply BitVec.eq_of_toNat_eq
  simp [frameTag]

theorem matchTag_eq (tag : BitVec 16) (q : List Entry) : matchTag tag q = q.find? fun e => e.frame.setWidth 16 == tag := by
  simp only [matchTag, frameTag_eq]

/-! ### Header words (R72, R73) -/

theorem Assembler.isOpen_iff (x : Assembler) : x.isOpen = true ↔ ∃ r, x = .assembling r := by
  cases x <;> simp [Assembler.isOpen]

/-- Settles O21: the kind of the word decides what the assembler holds, after the open record is dropped. -/
theorem headerWordOpensARecord : Obligations.HeaderWordOpensARecord := by
  refine ⟨fun f => ⟨rfl, rfl, rfl, rfl, rfl, rfl, rfl⟩, Assembler.isOpen_iff, fun w s he => ⟨fun hn => ?_, fun hs => ?_⟩⟩
  · exact .of_effect (by rw [rowEffect, whenReported_of_none hn]; exact .rfl' s)
  intro dropped skipping
  have hd : Near dropped (dropOpen s) := (Near.rfl' s).raiseFlagIf _ .restart
  have leaves {a : State} (n : Near a (takeHeader w s)) : Leaves (.statHeaderWord w) s a :=
    .of_effect (by rw [rowEffect, whenReported_of_some hs]; exact n)
  refine ⟨fun hw hg u hu => ⟨fun hsel => leaves ?_, fun hsel => leaves ?_⟩, fun hw hg => leaves ?_, fun hg => leaves ?_⟩
  · have hx : streamSelect s = some (streamOf w.data) := by rw [streamSelect, hu, streamOf, hsel]; rfl
    have hk : takeHeader w s = setAssembler (.assembling (newRecord (streamOf w.data) (tagOf w.data))) (dropOpen s) := by
      simp [takeHeader, wordKind_of_whole he hw, hg, hx]
    rw [hk, newRecord, streamOf, hsel, tagOf_eq]
    exact hd.setAssembler _
  · have hx : streamSelect s ≠ some (streamOf w.data) := by
      rw [streamSelect, hu, streamOf]
      exact fun h => hsel (Option.some.inj h).symm
    have hk : takeHeader w s = setAssembler .skipping (dropOpen s) := by simp [takeHeader, wordKind_of_whole he hw, hg, hx]
    exact hk ▸ hd.setAssembler _
  · have hk : takeHeader w s = setAssembler .skipping (dropOpen s) := by
      simp [takeHeader, wordKind_of_part he hw, hg, raiseFlagIf]
    exact hk ▸ hd.setAssembler _
  · have hk : takeHeader w s = setAssembler .skipping (raiseFlag .parity (dropOpen s)) := by
      cases hw : w.whole
      · simp [takeHeader, wordKind_of_part he hw, hg, raiseFlagIf]
      · simp [takeHeader, wordKind_of_whole he hw, hg]
    exact hk ▸ (hd.raiseFlag .parity).setAssembler _

/-! ### Zone words (R74) -/

theorem getLsbD_zoneMark (k j : Fin 32) : (1#32 <<< k.val).getLsbD j.val = decide (j = k) := by
  revert k j
  decide

theorem getLsbD_withZones (r : Assembling) (k : Fin 32) (w : Word) (j : Fin 32) :
    (r.withZones k w).presence.getLsbD j.val = (r.presence.getLsbD j.val || decide (j = k)) := by
  rw [← getLsbD_zoneMark k j]
  exact BitVec.getLsbD_or

theorem getLsbD_withoutZones (r : Assembling) (k : Fin 32) (j : Fin 32) :
    (r.withoutZones k).presence.getLsbD j.val = (r.presence.getLsbD j.val && !decide (j = k)) := by
  rw [← getLsbD_zoneMark k j]
  simp [Assembling.withoutZones, -BitVec.getLsbD_shiftLeft]

/-- A zone word taken while a record is open, by its kind. -/
theorem takeZone_of_open {s : State} {r : Assembling} (k : Fin 32) {w : BusWord} (hr : s.stats.assembler = .assembling r)
    (he : w.empty = false) :
    takeZone k w s =
      if w.good then
        setAssembler (.assembling (if w.whole then r.withZones k w.data else r.withoutZones k)) s
      else poisonZone r k s := by
  cases hw : w.whole <;> cases hg : w.good
  · simp [takeZone, hr, wordKind_of_part he hw, hg]
  · simp [takeZone, hr, wordKind_of_part he hw, hg]
  · simp [takeZone, hr, wordKind_of_whole he hw, hg]
  · simp [takeZone, hr, wordKind_of_whole he hw, hg]

/-- Settles O22: a whole good word gives the record its zones, any other takes their mark away, and bad parity poisons it. -/
theorem zoneWordFillsTheRecord : Obligations.ZoneWordFillsTheRecord := by
  intro k w s he hs
  have leaves {a : State} (n : Near a (takeZone k w s)) : Leaves (.statZoneWord k w) s a :=
    .of_effect (by rw [rowEffect, whenReported_of_some hs]; exact n)
  refine ⟨fun h => leaves ?_, fun r hr => ⟨fun hw hg => ?_, fun hn => ?_⟩⟩
  · have hk : takeZone k w s = s := by rcases h with h | h <;> simp [takeZone, h]
    rw [hk]
    exact .rfl' s
  · refine ⟨r.withZones k w.data, rfl, rfl, rfl, rfl, getLsbD_withZones r k w.data, leaves ?_⟩
    rw [takeZone_of_open k hr he, if_pos hg, if_pos hw]
    exact (Near.rfl' s).setAssembler _
  · cases hg : w.good
    · refine ⟨{ r.withoutZones k with poisoned := true }, rfl, rfl, rfl, by simp, getLsbD_withoutZones r k, leaves ?_⟩
      rw [takeZone_of_open k hr he, hg]
      exact ((Near.rfl' s).setAssembler _).raiseFlagIf (!r.poisoned) .parity
    · refine ⟨r.withoutZones k, rfl, rfl, rfl, by simp [Assembling.withoutZones], getLsbD_withoutZones r k, leaves ?_⟩
      have hw : ¬w.whole = true := fun hw => hn ⟨hw, hg⟩
      rw [takeZone_of_open k hr he, if_pos hg, if_neg hw]
      exact (Near.rfl' s).setAssembler _

/-! ### Closing words that lead to no entry (R75 to R79) -/

/-- A closing word's judgement once its tag agrees and it names no TRIGGERED entry. -/
theorem judgeAgreed_of_issued {s : State} {r : Assembling} {tag : BitVec 16} {e : Entry} (h : matchTag tag s.sched.queue = some e)
    (ht : e.triggered = false) : judgeAgreed r tag s = raiseFlagIf (!r.poisoned) .unknown s := by
  simp [judgeAgreed, h, ht]

theorem judgeAgreed_of_none {s : State} {r : Assembling} {tag : BitVec 16} (h : matchTag tag s.sched.queue = none) :
    judgeAgreed r tag s = if r.poisoned then s else raiseFlag (if lastRetiredTag tag s then .late else .unknown) s := by
  simp [judgeAgreed, h]

theorem judgeAgreed_of_full {s : State} {r : Assembling} {tag : BitVec 16} {e : Entry} (h : matchTag tag s.sched.queue = some e)
    (ht : e.triggered = true) (hp : r.poisoned = false) (hl : s.stats.latched.isSome = true) :
    judgeAgreed r tag s = raiseFlag .overrun s := by
  simp [judgeAgreed, h, ht, hp, hl]

theorem judgeClosed_of_mismatch {s : State} {r : Assembling} {tag : BitVec 16} (h : tag ≠ r.tag) :
    judgeClosed r tag s = raiseFlag .mismatch s := if_pos h

theorem judgeClosed_of_agreed {s : State} {r : Assembling} {tag : BitVec 16} (h : tag = r.tag) :
    judgeClosed r tag s = judgeAgreed r tag s := if_neg (not_not.mpr h)

/-- A poisoned record whose closing word names no TRIGGERED entry raises nothing (R78). -/
theorem judgeAgreed_of_poisoned {s : State} {r : Assembling} {tag : BitVec 16} (hp : r.poisoned = true)
    (h : ∀ e, matchTag tag s.sched.queue = some e → e.triggered = false) : judgeAgreed r tag s = s := by
  cases hm : matchTag tag s.sched.queue with
  | none => simp [judgeAgreed_of_none hm, hp]
  | some e => simp [judgeAgreed_of_issued hm (h e hm), hp, raiseFlagIf]

/-- A closing word taken while a record is open, by its kind (R75). -/
theorem takeClosing_of_part {s : State} {r : Assembling} {w : BusWord} (hr : s.stats.assembler = .assembling r)
    (he : w.empty = false) (hw : w.whole = false) : takeClosing w s = raiseFlag .mismatch (setAssembler .idle s) := by
  simp [takeClosing, hr, wordKind_of_part he hw]

theorem takeClosing_of_good {s : State} {r : Assembling} {w : BusWord} (hr : s.stats.assembler = .assembling r)
    (he : w.empty = false) (hw : w.whole = true) (hg : w.good = true) :
    takeClosing w s = judgeClosed r (w.data.extractLsb' 16 16) (setAssembler .idle s) := by
  simp [takeClosing, hr, wordKind_of_whole he hw, hg, tagOf_eq]

theorem takeClosing_of_bad {s : State} {r : Assembling} {w : BusWord} (hr : s.stats.assembler = .assembling r)
    (he : w.empty = false) (hw : w.whole = true) (hg : w.good = false) :
    takeClosing w s =
      judgeClosed { r with poisoned := true } (w.data.extractLsb' 16 16) (raiseFlagIf (!r.poisoned) .parity (setAssembler .idle s)) := by
  simp [takeClosing, hr, wordKind_of_whole he hw, hg, tagOf_eq]

theorem raiseFlagIf_sched (c : Bool) (f : StickyFlag) (s : State) : (raiseFlagIf c f s).sched = s.sched := by
  unfold raiseFlagIf raiseFlag
  split <;> simp

theorem lastRetiredTag_of_some {s : State} {f : Word} {tag : BitVec 16} (h : s.sched.lastRetired = some f)
    (ht : f.setWidth 16 = tag) : lastRetiredTag tag s = true := by
  simp [lastRetiredTag, h, frameTag_eq, ht]

theorem lastRetiredTag_of_other {s : State} {tag : BitVec 16} (h : ∀ f, s.sched.lastRetired = some f → f.setWidth 16 ≠ tag) :
    lastRetiredTag tag s = false := by
  unfold lastRetiredTag
  split
  · rfl
  · rename_i f hf
    simpa [frameTag_eq] using h f hf

/-- Settles O23: the judgement's tests in their order. -/
theorem closingWordDiscards : Obligations.ClosingWordDiscards := by
  intro w s he hs closed tag names
  have leaves {a : State} (n : Near a (takeClosing w s)) : Leaves (.statClosingWord w) s a :=
    .of_effect (by rw [rowEffect, whenReported_of_some hs]; exact n)
  have hc : Near closed (setAssembler .idle s) := (Near.rfl' s).setAssembler _
  refine ⟨fun h => leaves ?_, fun r hr => ⟨fun hw => leaves ?_, fun hw hg => ?_, fun hw hg => ?_⟩⟩
  · have hk : takeClosing w s = s := by rcases h with h | h <;> simp [takeClosing, h]
    rw [hk]
    exact .rfl' s
  · rw [takeClosing_of_part hr he hw]
    exact hc.raiseFlag .mismatch
  · rw [takeClosing_of_good hr he hw hg] at leaves
    have hm : matchTag tag (setAssembler .idle s).sched.queue = s.sched.queue.find? names := matchTag_eq _ _
    refine ⟨fun ht => leaves ?_, fun ht hp => ?_, fun ht hp => ?_⟩
    · rw [judgeClosed_of_mismatch ht]
      exact hc.raiseFlag .mismatch
    · rw [judgeClosed_of_agreed ht] at leaves
      refine ⟨fun e hf htr => leaves ?_, fun hf => ⟨fun ⟨f, hl, hft⟩ => leaves ?_, fun hl => leaves ?_⟩, fun e hf htr hl => leaves ?_⟩
      · rw [judgeAgreed_of_issued (hm.trans hf) htr, hp]
        exact hc.raiseFlag .unknown
      · rw [judgeAgreed_of_none (hm.trans hf), hp, lastRetiredTag_of_some (s := setAssembler .idle s) hl hft]
        exact hc.raiseFlag .late
      · rw [judgeAgreed_of_none (hm.trans hf), hp, lastRetiredTag_of_other (s := setAssembler .idle s) hl]
        exact hc.raiseFlag .unknown
      · rw [judgeAgreed_of_full (hm.trans hf) htr hp hl]
        exact hc.raiseFlag .overrun
    · rw [judgeClosed_of_agreed ht] at leaves
      refine ⟨fun e hf htr => leaves ?_, fun hf => leaves ?_⟩
      · rw [judgeAgreed_of_poisoned hp fun x hx => ?_]
        · exact hc
        · rw [hm, hf] at hx
          exact Option.some.inj hx ▸ htr
      · rw [judgeAgreed_of_poisoned hp fun x hx => ?_]
        · exact hc
        · rw [hm, hf] at hx
          cases hx
  · rw [takeClosing_of_bad hr he hw hg] at leaves
    have hcp := hc.raiseFlagIf (!r.poisoned) .parity
    refine ⟨fun ht => leaves ?_, fun ht htr => leaves ?_⟩
    · rw [judgeClosed_of_mismatch (r := { r with poisoned := true }) ht]
      exact hcp.raiseFlag .mismatch
    · rw [judgeClosed_of_agreed (r := { r with poisoned := true }) ht, judgeAgreed_of_poisoned rfl fun x hx => ?_]
      · exact hcp
      · rw [raiseFlagIf_sched, matchTag_eq] at hx
        exact htr x hx

end Sys2Proof.Machine
end

section
/-! PROOFS. The level of an issue, due times and exits: the arithmetic of spec 01, 03 and 05. -/

namespace Sys2Proof.Machine

/-! ### The level of an issue (R95, R97 to R103) -/

theorem Segment.clampLevel_eq {c : Segment} (h : c.lo ≤ c.hi) (x : Int) :
    ((c.clampLevel x : Nat) : Int) = max (c.lo : Int) (min (c.hi : Int) x) := by
  rw [Segment.clampLevel, clampInt_eq_max_min (by exact_mod_cast h), Int.toNat_of_nonneg]
  omega

theorem Segment.clampLevel_bounds {c : Segment} (h : c.lo ≤ c.hi) (x : Int) : c.lo ≤ c.clampLevel x ∧ c.clampLevel x ≤ c.hi := by
  have hx := c.clampLevel_eq h x
  omega

/-- Whatever the kind and the mode, the level of an issue is a clamped one. -/
theorem newLevel_clamped (c : Segment) (kind : LevelKind) (bias base : Int) : ∃ x, (newLevel c kind bias base).1 = c.clampLevel x := by
  unfold newLevel
  split
  · exact ⟨_, rfl⟩
  · split
    · exact ⟨_, rfl⟩
    · exact ⟨_, rfl⟩
    · split
      · exact ⟨_, rfl⟩
      · exact ⟨_, rfl⟩

theorem newLevel_of_hold {c : Segment} (h : c.mode = .hold) (m : Option Metering) (bias base : Int) :
    newLevel c (.mode m) bias base = (c.clampLevel base, .noLimit) := by simp [newLevel, h]

theorem newLevel_of_ramp {c : Segment} (h : c.mode = .ramp) (m : Option Metering) (bias base : Int) :
    newLevel c (.mode m) bias base = (c.clampLevel (base + c.rampRate), .noLimit) := by simp [newLevel, h]

theorem newLevel_of_track_unmetered {c : Segment} (h : c.mode = .track) (bias base : Int) :
    newLevel c (.mode none) bias base = (c.clampLevel base, .noLimit) := by simp [newLevel, h]

theorem newLevel_of_track {c : Segment} (h : c.mode = .track) (m : Metering) (bias base : Int) :
    newLevel c (.mode (some m)) bias base =
      (c.clampLevel (base + trackCorrection c bias base m),
        if (c.hi : Int) < base + trackCorrection c bias base m then .high
        else if base + trackCorrection c bias base m < c.lo then .low else .noLimit) := by simp [newLevel, h]

/-- Settles O25: one equation for each mode, and the bounds from the clamp. -/
theorem issueLevelStaysInBounds : Obligations.IssueLevelStaysInBounds := by
  intro c bias base m hlo bounded track
  refine ⟨fun kind => ?_, rfl, fun h x => newLevel_of_hold h x bias base, fun h x => newLevel_of_ramp h x bias base,
    fun h => newLevel_of_track_unmetered h bias base, fun h => ?_, fun x => c.clampLevel_eq hlo x, fun lo hi x h => clampInt_eq_max_min h x⟩
  · obtain ⟨x, hx⟩ := newLevel_clamped c kind bias base
    rw [hx]
    exact Segment.clampLevel_bounds hlo x
  · have ht : base + trackCorrection c bias base m = track := rfl
    rw [newLevel_of_track h, ht]
    refine ⟨rfl, ?_, ?_⟩
    · split
      · simp [*]
      · split <;> simp [*]
    · split
      · simp
        omega
      · split <;> simp [*]

/-! ### Time values (R15, R18, R22, R58) -/

theorem timeOf_toNat {n : Nat} (h : n < 2 ^ 42) : (timeOf n).toNat = n := by
  rw [timeOf, if_pos h, BitVec.toNat_ofNat, Nat.mod_eq_of_lt h]

theorem addTicks_toNat {x : Time} {n : Nat} (h : x.toNat + n < 2 ^ 42) : (addTicks x n).toNat = x.toNat + n := timeOf_toNat h

/-- The next time value at a second of day: its tick, its second of day, and how far ahead it lies. -/
theorem nextSecondOfDay_spec {sod : Nat} (h : sod < 86400) (t : Time) :
    nextSecondOfDay sod t % 1024 = 0 ∧ nextSecondOfDay sod t / 1024 % 86400 = sod ∧ t.toNat < nextSecondOfDay sod t ∧
      nextSecondOfDay sod t ≤ t.toNat + 86400 * 1024 := by
  have hs : t.seconds = t.toNat / 1024 := rfl
  simp only [nextSecondOfDay, secondOfDay, hs]
  split <;> omega

theorem inDailyWindow_iff (start stop x : Nat) :
    inDailyWindow start stop x = true ↔
      if start = stop then True else if start < stop then start ≤ x ∧ x < stop else start ≤ x ∨ x < stop := by
  unfold inDailyWindow
  split
  · simp
  · split <;> simp

theorem deferDaily_inside {start stop : Nat} {x : Time} (h : inDailyWindow start stop (x.seconds % 86400) = true) :
    deferDaily start stop x = (x, false) := if_pos h

theorem deferDaily_outside {start stop : Nat} {x : Time} (h : ¬inDailyWindow start stop (x.seconds % 86400) = true)
    (hs : start < 86400) (hx : x.toNat + 86400 * 1024 < 2 ^ 42) :
    ∃ due : Time, deferDaily start stop x = (due, true) ∧ due.tick = 0 ∧ due.seconds % 86400 = start ∧
      x.toNat < due.toNat ∧ due.toNat ≤ x.toNat + 86400 * 1024 := by
  obtain ⟨htick, hsod, hlt, hle⟩ := nextSecondOfDay_spec hs x
  have hn : (timeOf (nextSecondOfDay start x)).toNat = nextSecondOfDay start x := timeOf_toNat (by omega)
  refine ⟨timeOf (nextSecondOfDay start x), if_neg h, ?_, ?_, by rw [hn]; exact hlt, by rw [hn]; exact hle⟩
  · rw [Time.tick, hn, htick]
  · rw [Time.seconds, hn, hsod]

/-! ### The due time of an ordinary issue (R15, R17, R18) -/

/-- The advances of a candidate past the present time are the fewest that pass it (R17). -/
theorem skipCount_spec {cand : Time} {iv : Nat} {now : Time} (h : 0 < iv) :
    now.toNat < cand.toNat + skipCount cand iv now * iv ∧
      (0 < skipCount cand iv now → cand.toNat + skipCount cand iv now * iv ≤ now.toNat + iv) := by
  unfold skipCount notLater
  by_cases hle : cand.toNat ≤ now.toNat
  · have hd := Nat.div_add_mod (now.toNat - cand.toNat) iv
    have hm := Nat.mod_lt (now.toNat - cand.toNat) h
    have hc : iv * ((now.toNat - cand.toNat) / iv) = (now.toNat - cand.toNat) / iv * iv := Nat.mul_comm _ _
    simp only [hle, decide_true, if_true, Nat.succ_mul]
    omega
  · simp [hle]
    omega

theorem advancePast_toNat {cand : Time} {iv : Nat} {now : Time} (h : 0 < iv)
    (hn : now.toNat + iv < 2 ^ 42) : (advancePast cand iv now).toNat = cand.toNat + skipCount cand iv now * iv := by
  unfold advancePast
  split
  · have hp : 0 < skipCount cand iv now := by simp [skipCount, *]
    exact addTicks_toNat (by have := (skipCount_spec (cand := cand) (now := now) h).2 hp; omega)
  · simp [skipCount, *]

/-- Settles O45: the candidate, the fewest advances past the present time, then the daily window. -/
theorem ordinaryDueTime : Obligations.OrdinaryDueTime := by
  refine ⟨fun x n h => addTicks_toNat h, fun start stop x => ⟨fun h => deferDaily_inside ((inDailyWindow_iff _ _ _).mpr h),
    fun h hs hx => deferDaily_outside (mt (inDailyWindow_iff _ _ _).mp h) hs hx⟩, ?_⟩
  intro base c s hbase interval now window hpos hfrom hb hn d advanced
  have hiv : effectiveInterval s c = interval := rfl
  have hnow : now = s.tb.time.toNat := rfl
  have hskips : d.skips = skipCount (candidateDue s c) interval s.tb.time := rfl
  have hadvanced : advanced = base.toNat + interval + d.skips * interval := rfl
  have hprovisional : provisionalDue s c = advancePast (candidateDue s c) interval s.tb.time := rfl
  have hprov : d.due = (deferDaily s.sched.dailyFrom s.sched.dailyTo (provisionalDue s c)).1 := rfl
  have hdef : d.deferred = (deferDaily s.sched.dailyFrom s.sched.dailyTo (provisionalDue s c)).2 := rfl
  have hstretch : d.stretched = decide (s.supply.state = .low) := rfl
  clear_value advanced d interval now
  have hcand : (candidateDue s c).toNat = base.toNat + interval := by
    rw [candidateDue, chainBaseOrNow, hbase, hiv]
    exact addTicks_toNat (x := base) (by omega)
  obtain ⟨hlt, hle⟩ := skipCount_spec (cand := candidateDue s c) (now := s.tb.time) hpos
  rw [hcand, ← hskips, ← hadvanced, ← hnow] at hlt hle
  have hadv : (provisionalDue s c).toNat = advanced := by
    rw [hprovisional, advancePast_toNat hpos (by omega), hcand, ← hskips, ← hadvanced]
  have hsod : (provisionalDue s c).seconds % 86400 = advanced / 1024 % 86400 := by rw [Time.seconds, hadv]
  have hbound : advanced + 86400 * 1024 < 2 ^ 42 := by
    rcases Nat.eq_zero_or_pos d.skips with h0 | h0
    · rw [h0, Nat.zero_mul] at hadvanced
      omega
    · have := hle h0
      omega
  refine ⟨hadv, hlt, hle, hstretch, fun hw => ?_, fun hw => ?_⟩
  · rw [hprov, hdef, deferDaily_inside (by rw [hsod]; exact (inDailyWindow_iff _ _ _).mpr hw)]
    exact ⟨hadv, rfl⟩
  · obtain ⟨due, he, htick, hsec, h1, h2⟩ := deferDaily_outside (start := s.sched.dailyFrom) (stop := s.sched.dailyTo)
      (x := provisionalDue s c) (by rw [hsod]; exact mt (inDailyWindow_iff _ _ _).mp hw) hfrom (by omega)
    rw [hadv] at h1 h2
    rw [hprov, hdef, he]
    exact ⟨rfl, htick, hsec, h1, h2⟩

/-! ### Exits (R34, R56 to R59, R61) -/

theorem readableCopy_of_absent {k : PlanCache} {n : Nat} (h : k.entry? n = none) : readableCopy k (some n) = none := by
  simp [readableCopy, h]

theorem readableCopy_of_entry {k : PlanCache} {n : Nat} {e : CacheEntry} (h : k.entry? n = some e) :
    readableCopy k (some n) = if e.state = .valid ∨ e.state = .fault then e.record else none := by
  simp [readableCopy, h]

theorem exitMet_of_clock {g : SegmentControl} {c : Segment} (h : c.exitKind = .clock) {entry : Time} (he : g.entryTime = some entry)
    (p : Time) : exitMet g c p = true ↔ nextSecondOfDay c.exitParam entry ≤ p.toNat := by
  have hm : exitMet g c p = decide (nextSecondOfDay c.exitParam entry ≤ p.toNat) := by
    simp only [exitMet, h, he] <;> rfl
  rw [hm]
  exact decide_eq_true_iff

theorem exitMet_of_hold {g : SegmentControl} {c : Segment} (h : c.exitKind = .above ∨ c.exitKind = .below ∨ c.exitKind = .limit)
    (p : Time) : exitMet g c p = true ↔ c.holdCount ≤ g.hold := by
  rcases h with h | h | h <;> simp [exitMet, h]

theorem holdAfter_metered (c : Segment) (hold el : Nat) (l : Limit) :
    holdAfter (some c) hold el l .metered =
      match c.exitKind with
      | .above => if c.exitParam ≤ el then min 255 (hold + 1) else 0
      | .below => if el ≤ c.exitParam then min 255 (hold + 1) else 0
      | .limit => if l = .noLimit then 0 else min 255 (hold + 1)
      | .frames => hold
      | .clock => hold
      | .never => hold := rfl

theorem Limit.eq_noLimit_iff (l : Limit) : l = .noLimit ↔ ¬(l = .high ∨ l = .low) := by cases l <;> simp

/-- Settles O44: each exit kind by its own equation. -/
theorem exitConditions : Obligations.ExitConditions := by
  refine ⟨fun k => ⟨rfl, fun n => ⟨readableCopy_of_absent, fun e he => ⟨fun h => ?_, fun h => ?_⟩⟩⟩, fun g c p =>
    ⟨by simp [exitDecided], fun h => by simp [exitMet, h], fun h => by simp [exitMet, h], fun h => exitMet_of_hold h p,
      fun h hp entry he => ?_, fun el l o => ⟨fun ho => holdAfter_of_not_metered ho .., ?_, rfl⟩⟩⟩
  · rw [readableCopy_of_entry he, if_pos h]
  · rw [readableCopy_of_entry he, if_neg (by rcases h with h | h | h <;> simp [h])]
  · obtain ⟨h1, h2, h3, h4⟩ := nextSecondOfDay_spec hp entry
    exact ⟨_, h1, h2, h3, h4, exitMet_of_clock h he p⟩
  · rintro rfl
    rw [holdAfter_metered]
    refine ⟨fun h => by rw [h], fun h => by rw [h], fun h => ?_, fun h => by rcases h with h | h | h <;> rw [h]⟩
    rw [h]
    simp only [Limit.eq_noLimit_iff, ite_not]

end Sys2Proof.Machine
end

section
/-! PROOFS. Snooped control words, due times and deadlines of the order queue, and the crystal. -/

namespace Sys2Proof.Machine

/-! ### Good words (R139) -/

/-- The parity of a count of ones, bit by bit. -/
theorem odd_ones (b0 b1 b2 b3 b4 b5 b6 b7 p : Bool) :
    (p == !(b0 ^^ b1 ^^ b2 ^^ b3 ^^ b4 ^^ b5 ^^ b6 ^^ b7)) =
      decide ((b0.toNat + b1.toNat + b2.toNat + b3.toNat + b4.toNat + b5.toNat + b6.toNat + b7.toNat +
        (if p then 1 else 0)) % 2 = 1) := by
  have h (x : Bool) (n : Nat) : decide ((n + x.toNat) % 2 = 1) = (decide (n % 2 = 1) ^^ x) := by
    cases x
    · simp
    · by_cases hn : n % 2 = 1
      · have : (n + 1) % 2 = 0 := by omega
        simp [hn, this]
      · have : (n + 1) % 2 = 1 := by omega
        simp [hn, this]
  have hp : (if p then 1 else 0) = p.toNat := by cases p <;> rfl
  have h0 : decide (b0.toNat % 2 = 1) = b0 := by cases b0 <;> rfl
  rw [hp, h, h, h, h, h, h, h, h, h0]
  cases (b0 ^^ b1 ^^ b2 ^^ b3 ^^ b4 ^^ b5 ^^ b6 ^^ b7) <;> cases p <;> rfl

theorem length_filter_eight (f : Nat → Bool) :
    ((List.range 8).filter f).length =
      (f 0).toNat + (f 1).toNat + (f 2).toNat + (f 3).toNat + (f 4).toNat + (f 5).toNat + (f 6).toNat + (f 7).toNat := by
  have h (l : List Nat) (x : Nat) : ((l ++ [x]).filter f).length = (l.filter f).length + (f x).toNat := by
    rw [List.filter_append, List.length_append]
    cases hf : f x <;> simp [hf]
  have hr : List.range 8 = [] ++ [0] ++ [1] ++ [2] ++ [3] ++ [4] ++ [5] ++ [6] ++ [7] := rfl
  rw [hr]
  simp only [h]
  simp

theorem getLsbD_byteOf (w : Word) (i j : Nat) (hj : j < 8) : (byteOf w i).getLsbD j = w.getLsbD (8 * i + j) := by
  simp [byteOf, hj]

theorem byteGood_iff (w : BusWord) (i : Nat) :
    byteGood w i = true ↔
      (((List.range 8).filter fun j => w.data.getLsbD (8 * i + j)).length + (if w.parity.getLsbD i then 1 else 0)) % 2 = 1 := by
  rw [byteGood, oddParityBit, odd_ones, length_filter_eight, decide_eq_true_iff]
  simp only [getLsbD_byteOf _ _ _ (by decide : (0 : Nat) < 8), getLsbD_byteOf _ _ _ (by decide : (1 : Nat) < 8),
    getLsbD_byteOf _ _ _ (by decide : (2 : Nat) < 8), getLsbD_byteOf _ _ _ (by decide : (3 : Nat) < 8),
    getLsbD_byteOf _ _ _ (by decide : (4 : Nat) < 8), getLsbD_byteOf _ _ _ (by decide : (5 : Nat) < 8),
    getLsbD_byteOf _ _ _ (by decide : (6 : Nat) < 8), getLsbD_byteOf _ _ _ (by decide : (7 : Nat) < 8)]

theorem BusWord.good_iff (w : BusWord) : w.good = true ↔ ∀ i < 4, w.enables.getLsbD i = true → byteGood w i = true := by
  have hb (i : Nat) : (!w.enables.getLsbD i || byteGood w i) = true ↔ (w.enables.getLsbD i = true → byteGood w i = true) := by
    cases w.enables.getLsbD i <;> simp
  simp only [BusWord.good, Bool.and_eq_true, hb]
  refine ⟨fun ⟨⟨⟨h0, h1⟩, h2⟩, h3⟩ i hi => ?_, fun h => ⟨⟨⟨h 0 (by decide), h 1 (by decide)⟩, h 2 (by decide)⟩, h 3 (by decide)⟩⟩
  obtain rfl | rfl | rfl | rfl : i = 0 ∨ i = 1 ∨ i = 2 ∨ i = 3 := by omega
  · exact h0
  · exact h1
  · exact h2
  · exact h3

theorem wholeGood_iff (w : BusWord) : BusWord.wholeGood w = true ↔ w.whole = true ∧ w.good = true := by
  simp [BusWord.wholeGood]

/-! ### Snooped words (R140 to R143) -/

theorem takeArgument_of_good {w : BusWord} (he : w.empty = false) (hg : BusWord.wholeGood w = true) (i : ArgIndex) (s : State) :
    takeArgument i w s = s.modPath fun p => p.setArg i w.data := by simp [takeArgument, he, hg]

theorem takeArgument_of_damaged {w : BusWord} (he : w.empty = false) (hg : BusWord.wholeGood w = false) (i : ArgIndex) (s : State) :
    takeArgument i w s = busAnomaly s := by simp [takeArgument, he, hg]

theorem takeDamaged_of_damaged {w : BusWord} (he : w.empty = false) (hg : BusWord.wholeGood w = false) (s : State) :
    takeDamaged w s = busAnomaly s := by simp [takeDamaged, he, hg]

theorem takeConsumer_of_none {s : State} (h : s.path.log = none) (w : BusWord) : takeConsumer w s = s := by
  simp [takeConsumer, Path.capacity, h]

theorem takeConsumer_of_some {s : State} {v : Window} {w : BusWord} (h : s.path.log = some v) (he : w.empty = false) :
    takeConsumer w s =
      if BusWord.wholeGood w = true ∧ w.data.toNat < v.logCapacity then s.modPath fun p => { p with consumer := some w.data.toNat }
      else busAnomaly s := by
  simp [takeConsumer, Path.capacity, h, he]

/-- Settles O26: a whole good word is taken, any other counts one anomaly. -/
theorem controlWordsSnooped : Obligations.ControlWordsSnooped := by
  refine ⟨fun w => ⟨by simp [BusWord.whole], by simp [BusWord.empty], ?_⟩, fun i w s he => ?_⟩
  · rw [BusWord.good_iff]
    simp only [byteGood_iff]
  intro anomaly
  have anomalous {c : Instr} (h : rowEffect c s = busAnomaly s) : anomaly c :=
    .of_effect (h ▸ near_raiseEvent .busAnomaly s) (h ▸ raiseEvent_stands .busAnomaly s)
  refine ⟨fun hr => ⟨leaves_in_reset (f := takeArgument i w) rfl hr, leaves_in_reset (f := takeDamaged w) rfl hr⟩, fun hr hw hg => ?_,
    fun hr hn => ?_, fun hl => .of_effect (by rw [rowEffect, takeConsumer_of_none hl]; exact .rfl' s), fun v hv => ⟨fun hw hg hc => ?_, fun hn => ?_⟩⟩
  · refine .of_effect ?_
    rw [rowEffect, outsideReset_of_running hr, takeArgument_of_good he ((wholeGood_iff w).mpr ⟨hw, hg⟩)]
    cases i <;> exact .rfl' _
  · have hd : BusWord.wholeGood w = false := by rwa [← Bool.not_eq_true, wholeGood_iff]
    exact ⟨anomalous (by rw [rowEffect, outsideReset_of_running hr, takeArgument_of_damaged he hd]),
      anomalous (by rw [rowEffect, outsideReset_of_running hr, takeDamaged_of_damaged he hd])⟩
  · refine .of_effect ?_
    rw [rowEffect, takeConsumer_of_some hv he, if_pos ⟨(wholeGood_iff w).mpr ⟨hw, hg⟩, hc⟩]
    exact .rfl' _
  · refine anomalous ?_
    rw [rowEffect, takeConsumer_of_some hv he, if_neg]
    rw [wholeGood_iff, and_assoc]
    exact hn

/-! ### Due times and deadlines (R19, R20, R22, R23) -/

theorem capturing_iff (r : RunState) : r.capturing = true ↔ r = .running ∨ r = .faultHold := by
  cases r <;> simp [RunState.capturing]

theorem statWait_of_tuning {s : State} {u : Tuning} (h : s.config.tuning = some u) : statWait s = u.statWait := by
  simp [statWait, h]

/-- The ticks of a statistics deadline cover its microseconds, rounded up (R22). -/
theorem deadlineTicks_spec (us ms : Nat) :
    (us + 1000 * ms) * 16 ≤ deadlineTicks us ms * 15625 ∧ deadlineTicks us ms * 15625 < (us + 1000 * ms) * 16 + 15625 := by
  unfold deadlineTicks
  omega

theorem dueNow_of_first {s : State} {e : Entry} (h : firstDueEntry s = some e) : dueNow s = comeDue e s := by simp [dueNow, h]

theorem dueNow_of_none {s : State} (h : firstDueEntry s = none) : dueNow s = s := by simp [dueNow, h]

theorem deadlineNow_of_first {s : State} {e : Entry} (h : firstAtDeadline s = some e) :
    deadlineNow s = retireNow e .unmetered (settledCause e .timeout) none false s := by simp [deadlineNow, h]

theorem deadlineNow_of_none {s : State} (h : firstAtDeadline s = none) : deadlineNow s = s := by simp [deadlineNow, h]

theorem comeDue_of_canTrigger {s : State} {e : Entry} (hc : s.sched.runState.capturing = true) (ho : s.session.state = .open)
    (ha : e.armed = true) : comeDue e s = triggerEntry e s := by simp [comeDue, canTrigger, hc, ho, ha]

theorem comeDue_of_missed {s : State} {e : Entry}
    (h : ¬(s.sched.runState.capturing = true ∧ s.session.state = .open ∧ e.armed = true)) :
    comeDue e s = retireNow e .missed (missedCause s) none false s := by
  have hc : canTrigger e s = false := by
    rw [canTrigger]
    by_contra hn
    simp only [Bool.not_eq_false, Bool.and_eq_true, decide_eq_true_eq] at hn
    exact h ⟨hn.1.1, hn.1.2, hn.2⟩
  simp [comeDue, hc]

/-- Settles O28: the trigger's row by its fields, the deadline by its ticks. -/
theorem dueTimeTriggersAnArmedEntry : Obligations.DueTimeTriggersAnArmedEntry := by
  refine fun s => ⟨.of_effect (.rfl' _), fun e u hf hrun ho ha hu => ?_⟩
  obtain ⟨h1, h2⟩ := deadlineTicks_spec e.shutterUs u.statWait
  refine ⟨deadlineTicks e.shutterUs u.statWait, addTicks e.due (deadlineTicks e.shutterUs u.statWait), h1, h2,
    fun h => addTicks_toNat h, rfl, .of_effect ?_⟩
  have hx : rowEffect .dueTime s = triggerEntry e s :=
    (dueNow_of_first hf).trans (comeDue_of_canTrigger ((capturing_iff _).mpr hrun) ho ha)
  rw [hx, triggerEntry, restartTimer_of_open (by exact ho), statWait_of_tuning hu]
  exact .rfl' _

/-- A retirement that is not METERED leaves the segment as it was. -/
theorem retired_of_not_metered {o : FrameOutcome} (h : o ≠ .metered) (e : Entry) (s : State) :
    retired e o s = { s with sched := (retired e o s).sched } := by
  have hh := holdAfter_of_not_metered h s.seg.copyRead s.seg.hold e.el e.limit
  rw [retired, hh]

/-- Settles O29: each row is a retirement, or nothing. -/
theorem dueTimesAndDeadlinesRetire : Obligations.DueTimesAndDeadlinesRetire := by
  refine ⟨fun e => ⟨rfl, fun x => rfl⟩, fun s => ?_⟩
  intro due late gone
  refine ⟨fun e he hn => ?_, fun h => ?_, fun e he => ?_, fun h => ?_⟩
  · have hx : rowEffect .dueTime s = retireNow e .missed (missedCause s) none false s :=
      (dueNow_of_first he).trans (comeDue_of_missed (by rwa [capturing_iff]))
    refine .of_effect ?_ (hx ▸ retireNow_stands ..)
    rw [hx]
    have hr := near_retireNow e .missed (missedCause s) none false s
    rw [retired_of_not_metered (by decide)] at hr
    simp only [retired, capturing_iff] at hr
    exact hr
  · exact .of_effect (by rw [rowEffect, dueNow_of_none h]; exact .rfl' s)
  · have hx : rowEffect .statisticsDeadline s = retireNow e .unmetered (settledCause e .timeout) none false s :=
      deadlineNow_of_first he
    refine .of_effect ?_ (hx ▸ retireNow_stands ..)
    rw [hx]
    have hr := near_retireNow e .unmetered (settledCause e .timeout) none false s
    rw [retired_of_not_metered (by decide)] at hr
    simp only [retired, capturing_iff] at hr
    exact hr
  · exact .of_effect (by rw [rowEffect, deadlineNow_of_none h]; exact .rfl' s)

/-! ### The crystal (R132) -/

theorem crystalStopped_of_crystal {s : State} (h : s.tb.source = .crystal) :
    crystalStopped s = fallBack (s.modTb fun y => { y with crystalRunning := false, sinceStop := 0 }) := if_pos h

theorem crystalStopped_of_rc {s : State} (h : s.tb.source = .rc) :
    crystalStopped s = s.modTb fun y => { y with crystalRunning := false, sinceStop := 0 } := by
  simp [crystalStopped, h]

/-- Settles O38: the source decides the stop, the count of ticks the running. -/
theorem crystalStopFallsBackToRc : Obligations.CrystalStopFallsBackToRc := by
  intro s
  refine ⟨fun hr => ⟨fun hs => ?_, fun hs => ?_, fun ht => ?_, fun ht => ?_⟩, fun hr =>
    ⟨leaves_in_reset (f := crystalStopped) rfl hr, leaves_in_reset (f := guarded s.tb.runsSteadily crystalRuns) rfl hr⟩⟩
  · have hx : rowEffect .crystalStop s = _ := (outsideReset_of_running hr _).trans (crystalStopped_of_crystal hs)
    refine .of_effect ?_ (hx ▸ requestStatus_stands _)
    rw [hx]
    exact (near_raiseEvent .timeDegraded _).requestStatus
  · refine .of_effect ?_
    rw [rowEffect, outsideReset_of_running hr, crystalStopped_of_rc hs]
    exact .rfl' _
  · refine .of_effect ?_
    have hc : s.tb.runsSteadily = true := decide_eq_true ht
    rw [rowEffect, outsideReset_of_running hr, guarded, if_pos hc]
    exact .rfl' _
  · refine .of_effect ?_
    have hc : ¬s.tb.runsSteadily = true := by simpa [TimeBase.runsSteadily] using ht
    rw [rowEffect, outsideReset_of_running hr, guarded, if_neg hc]
    exact .rfl' s

end Sys2Proof.Machine
end

section
/-! PROOFS. The supply sample judged (spec 07), in a wake, a forced sleep, a close and a recheck. -/

namespace Sys2Proof.Machine

/-! ### Suspension and resumption (R7, R130) -/

theorem any_isStart_eq_false (l : List Origin) : ¬l.any Origin.isStart = true ↔ ∀ o ∈ l, o.isStart = false := by
  simp

/-- The supply's entry into CRITICAL suspends the run as the statements have it. -/
theorem Near.suspendRun {a b : State} (h : Near a b) : Near (suspended a) (suspendRun b) := by
  unfold suspended Machine.suspendRun suspendCapturing
  rw [h.run.sched]
  simp only [any_isStart_eq_false]
  split
  · rename_i hc
    rw [suspendNow_eq _ (by rw [h.run.sched]; exact hc.1)]
    have hn := near_freed ((h.modSched fun q =>
      { q with
        runState := .suspended, resumeState := some a.sched.runState, owed := [], heldCopy := none, startRequest := none }).modSeg
          fun g => { g with decided := none })
    exact hn.requestStatus
  · exact h

theorem setRunState_of_ne {r : RunState} {s : State} (h : s.sched.runState ≠ r) :
    setRunState r s = requestStatus (s.modSched fun q => { q with runState := r }) := if_neg h

theorem resumptionIssues_eq (d n : Nat) :
    resumptionIssues (d - n) =
      if d ≤ n then [] else .resumption true :: List.replicate (d - n - 1) (.resumption false) := by
  split
  · rename_i h
    rw [Nat.sub_eq_zero_of_le h]
    rfl
  · rename_i h
    obtain ⟨m, hm⟩ : ∃ m, d - n = m + 1 := ⟨d - n - 1, by omega⟩
    rw [hm]
    rfl

/-- The supply's return to LOW resumes the run as the statements have it. -/
theorem Near.resumeRun {a b : State} (h : Near a b) : Near (resumed a) (resumeRun b) := by
  unfold resumed Machine.resumeRun
  rw [h.run.sched, h.cache, watchedFault_congr h.cache h.run.seg]
  split
  · rename_i hs
    dsimp only
    generalize hr : (if a.sched.resumeState = some .faultHold then _ else _ : RunState) = r
    have hne : r ≠ .suspended := by
      rw [← hr]
      (repeat' split) <;> decide
    simp only [resumptionIssues_eq]
    have hb : ¬b.sched.runState = r := by
      rw [h.run.sched, hs]
      exact fun he => hne he.symm
    rw [setRunState_of_ne (by exact hb)]
    exact (h.modSched fun q =>
      { q with
        resumeState := none, runState := r
        owed :=
          if q.depth ≤ q.queue.length then []
          else .resumption true :: List.replicate (q.depth - q.queue.length - 1) (.resumption false) }).requestStatus
  · exact h

theorem suspendRun_stands {s : State} (h : StatusStands s) : StatusStands (suspendRun s) := suspendCapturing_stands _ h

theorem resumeRun_stands {s : State} (h : StatusStands s) : StatusStands (resumeRun s) := by
  unfold resumeRun
  split
  · exact setRunState_stands _ h
  · exact h

/-! ### A sample judged (R127 to R130) -/

/-- An event noted in the statements is near its counting: the deferred alert mark is not among what follows from it. -/
theorem near_noted (k : EventClass) (s : State) : Near (countEvent k s) (noted k s) := by
  unfold noted
  dsimp only
  split
  · exact ⟨⟨rfl, rfl, rfl, rfl, rfl, rfl, rfl, rfl, rfl, rfl, rfl, rfl⟩, ⟨rfl, rfl, rfl⟩, rfl, .inl ⟨rfl, rfl⟩, rfl⟩
  · exact .rfl' _

theorem noted_near (k : EventClass) (s : State) : Near (noted k s) (countEvent k s) := by
  unfold noted
  dsimp only
  split
  · exact ⟨⟨rfl, rfl, rfl, rfl, rfl, rfl, rfl, rfl, rfl, rfl, rfl, rfl⟩, ⟨rfl, rfl, rfl⟩, rfl, .inl ⟨rfl, rfl⟩, rfl⟩
  · exact .rfl' _

/-- An event raised after a STATUS_WRITE is near the event noted. -/
theorem near_raise_noted (k : EventClass) (s : State) : Near (noted k s) (raiseEvent k (requestStatus s)) :=
  (noted_near k s).trans ((near_requestStatus s).raiseEvent k)

/-- A supply that changes its state, with the lines of R128 by the state left and the state entered. -/
theorem near_changeSupply_critical {s : State} :
    Near
      (suspended (noted .battCrit
        { s with
          supply :=
            { s.supply with
              state := .critical
              recheck := some (s.tb.elapsed + BitVec.ofNat 48 (s.config.settings.recheckPeriod * 1024)) } }))
      (changeSupply .critical (some .battCrit) s) := (near_raise_noted _ _).suspendRun

theorem near_changeSupply_low {s : State} (h : s.supply.state ≠ .critical) :
    Near (noted .battLow { s with supply := { s.supply with state := .low, recheck := none } })
      (changeSupply .low (some .battLow) s) := by
  have hc : changeSupply .low (some .battLow) s =
      raiseEvent .battLow (requestStatus { s with supply := { s.supply with state := .low, recheck := none } }) := by
    simp [changeSupply, h, raiseOptional]
    rfl
  rw [hc]
  exact near_raise_noted _ _

theorem near_changeSupply_recovered {s : State} (h : s.supply.state = .critical) :
    Near (resumed (noted .battLow { s with supply := { s.supply with state := .low, recheck := none } }))
      (changeSupply .low (some .battLow) s) := by
  have hc : changeSupply .low (some .battLow) s =
      resumeRun (raiseEvent .battLow (requestStatus { s with supply := { s.supply with state := .low, recheck := none } })) := by
    simp [changeSupply, h, raiseOptional]
    rfl
  rw [hc]
  exact (near_raise_noted _ _).resumeRun

theorem near_changeSupply_normal {s : State} (h : s.supply.state ≠ .critical) :
    Near { s with supply := { s.supply with state := .normal, recheck := none } } (changeSupply .normal none s) := by
  have hc : changeSupply .normal none s = requestStatus { s with supply := { s.supply with state := .normal, recheck := none } } := by
    simp [changeSupply, h, raiseOptional]
    rfl
  rw [hc]
  exact near_requestStatus _

/-- A sample judged by the model is near the sample judged by the rows of R128. -/
theorem near_sampleSupply (battery : Nat) (s : State) : Near (supplyJudged battery s) (sampleSupply battery s) := by
  have hs : sampleSupply battery s =
      let j := judgeSample s.config.settings s.supply.state (min battery 8191)
      if j.1 = s.supply.state then sampled battery s else changeSupply j.1 j.2 (sampled battery s) := rfl
  rw [hs]
  unfold supplyJudged
  cases hst : s.supply.state with
  | normal =>
    simp only [judgeSample]
    split
    · exact near_changeSupply_critical (s := sampled battery s)
    · split
      · exact near_changeSupply_low (s := sampled battery s) (by simp [sampled, hst])
      · exact .rfl' _
  | low =>
    simp only [judgeSample]
    split
    · exact near_changeSupply_critical (s := sampled battery s)
    · split
      · exact near_changeSupply_normal (s := sampled battery s) (by simp [sampled, hst])
      · exact .rfl' _
  | critical =>
    simp only [judgeSample]
    split
    · exact near_changeSupply_recovered (s := sampled battery s) (by simp [sampled, hst])
    · exact .rfl' _

end Sys2Proof.Machine
end

section
/-! PROOFS. The rows that take a supply sample: the controller step of a wake, the forced sleep and the recheck. -/

namespace Sys2Proof.Machine

/-! ### Near states of an awake session -/

/-- The session of near states changed alike, where no alert has begun a wake between them. -/
theorem Near.modSession {a b : State} (h : Near a b) (hs : SameSession a b) (f : Session → Session)
    (hc : ∀ x y : Session, y.course = x.course → (f y).course = (f x).course)
    (ht : ∀ x y : Session, y.tally = x.tally → (f y).tally = (f x).tally) : Near (a.modSession f) (b.modSession f) := by
  have k := h.fixed
  exact ⟨⟨k.board, k.tb, k.supply, k.shown, k.kept, ht _ _ k.tally, k.table, k.cmd, k.config, k.ram, k.freeCount, k.pending⟩,
    ⟨h.run.sched, h.run.seg, h.run.expo⟩, h.cache, .inl ⟨hc _ _ hs.course, hs.pins⟩, h.latched⟩

theorem Near.modPins {a b : State} (h : Near a b) (hs : SameSession a b) (f : Pins → Pins) : Near (a.modPins f) (b.modPins f) := by
  have k := h.fixed
  exact ⟨⟨by simp [hs.pins], k.tb, k.supply, k.shown, k.kept, k.tally, k.table, k.cmd, k.config, k.ram, k.freeCount, k.pending⟩,
    ⟨h.run.sched, h.run.seg, h.run.expo⟩, h.cache, .inl ⟨hs.course, by simp [hs.pins]⟩, h.latched⟩

theorem SameSession.modPins {a b : State} (h : SameSession a b) (f : Pins → Pins) : SameSession (a.modPins f) (b.modPins f) :=
  ⟨h.course, by simp [h.pins]⟩

/-- In an awake session near states have the same session and lines. -/
theorem Near.awake {a b : State} (h : Near a b) (ha : a.session.asleep = false) : SameSession a b := h.session.same (.inl ha)

/-- A wake's phase set in near states of an awake session. -/
theorem Near.modPhase {a b : State} (h : Near a b) (ha : a.session.asleep = false) (p : WakePhase) :
    Near (a.modSession fun x => { x with phase := p }) (b.modSession fun x => { x with phase := p }) := by
  refine h.modSession (h.awake ha) _ (fun x y e => ?_) fun x y e => e
  calc ({ y with phase := p } : Session).course = { y.course with phase := p } := rfl
    _ = { x.course with phase := p } := by rw [e]
    _ = _ := rfl

/-! ### The judged sample and the other changes of its row -/

theorem map_ite {α β : Type} (f : α → β) {c : Prop} [Decidable c] {x y : α} {x' y' : β} (hx : f x = x') (hy : f y = y') :
    f (if c then x else y) = if c then x' else y' := by
  split
  · exact hx
  · exact hy

theorem noted_modPhase (k : EventClass) (p : WakePhase) (s : State) :
    (noted k s).modSession (fun x => { x with phase := p }) = noted k (s.modSession fun x => { x with phase := p }) := by
  exact map_ite _ rfl rfl

theorem suspended_modPhase (p : WakePhase) (s : State) :
    (suspended s).modSession (fun x => { x with phase := p }) = suspended (s.modSession fun x => { x with phase := p }) := by
  exact map_ite _ rfl rfl

theorem resumed_modPhase (p : WakePhase) (s : State) :
    (resumed s).modSession (fun x => { x with phase := p }) = resumed (s.modSession fun x => { x with phase := p }) := by
  exact map_ite _ rfl rfl

/-- The phase of a wake has no part in the judgement of a sample. -/
theorem supplyJudged_modPhase (battery : Nat) (p : WakePhase) (s : State) :
    (supplyJudged battery s).modSession (fun x => { x with phase := p }) =
      supplyJudged battery (s.modSession fun x => { x with phase := p }) := by
  have hs : (s.modSession fun x => { x with phase := p }).supply.state = s.supply.state := rfl
  have hcritical (t : State) : (suspended (noted .battCrit t)).modSession (fun x => { x with phase := p }) =
      suspended (noted .battCrit (t.modSession fun x => { x with phase := p })) :=
    (suspended_modPhase p _).trans (congrArg suspended (noted_modPhase .battCrit p t))
  have hrecovered (t : State) : (resumed (noted .battLow t)).modSession (fun x => { x with phase := p }) =
      resumed (noted .battLow (t.modSession fun x => { x with phase := p })) :=
    (resumed_modPhase p _).trans (congrArg resumed (noted_modPhase .battLow p t))
  unfold supplyJudged
  rw [hs]
  cases s.supply.state with
  | normal => exact map_ite _ (hcritical _) (map_ite _ (noted_modPhase .battLow p _) rfl)
  | low => exact map_ite _ (hcritical _) (map_ite _ rfl rfl)
  | critical => exact map_ite _ (hrecovered _) rfl

theorem noted_course (k : EventClass) (s : State) : (noted k s).session.course = s.session.course := by
  unfold noted
  dsimp only
  split <;> rfl

theorem suspended_session (s : State) : (suspended s).session = s.session := by
  unfold suspended
  split <;> rfl

theorem resumed_session (s : State) : (resumed s).session = s.session := by
  unfold resumed
  split <;> rfl

/-- A judged sample leaves the session, its counts, marks and the deferred alert apart. -/
theorem supplyJudged_course (battery : Nat) (s : State) : (supplyJudged battery s).session.course = s.session.course := by
  unfold supplyJudged
  cases s.supply.state
  all_goals dsimp only
  all_goals (repeat' split)
  all_goals first
    | rfl
    | rw [suspended_session, noted_course]; rfl
    | rw [noted_course]; rfl
    | rw [resumed_session, noted_course]; rfl

/-- A sample below crit with the supply not CRITICAL (R128). -/
theorem supplyJudged_of_critical {battery : Nat} {s : State} (hs : s.supply.state ≠ .critical)
    (hm : min battery 8191 < s.config.settings.crit) :
    supplyJudged battery s =
      suspended (noted .battCrit
        { s with
          pins := { s.pins with batterySense := battery }
          supply :=
            { state := .critical, lastSample := min battery 8191
              recheck := some (s.tb.elapsed + BitVec.ofNat 48 (s.config.settings.recheckPeriod * 1024)) } }) := by
  unfold supplyJudged
  cases h : s.supply.state with
  | normal => exact if_pos hm
  | low => exact if_pos hm
  | critical => exact absurd h hs

/-- Near states stay near when both are judged for suspension. -/
theorem Near.suspended {a b : State} (h : Near a b) : Near (suspended a) (Machine.suspended b) := by
  have hb : b.sched = a.sched := h.run.sched
  unfold Machine.suspended
  by_cases hc : a.sched.runState.capturing = true ∧ ∀ o ∈ a.sched.owed, o.isStart = false
  · rw [if_pos hc, if_pos (hb ▸ hc)]
    exact near_freed ((h.modSched fun q =>
      { q with
        runState := .suspended, resumeState := some q.runState, owed := [], heldCopy := none, startRequest := none }).modSeg
          fun g => { g with decided := none })
  · rw [if_neg hc, if_neg (hb ▸ hc)]
    exact h

theorem suspended_countEvent (k : EventClass) (s : State) : countEvent k (suspended s) = suspended (countEvent k s) := by
  exact map_ite _ rfl rfl

/-! ### The controller step of a wake ends (R112) -/

/-- Steps 3 and 4 of a wake, from the state that its line's release has left. -/
theorem near_wakeSample (battery : Nat) {s : State} (ha : s.session.asleep = false) :
    Near (supplyJudged battery (s.modSession fun x => { x with phase := .status })) (wakeSample battery s) := by
  have hj : (supplyJudged battery s).session.asleep = false := (asleep_of_course (supplyJudged_course battery s)).trans ha
  rw [← supplyJudged_modPhase]
  exact ((near_sampleSupply battery s).modPhase hj .status).requestStatus

theorem wakeSample_stands (battery : Nat) (s : State) : StatusStands (wakeSample battery s) := requestStatus_stands _

/-- The effect of the cold and of the standby controller step at their ends. -/
theorem near_endResetHold (battery : Nat) {s : State} (ha : s.session.asleep = false) :
    Near
      (supplyJudged battery
        { s with
          pins := { s.pins with ctrlReset := false }
          session := { s.session with forcedRecovery := false, phase := .status } })
      (endResetHold battery s) :=
  near_wakeSample battery
    (s := (s.modPins fun p => { p with ctrlReset := false }).modSession fun x => { x with forcedRecovery := false }) ha

theorem near_endWakePulse (battery : Nat) {s : State} (ha : s.session.asleep = false) :
    Near
      (supplyJudged battery
        { s with pins := { s.pins with wake := false }, session := { s.session with phase := .status } })
      (endWakePulse battery s) :=
  near_wakeSample battery (s := s.modPins fun p => { p with wake := false }) ha

theorem rowEffect_resetHold {s : State} (battery : Nat) (hw : s.session.state = .waking) (hp : s.session.phase = .resetHold) :
    rowEffect (.resetHoldExpiry battery) s = endResetHold battery s := if_pos ((s.session.wakeAt_iff _).mpr ⟨hw, hp⟩)

theorem rowEffect_wakePulse {s : State} (battery : Nat) (hw : s.session.state = .waking) (hp : s.session.phase = .wakePulse) :
    rowEffect (.wakePulseEnd battery) s = endWakePulse battery s := if_pos ((s.session.wakeAt_iff _).mpr ⟨hw, hp⟩)

/-- Settles O32: in its own phase each row is steps 2 to 4 of the wake, in any other nothing. -/
theorem controllerStepEnds : Obligations.ControllerStepEnds := by
  refine fun battery s => ⟨fun hw hp => ?_, fun hw hp => ?_, fun hn => ?_, fun hn => ?_⟩
  · have hx := rowEffect_resetHold battery hw hp
    exact .of_effect (hx ▸ near_endResetHold battery (awake_of_waking hw)) (hx ▸ wakeSample_stands _ _)
  · have hx := rowEffect_wakePulse battery hw hp
    exact .of_effect (hx ▸ near_endWakePulse battery (awake_of_waking hw)) (hx ▸ wakeSample_stands _ _)
  · rw [← Session.wakeAt_iff] at hn
    have hx : rowEffect (.resetHoldExpiry battery) s = s := if_neg hn
    exact .of_effect (by rw [hx]; exact .rfl' s)
  · rw [← Session.wakeAt_iff] at hn
    have hx : rowEffect (.wakePulseEnd battery) s = s := if_neg hn
    exact .of_effect (by rw [hx]; exact .rfl' s)

/-! ### The forced sleep (R117) -/

theorem expired_self (x : Elapsed) : expired x x = true := by simp [expired]

theorem timerDue_of_now {x : Elapsed} {timer : Option Elapsed} (h : timer = some x) : timerDue x timer = true := by
  rw [h]
  exact expired_self x

/-- The state that a forced sleep leaves before its sample. -/
def forcedAsleep (s : State) : State :=
  { s with
    pins := { s.pins with pwrEn := false, ctrlReset := true, wake := false }
    session :=
      { s.session with
        state := .asleepOff, sleepKind := .off, forcedRecovery := true, timer := none, sleepTime := some s.tb.elapsed } }

theorem near_forceSleep (battery : Nat) (s : State) :
    Near (countEvent .forcedSleep (supplyJudged battery (forcedAsleep s))) (forceSleep battery s) :=
  ((near_sampleSupply battery (forcedAsleep s)).raiseEvent .forcedSleep).requestStatus

theorem rowEffect_sessionTimer {s : State} (battery : Nat) (ho : s.session.state = .open)
    (ht : s.session.timer = some s.tb.elapsed) : rowEffect (.sessionTimerExpiry battery) s = forceSleep battery s :=
  if_pos (by simp [sessionExpired, ho, timerDue_of_now ht])

/-- Settles O34: the forced sleep's own effect, and the wake conditions as every row judges them at its end. -/
theorem sessionTimerForcesSleep : Obligations.SessionTimerForcesSleep := by
  refine fun battery s => ⟨fun ho ht => ?_, fun ho => ?_⟩
  · intro asleep
    have hx := rowEffect_sessionTimer battery ho ht
    have hf : Follows asleep (finish (rowEffect (.sessionTimerExpiry battery) s)) :=
      (hx ▸ near_forceSleep battery s).follows (finish_follows _)
    refine ⟨_, exec_eq _ s, finish_stands (hx ▸ requestStatus_stands _), hf, fun hc hr => ?_⟩
    have hcourse : asleep.session.course = (forcedAsleep s).session.course := supplyJudged_course battery (forcedAsleep s)
    have ha : asleep.session.asleep = true := asleep_of_course hcourse
    have hforced : asleep.session.forcedRecovery = true := forced_of_course hcourse
    obtain ⟨hw, hcause, -⟩ := hf.wakes ha hc hr
    exact ⟨hw, hcause hforced⟩
  · have hx : rowEffect (.sessionTimerExpiry battery) s = s := if_neg (by simp [sessionExpired, ho])
    exact .of_effect (by rw [hx]; exact .rfl' s)

/-! ### A sample below crit (R7, R115, R117, R129, R130) -/

/-- A row that makes the supply CRITICAL reports the run suspended, or as it was. -/
theorem reports_suspended {c : Instr} {s a : State} (n : Near (suspended a) (rowEffect c s)) (k : StatusStands (rowEffect c s))
    (hs : a.sched = s.sched) (hg : a.seg = s.seg) (hx : a.stats = s.stats) :
    (s.sched.runState.capturing = true → (∀ o ∈ s.sched.owed, o.isStart = false) →
      Reports c s
        { a with
          sched :=
            { s.sched with
              runState := .suspended, resumeState := some s.sched.runState, owed := [], heldCopy := none, startRequest := none }
          seg := { s.seg with decided := none }
          stats := { s.stats with latched := none } }) ∧
    (s.sched.runState.capturing = false ∨ (∃ o ∈ s.sched.owed, o.isStart = true) → Reports c s a) := by
  unfold suspended at n
  rw [hs, hg, hx] at n
  refine ⟨fun hc ho => .of_effect ?_ k, fun h => .of_effect ?_ k⟩
  · rwa [if_pos ⟨hc, ho⟩] at n
  · rwa [if_neg] at n
    rintro ⟨hc, ho⟩
    rcases h with h | ⟨o, hm, h⟩
    · rw [hc] at h
      cases h
    · rw [ho o hm] at h
      cases h

/-- A sample below crit that a statement writes out, in the sleep or the wake that takes it. -/
theorem near_critical {battery : Nat} {s y : State} (n : Near (supplyJudged battery s) y) (hs : s.supply.state ≠ .critical)
    (hm : min battery 8191 < s.config.settings.crit) :
    Near
      (suspended (countEvent .battCrit
        { s with
          pins := { s.pins with batterySense := battery }
          supply :=
            { state := .critical, lastSample := min battery 8191
              recheck := some (s.tb.elapsed + BitVec.ofNat 48 (s.config.settings.recheckPeriod * 1024)) } })) y := by
  rw [supplyJudged_of_critical hs hm] at n
  exact (near_noted .battCrit _).suspended.trans n

theorem isStart_iff (o : Origin) : o.isStart = true ↔ ∃ first, o = .start first := by
  cases o <;> simp [Origin.isStart]

/-- The close of a session: its sample, and the sleep that it enters (R115). -/
theorem takeDeferredAlert_critical {s : State} (h : s.supply.state = .critical) :
    takeDeferredAlert s = if s.session.deferredAlert then s.modSession fun x => { x with deferredAlert := false } else s := by
  unfold takeDeferredAlert judgeAlert
  split
  · rw [if_neg]
    simp [h]
  · rfl

theorem Near.modDeferred {a b : State} (h : Near a b) : Near a (b.modSession fun x => { x with deferredAlert := false }) :=
  h.trans ⟨⟨rfl, rfl, rfl, rfl, rfl, rfl, rfl, rfl, rfl, rfl, rfl, rfl⟩, ⟨rfl, rfl, rfl⟩, rfl, .inl ⟨rfl, rfl⟩, rfl⟩

theorem near_takeDeferredAlert {a b : State} (h : Near a b) (hc : b.supply.state = .critical) : Near a (takeDeferredAlert b) := by
  rw [takeDeferredAlert_critical hc]
  split
  · exact h.modDeferred
  · exact h

theorem takeDeferredAlert_stands {s : State} (h : StatusStands s) : StatusStands (takeDeferredAlert s) := by
  unfold takeDeferredAlert
  split
  · exact judgeAlert_stands h
  · exact h

theorem closeSession_stands (battery : Nat) (s : State) : StatusStands (closeSession battery s) :=
  takeDeferredAlert_stands (requestStatus_stands _)

theorem near_modPort (f : Port → Port) (s : State) : Near s (s.modPort f) :=
  ⟨⟨rfl, rfl, rfl, rfl, rfl, rfl, rfl, rfl, rfl, rfl, rfl, rfl⟩, ⟨rfl, rfl, rfl⟩, rfl, .inl ⟨rfl, rfl⟩, rfl⟩

theorem suspended_supply (s : State) : (suspended s).supply = s.supply := by
  unfold suspended
  split <;> rfl

/-- The lines and the marks of a session that enters an OFF sleep. -/
theorem Near.enterSleepOff {a b : State} (h : Near a b) (ha : a.session.asleep = false) :
    Near (enterSleep .off a) (enterSleep .off b) := by
  have hs := h.awake ha
  have ht : b.tb = a.tb := h.fixed.tb
  have hp := (h.modPins hs fun p => { p with pwrEn := false, ctrlReset := true, wake := false }).modSession
    (hs.modPins fun p => { p with pwrEn := false, ctrlReset := true, wake := false })
    (fun x => { x with state := .asleepOff, sleepKind := .off, timer := none, sleepTime := some a.tb.elapsed })
    (fun x y e => by
      calc ({ y with state := .asleepOff, sleepKind := .off, timer := none, sleepTime := some a.tb.elapsed } : Session).course
          = { y.course with state := .asleepOff, sleepKind := .off, timer := none, sleepTime := some a.tb.elapsed } := rfl
        _ = { x.course with state := .asleepOff, sleepKind := .off, timer := none, sleepTime := some a.tb.elapsed } := by rw [e]
        _ = _ := rfl)
    fun x y e => e
  have hb : enterSleep .off b = (b.modPins fun p => { p with pwrEn := false, ctrlReset := true, wake := false }).modSession
      fun x => { x with state := .asleepOff, sleepKind := .off, timer := none, sleepTime := some a.tb.elapsed } := by
    rw [← ht]
    rfl
  rw [hb]
  exact hp

theorem suspended_enterSleepOff (s : State) : enterSleep .off (suspended s) = suspended (enterSleep .off s) := map_ite _ rfl rfl

/-- Settles O36: in each row the sample is the one of `supplyJudged`, which suspends the run. -/
theorem criticalSampleSuspendsTheRun : Obligations.CriticalSampleSuspendsTheRun := by
  refine ⟨isStart_iff, fun battery s hs hm => ?_⟩
  intro critical judged
  refine ⟨fun hw hp => ?_, fun hw hp => ?_, fun ho ht => ?_, fun hc hr ha he => ?_⟩
  · have hx := rowEffect_wakePulse battery hw hp
    exact reports_suspended (hx ▸ near_critical (near_endWakePulse battery (awake_of_waking hw)) hs hm)
      (hx ▸ wakeSample_stands _ _) rfl rfl rfl
  · have hx := rowEffect_resetHold battery hw hp
    exact reports_suspended (hx ▸ near_critical (near_endResetHold battery (awake_of_waking hw)) hs hm)
      (hx ▸ wakeSample_stands _ _) rfl rfl rfl
  · have hx := rowEffect_sessionTimer battery ho ht
    have hn := ((near_critical (near_sampleSupply battery (forcedAsleep s)) hs hm).raiseEvent .forcedSleep).requestStatus
    rw [suspended_countEvent] at hn
    exact reports_suspended (hx ▸ hn) (hx ▸ requestStatus_stands _) rfl rfl rfl
  · obtain ⟨t, ht⟩ : ∃ t, t = s.modPort fun q => { q with retention := .retained } := ⟨_, rfl⟩
    have hx : rowEffect (.retentionEntryComplete battery) s = closeSession battery t := by
      simp [rowEffect, guarded, hr, entryComplete, ha, he, hc, ht]
    have hn := near_critical (near_sampleSupply battery t) (by rw [ht]; exact hs) (by rw [ht]; exact hm)
    have hsupply : (sampleSupply battery t).supply.state = .critical := by
      rw [hn.fixed.supply, suspended_supply]
      rfl
    have hk : closeKind (sampleSupply battery t) = .off := by simp [closeKind, hsupply]
    have ht' : t.session.state = .closing := by rw [ht]; exact hc
    have hcl := near_takeDeferredAlert
      (hn.enterSleepOff (by rw [suspended_session]; simp [countEvent, Session.asleep, ht'])).requestStatus (by simp [enterSleep, asleepLines, driveLines, hsupply])
    rw [suspended_enterSleepOff] at hcl
    rw [ht] at hcl
    exact reports_suspended
      (by rw [hx, closeSession, hk, ht]; exact (near_modPort (fun q => { q with retention := .retained }) _).suspended.trans hcl)
      (by rw [hx]; exact closeSession_stands battery t) rfl rfl rfl

/-! ### The recheck (R129) -/

/-- The rows of R128, each by its boundaries. -/
theorem judgeSample_rows (c : Settings) (mv : Nat) (h : c.crit < c.low) :
    (mv < c.crit → judgeSample c .normal mv = (.critical, some .battCrit) ∧
      judgeSample c .low mv = (.critical, some .battCrit)) ∧
    (c.crit ≤ mv → mv < c.low → judgeSample c .normal mv = (.low, some .battLow)) ∧
    (c.low ≤ mv → judgeSample c .normal mv = (.normal, none)) ∧
    (c.low + c.hyst ≤ mv → judgeSample c .low mv = (.normal, none)) ∧
    (c.crit ≤ mv → mv < c.low + c.hyst → judgeSample c .low mv = (.low, none)) ∧
    (c.crit + c.hyst ≤ mv → judgeSample c .critical mv = (.low, some .battLow)) ∧
    (mv < c.crit + c.hyst → judgeSample c .critical mv = (.critical, none)) := by
  refine ⟨fun h1 => ⟨if_pos h1, if_pos h1⟩, fun h1 h2 => ?_, fun h1 => ?_, fun h1 => ?_, fun h1 h2 => ?_, fun h1 => if_pos h1,
    fun h1 => if_neg (by omega)⟩
  · exact (if_neg (by omega)).trans (if_pos h2)
  · exact (if_neg (by omega)).trans (if_neg (by omega))
  · exact (if_neg (by omega)).trans (if_pos h1)
  · exact (if_neg (by omega)).trans (if_neg (by omega))

theorem rowEffect_recheck {s : State} (battery : Nat) (h : s.supply.recheck = some s.tb.elapsed) :
    rowEffect (.recheckTimerExpiry battery) s = recheck battery s := if_pos (timerDue_of_now h)

theorem sampleSupply_stays_critical {battery : Nat} {s : State} (hs : s.supply.state = .critical)
    (h : min battery 8191 < s.config.settings.crit + s.config.settings.hyst) : sampleSupply battery s = sampled battery s := by
  have hj : judgeSample s.config.settings s.supply.state (min battery 8191) = (.critical, none) := by
    rw [hs]
    exact if_neg (Nat.not_le.mpr h)
  have he : sampleSupply battery s =
      let j := judgeSample s.config.settings s.supply.state (min battery 8191)
      if j.1 = s.supply.state then sampled battery s else changeSupply j.1 j.2 (sampled battery s) := rfl
  rw [he, hj]
  exact if_pos hs.symm

theorem sampleSupply_recovers {battery : Nat} {s : State} (hs : s.supply.state = .critical)
    (h : s.config.settings.crit + s.config.settings.hyst ≤ min battery 8191) :
    sampleSupply battery s = changeSupply .low (some .battLow) (sampled battery s) := by
  have hj : judgeSample s.config.settings s.supply.state (min battery 8191) = (.low, some .battLow) := by
    rw [hs]
    exact if_pos h
  have he : sampleSupply battery s =
      let j := judgeSample s.config.settings s.supply.state (min battery 8191)
      if j.1 = s.supply.state then sampled battery s else changeSupply j.1 j.2 (sampled battery s) := rfl
  rw [he, hj]
  exact if_neg (by rw [hs]; decide)

theorem resumed_of_suspended {s : State} (h : s.sched.runState = .suspended) :
    resumed s = s.modSched fun q =>
      { q with
        resumeState := none
        runState :=
          if q.resumeState = some .faultHold then (if s.cache.hasFault then .faultHold else .running)
          else if watchedFault s then .faultHold else .running
        owed :=
          if q.depth ≤ q.queue.length then []
          else .resumption true :: List.replicate (q.depth - q.queue.length - 1) (.resumption false) } := if_pos h

/-- Near states stay near when both are judged for resumption. -/
theorem Near.resumed {a b : State} (h : Near a b) : Near (resumed a) (Machine.resumed b) := by
  have hb : b.sched.runState = a.sched.runState := by rw [h.run.sched]
  by_cases hc : a.sched.runState = .suspended
  · rw [resumed_of_suspended hc, resumed_of_suspended (hb.trans hc), watchedFault_congr h.cache h.run.seg, h.cache]
    exact h.modSched _
  · rw [Machine.resumed, if_neg hc, Machine.resumed, if_neg fun hx => hc (hb.symm.trans hx)]
    exact h

/-- The supply's recovery in a recheck: the run resumed in a state counted as BATT_LOW (R7, R129, R130). -/
theorem near_recheck_recovered {battery : Nat} {s : State} (hs : s.supply.state = .critical)
    (h : s.config.settings.crit + s.config.settings.hyst ≤ min battery 8191) :
    Near
      (resumed (countEvent .battLow
        { s with
          pins := { s.pins with batterySense := battery }
          supply := { state := .low, lastSample := min battery 8191, recheck := none } }))
      (recheck battery s) ∧ StatusStands (recheck battery s) := by
  have he := sampleSupply_recovers hs h
  have hn := (near_noted .battLow _).resumed.trans (near_changeSupply_recovered (s := sampled battery s) hs)
  have hsupply : (changeSupply .low (some .battLow) (sampled battery s)).supply.state = .low := by
    rw [hn.fixed.supply]
    unfold Machine.resumed
    split <;> rfl
  have hx : recheck battery s = changeSupply .low (some .battLow) (sampled battery s) := by
    rw [recheck, he]
    exact if_neg (by rw [hsupply]; decide)
  have hc : changeSupply .low (some .battLow) (sampled battery s) =
      resumeRun (raiseEvent .battLow (requestStatus ((sampled battery s).modSupply fun y => { y with state := .low, recheck := none }))) := by
    simp [changeSupply, sampled, hs, raiseOptional]
  rw [hx]
  exact ⟨hn, hc ▸ resumeRun_stands (raiseEvent_stands _ _)⟩

/-- Settles O37: the rows of R128, and the recheck by the sample's side of crit + hyst. -/
theorem samplesJudgedAndRechecked : Obligations.SamplesJudgedAndRechecked := by
  refine ⟨judgeSample_rows, fun battery s hr => ?_, fun battery s hs => ?_⟩
  · have hx : rowEffect (.recheckTimerExpiry battery) s = s := if_neg (by simp [timerDue, hr])
    exact .of_effect (by rw [hx]; exact .rfl' s)
  intro period recovered hr
  have hx := rowEffect_recheck battery hr
  refine ⟨fun hm => .of_effect ?_, fun hm => ?_⟩
  · have he : recheck battery s = (sampled battery s).modSupply fun y => { y with recheck := some period } := by
      rw [recheck, sampleSupply_stays_critical hs hm]
      exact if_pos hs
    rw [hx, he]
    exact .rfl' _
  · obtain ⟨hn, hk⟩ := near_recheck_recovered hs hm
    have hkeep : recovered.sched = s.sched ∧ recovered.session.course = s.session.course := ⟨rfl, rfl⟩
    refine ⟨fun hne => .of_effect ?_ (hx ▸ hk), fun hsus => .of_effect ?_ (hx ▸ hk), fun t ht ha hreach => ?_⟩
    · have hres : resumed recovered = recovered := if_neg hne
      rw [hx]
      exact hres ▸ hn
    · have hres : resumed recovered = _ := if_pos hsus
      rw [hx]
      exact hres ▸ hn
    · have hf : Follows (resumed recovered) t := by
        have he := (exec_eq (.recheckTimerExpiry battery) s).symm.trans ht
        obtain rfl : finish (rowEffect (.recheckTimerExpiry battery) s) = t := by simpa using he
        exact (hx ▸ hn).follows (finish_follows _)
      have hses : (resumed recovered).session = recovered.session := resumed_session _
      have hsup : (resumed recovered).supply.state = .low := by
        unfold Machine.resumed
        split <;> rfl
      obtain ⟨hw, hc, hl⟩ := hf.wakes (by rw [hses]; exact ha) (by rw [hsup]; decide) hreach
      rw [hses] at hc
      refine ⟨hw, hc, fun hoff hsr => ?_⟩
      have hoff' : AlertsOff (resumed recovered) := hoff.congr (by rw [hses]; rfl) (by unfold Machine.resumed; split <;> rfl)
      exact ((hl hoff').1 hsr).1

end Sys2Proof.Machine
end

section
/-! PROOFS. What the bus changes beside its own blocks, the waking status record written, and the wakes that the wake times begin. -/

namespace Sys2Proof.Machine

/-! ### States that differ in the traffic of the memory alone -/

/-- `b` is `a` but for the engine's queue and counts, the port, the records under write and the held read. -/
def TrafficAlone (a b : State) : Prop :=
  b = { a with engine := b.engine, port := b.port, path := b.path } ∧ b.path.table = a.path.table ∧ b.engine.kept = a.engine.kept

theorem TrafficAlone.rfl' (s : State) : TrafficAlone s s := ⟨rfl, rfl, rfl⟩

theorem TrafficAlone.of_blocks (s : State) (e : Engine) (q : Port) (p : Path) (he : e.kept = s.engine.kept)
    (hp : p.table = s.path.table) : TrafficAlone s { s with engine := e, port := q, path := p } := ⟨rfl, hp, he⟩

theorem TrafficAlone.trans {a b c : State} (h : TrafficAlone a b) (k : TrafficAlone b c) : TrafficAlone a c := by
  exact ⟨k.1.trans (congrArg (fun x : State => { x with engine := c.engine, port := c.port, path := c.path }) h.1),
    k.2.1.trans h.2.1, k.2.2.trans h.2.2⟩

theorem TrafficAlone.near {a b : State} (h : TrafficAlone a b) : Near a b := by
  obtain ⟨h, hp, he⟩ := h
  rw [h]
  exact ⟨⟨rfl, rfl, rfl, rfl, he, rfl, hp, rfl, rfl, rfl, rfl, rfl⟩, ⟨rfl, rfl, rfl⟩, rfl, .of_eq rfl rfl, rfl⟩

/-- The same change of anything but the traffic, made on both sides. -/
theorem TrafficAlone.map {a b : State} {f : State → State} (h : TrafficAlone a b)
    (hf : ∀ s e q p, f { s with engine := e, port := q, path := p } = { f s with engine := e, port := q, path := p }) :
    TrafficAlone (f a) (f b) := by
  have blocks (s : State) : (f s).engine = s.engine ∧ (f s).port = s.port ∧ (f s).path = s.path := by
    have own : f s = { f s with engine := s.engine, port := s.port, path := s.path } := hf s s.engine s.port s.path
    rw [own]
    exact ⟨rfl, rfl, rfl⟩
  obtain ⟨hb, hp, he⟩ := h
  refine ⟨?_, by rw [(blocks a).2.2, (blocks b).2.2, hp], by rw [(blocks a).1, (blocks b).1, he]⟩
  rw [(blocks b).1, (blocks b).2.1, (blocks b).2.2]
  exact (congrArg f hb).trans (hf _ _ _ _)

theorem TrafficAlone.same {a b : State} (h : TrafficAlone a b) : SameSession a b := ⟨by rw [h.1], by rw [h.1]⟩

theorem TrafficAlone.cache {a b : State} (h : TrafficAlone a b) : b.cache = a.cache := by rw [h.1]

theorem traffic_requestStatus (s : State) : TrafficAlone s (requestStatus s) := ⟨rfl, rfl, requestStatus_kept s⟩

theorem traffic_modPort (f : Port → Port) (s : State) : TrafficAlone s (s.modPort f) := ⟨rfl, rfl, rfl⟩

theorem traffic_modEngine {f : Engine → Engine} {s : State} (h : (f s.engine).kept = s.engine.kept) :
    TrafficAlone s (s.modEngine f) := ⟨rfl, rfl, h⟩

theorem traffic_judgeHolds (s : State) : TrafficAlone s (judgeHolds s) := by
  unfold judgeHolds
  repeat' split
  all_goals exact ⟨rfl, rfl, rfl⟩

theorem traffic_leaveList (r : Option RecordRange) (s : State) : TrafficAlone s (leaveList r s) := by
  unfold leaveList
  split
  · exact .rfl' s
  · exact .trans ⟨rfl, rfl, rfl⟩ (traffic_judgeHolds _)

theorem traffic_askForAccess (s : State) : TrafficAlone s (askForAccess s) := by
  unfold askForAccess
  split
  · exact .rfl' s
  · exact traffic_modPort _ _

/-! ### A service's last access completes (R158, R162, R164) -/

theorem engineCompleteNow_of_access {s : State} {a : EngineAccess} (h : s.port.access = .engine a) :
    engineCompleteNow s = engineComplete a s := by
  unfold engineCompleteNow
  rw [h]

/-- The state before the last access's service is done: memory as the access leaves it, and the service gone. -/
theorem engineComplete_of_last {s : State} {a : EngineAccess} {sv : Service} (hv : s.engine.service = some sv) (ht : sv.todo = [a])
    (he : sv.ended = false) (hg : a.group = none) :
    ∃ t, TrafficAlone (engineRam a s) t ∧ t.engine = { s.engine with service := none } ∧
      engineComplete a s = serviceDone sv (sv.got ++ engineWords a s) t := by
  have hm : (engineRam a s).engine = s.engine := by unfold engineRam; split <;> rfl
  have hw : ∀ e : Engine, e.groupWritten a = e := fun e => by simp [Engine.groupWritten, hg]
  let t := (engineRam a s).modPort fun q => { q with access := .noAccess }
  let u := if a.commit then leaveList a.record t else t
  have hu : TrafficAlone (engineRam a s) u := by
    refine (traffic_modPort (fun q => { q with access := .noAccess }) (engineRam a s)).trans ?_
    by_cases hc : a.commit = true
    · simpa [u, hc] using traffic_leaveList a.record t
    · simpa [u, hc] using TrafficAlone.rfl' t
  have hue : u.engine = s.engine := by
    by_cases hc : a.commit = true <;> simp [u, t, hc, hm]
  refine ⟨u.modEngine fun e => { e with service := none }, hu.trans (traffic_modEngine rfl), by rw [State.modEngine_engine, hue], ?_⟩
  have hx : engineComplete a s = match u.engine.service with
      | none => u
      | some sv => serviceAfter sv a (engineWords a s) u := by
    unfold engineComplete
    simp only [hw]
    rfl
  rw [hx, hue, hv]
  simp only [serviceAfter, he, ht, List.tail_cons]
  rfl

/-! ### The waking status record (R113) -/

theorem traffic_openSession {a b : State} (h : TrafficAlone a b) (v : BitVec 8) :
    TrafficAlone ((driveLines true false false a).modSession fun x =>
      { x with
        state := .open, pendingSet := x.pendingSet &&& ~~~v,
        timer := some (expiryAfter a.tb.elapsed a.config.settings.sessionLimit), sleepTime := none, phase := .noWake })
      (openSession v b) :=
  (h.map (f := fun s => (driveLines true false false s).modSession fun x =>
    { x with
      state := .open, pendingSet := x.pendingSet &&& ~~~v,
      timer := some (expiryAfter s.tb.elapsed s.config.settings.sessionLimit), sleepTime := none, phase := .noWake })
    fun _ _ _ _ => rfl).trans (traffic_requestStatus _)

/-- Settles O33: the commit access ends the service, whose record's marks leave the pending set as the session opens. -/
theorem wakingStatusOpensTheSession : Obligations.WakingStatusOpensTheSession := by
  intro a sv s ha hv hr ht he ho hw hg hs hp
  obtain ⟨t, h, -, hx⟩ := engineComplete_of_last hv ht he hg
  have hrow : rowEffect .engineAccessComplete s = statusWritten sv t := by
    calc rowEffect .engineAccessComplete s = engineComplete a s := engineCompleteNow_of_access ha
      _ = _ := hx
      _ = statusWritten sv t := by simp [serviceDone, hr]
  have hm : engineRam a s = { s with ram := writeWords s.ram a.addrs a.words } := if_pos hw
  have hu : TrafficAlone (engineRam a s) (if sv.rewrite then requestStatus t else t) := by
    split
    · exact h.trans (traffic_requestStatus t)
    · exact h
  have hses : (if sv.rewrite then requestStatus t else t).session = s.session := by rw [hu.1, hm]
  have hwake : (if sv.rewrite then requestStatus t else t).session.wakeAt .status = true := by
    rw [hses]
    exact (Session.wakeAt_iff _ _).2 ⟨hs, hp⟩
  have hopen : statusWritten sv t = openSession sv.shown (if sv.rewrite then requestStatus t else t) := if_pos ⟨ho, hwake⟩
  refine .of_effect ?_
  rw [hrow, hopen]
  rw [hm] at hu
  exact (traffic_openSession hu sv.shown).near

end Sys2Proof.Machine
end

section
/-! PROOFS. The wake times and the wakes they begin (R110, R111). -/

namespace Sys2Proof.Machine

/-! ### Wake times -/

theorem Session.asleep_iff (x : Session) : x.asleep = true ↔ x.state = .asleepOff ∨ x.state = .asleepStandby := by
  unfold Session.asleep
  cases x.state <;> simp

theorem scheduledDue_eq_some (s : State) (d : Time) :
    scheduledDue s = some d ↔ ∃ e, (s.sched.runState.capturing = true ∧ (s.sched.queue.find? fun x => !x.triggered) = some e) ∧
      e.due = d := by
  unfold scheduledDue firstIssued
  by_cases hc : s.sched.runState.capturing = true
  · simp [hc]
  · simp [hc]

theorem scheduledReached_iff (s : State) :
    scheduledReached s = true ↔ ∃ e, (s.sched.runState.capturing = true ∧ (s.sched.queue.find? fun x => !x.triggered) = some e) ∧
      e.due.toNat ≤ s.tb.time.toNat + s.config.settings.wakeLead * 1024 := by
  have h : scheduledReached s = true ↔ ∃ d, scheduledDue s = some d ∧ d.toNat ≤ s.tb.time.toNat + wakeLeadTicks s := by
    unfold scheduledReached
    cases scheduledDue s <;> simp
  rw [h]
  simp only [scheduledDue_eq_some]
  exact ⟨fun ⟨_, ⟨e, he, hd⟩, hr⟩ => ⟨e, he, hd ▸ hr⟩, fun ⟨e, he, hr⟩ => ⟨_, ⟨e, he, rfl⟩, hr⟩⟩

theorem scheduledLate_iff (s : State) :
    scheduledLate s = true ↔ ∃ e, (s.sched.runState.capturing = true ∧ (s.sched.queue.find? fun x => !x.triggered) = some e) ∧
      e.due.toNat < s.tb.time.toNat + s.config.settings.wakeLead * 1024 := by
  have h : scheduledLate s = true ↔ ∃ d, scheduledDue s = some d ∧ d.toNat < s.tb.time.toNat + wakeLeadTicks s := by
    unfold scheduledLate
    cases scheduledDue s <;> simp
  rw [h]
  simp only [scheduledDue_eq_some]
  exact ⟨fun ⟨_, ⟨e, he, hd⟩, hr⟩ => ⟨e, he, hd ▸ hr⟩, fun ⟨e, he, hr⟩ => ⟨_, ⟨e, he, rfl⟩, hr⟩⟩

theorem idleReached_iff (s : State) :
    idleReached s = true ↔ s.sched.runState.resting = true ∧ s.config.settings.idleWake ≠ 0 ∧
      ∃ z, s.session.sleepTime = some z ∧
        (s.tb.elapsed - (z + BitVec.ofNat 48 (s.config.settings.idleWake * 1024))).toNat < 2 ^ 47 := by
  unfold idleReached
  cases h : s.session.sleepTime with
  | none => simp
  | some z =>
    have he (x : Elapsed) : expired s.tb.elapsed x = true ↔ (s.tb.elapsed - x).toNat < 2 ^ 47 := decide_eq_true_iff
    simp only [Bool.and_eq_true, decide_eq_true_eq, he, Option.some.injEq, exists_eq_left', and_assoc]
    rfl

/-! ### A wake begun (R112, R118) -/

/-- What a wake's begin leaves: its first step or, with the port ACTIVE, its second. -/
def wakeBegun (cause : WakeCause) (late : Bool) (phase : WakePhase) (pins : Pins) (s : State) : State :=
  { s with
    pins := pins
    session :=
      { s.session with
        state := .waking, cause := if s.session.forcedRecovery then .forcedRecovery else cause, late := late, phase := phase } }

theorem traffic_beginWake (cause : WakeCause) (late : Bool) (s : State) :
    (s.port.retention ≠ .active → TrafficAlone (wakeBegun cause late .memory s.pins s) (beginWake cause late s)) ∧
    (s.port.retention = .active → s.session.sleepKind = .off ∨ s.session.forcedRecovery = true →
      TrafficAlone (wakeBegun cause late .resetHold { s.pins with pwrEn := true, ctrlReset := true, wake := false } s)
        (beginWake cause late s)) ∧
    (s.port.retention = .active → ¬(s.session.sleepKind = .off ∨ s.session.forcedRecovery = true) →
      TrafficAlone (wakeBegun cause late .wakePulse { s.pins with wake := true } s) (beginWake cause late s)) := by
  let waking := s.modSession fun x =>
    { x with state := .waking, cause := if x.forcedRecovery then .forcedRecovery else cause, late := late }
  have hb : beginWake cause late s = requestStatus (askPortForWake waking) := rfl
  refine ⟨fun hr => ?_, fun hr hc => ?_, fun hr hc => ?_⟩
  · have ha : askPortForWake waking =
        (waking.modPort fun q => { q with waitWake := true }).modSession fun x => { x with phase := .memory } := if_neg hr
    rw [hb, ha]
    exact .trans ⟨rfl, rfl, rfl⟩ (traffic_requestStatus _)
  · have ha : askPortForWake waking = wakeControllerLines waking := if_pos hr
    have hl : wakeControllerLines waking =
        (driveLines true true false waking).modSession fun x => { x with phase := .resetHold } := if_pos hc
    rw [hb, ha, hl]
    exact .trans ⟨rfl, rfl, rfl⟩ (traffic_requestStatus _)
  · have ha : askPortForWake waking = wakeControllerLines waking := if_pos hr
    have hl : wakeControllerLines waking =
        (waking.modPins fun p => { p with wake := true }).modSession fun x => { x with phase := .wakePulse } := if_neg hc
    rw [hb, ha, hl]
    exact .trans ⟨rfl, rfl, rfl⟩ (traffic_requestStatus _)

theorem leaves_beginWake {c : Instr} {cause : WakeCause} {late : Bool} {s : State} (h : rowEffect c s = beginWake cause late s) :
    (s.port.retention ≠ .active → Leaves c s (wakeBegun cause late .memory s.pins s)) ∧
    (s.port.retention = .active → s.session.sleepKind = .off ∨ s.session.forcedRecovery = true →
      Leaves c s (wakeBegun cause late .resetHold { s.pins with pwrEn := true, ctrlReset := true, wake := false } s)) ∧
    (s.port.retention = .active → ¬(s.session.sleepKind = .off ∨ s.session.forcedRecovery = true) →
      Leaves c s (wakeBegun cause late .wakePulse { s.pins with wake := true } s)) := by
  obtain ⟨h1, h2, h3⟩ := traffic_beginWake cause late s
  rw [← h] at h1 h2 h3
  exact ⟨fun hr => .of_effect (h1 hr).near, fun hr hc => .of_effect (h2 hr hc).near, fun hr hc => .of_effect (h3 hr hc).near⟩

/-- No sleeping session with a supply that is not CRITICAL is left with its wake time reached. -/
theorem finish_unreached {s : State} (ha : (finish s).session.asleep = true) (hs : (finish s).supply.state ≠ .critical) :
    scheduledReached (finish s) = false ∧ idleReached (finish s) = false := by
  have hsup : s.supply.state ≠ .critical := by rwa [← (finish_fixed s).supply]
  have hsleep : s.session.asleep = true := by
    by_contra hn
    have hn : s.session.asleep = false := by simpa using hn
    rw [asleep_of_course (finish_awake hn).course, hn] at ha
    cases ha
  have hn : ¬(scheduledReached (finish s) = true ∨ idleReached (finish s) = true) := fun hr => by
    have hw := (finish_wakes s hsleep hsup hr).1
    rw [awake_of_waking hw] at ha
    cases ha
  simpa using hn

/-- Settles O31: the rows of the two wake times, and every row's end, at which neither is found reached. -/
theorem wakeTimesBeginWakes : Obligations.WakeTimesBeginWakes := by
  intro s
  refine ⟨⟨s.session.asleep_iff, capturing_iff _, RunState.resting_iff _, scheduledReached_iff s, scheduledLate_iff s,
    idleReached_iff s⟩, ?_⟩
  refine ⟨fun ha hs hc e he => ⟨fun hd => ?_, fun hd => ?_⟩, fun ha hs hr hz hst => ?_, fun c t ht ha hs => ?_, fun hn c hc => ?_⟩
  · have hreach : scheduledReached s = true := (scheduledReached_iff s).2 ⟨e, ⟨hc, he⟩, hd.le⟩
    have hlate : scheduledLate s = false := by
      simp [scheduledLate, scheduledDue_of_capturing hc he, wakeLeadTicks, hd]
    exact leaves_beginWake (hlate ▸ if_pos ⟨ha, hs, hreach⟩)
  · have hreach : scheduledReached s = true := (scheduledReached_iff s).2 ⟨e, ⟨hc, he⟩, hd.le⟩
    have hlate : scheduledLate s = true := (scheduledLate_iff s).2 ⟨e, ⟨hc, he⟩, hd⟩
    exact leaves_beginWake (hlate ▸ if_pos ⟨ha, hs, hreach⟩)
  · have hreach : idleReached s = true :=
      (idleReached_iff s).2 ⟨hr, hz, _, hst, by simp⟩
    exact leaves_beginWake (if_pos ⟨ha, hs, hreach⟩)
  · rw [exec_eq] at ht
    obtain rfl : finish (rowEffect c s) = t := by simpa using ht
    exact finish_unreached ha hs
  · have hrow : rowEffect c s = s := by
      have hoff : ∀ p : Prop, ¬(s.session.asleep = true ∧ s.supply.state ≠ .critical ∧ p) := fun p ⟨ha, hs, _⟩ => by
        rcases hn with hn | hn
        · rw [hn] at ha; cases ha
        · exact hs hn
      have hcases : c = .scheduledWake ∨ c = .idleWake := by simpa using hc
      rcases hcases with rfl | rfl
      · exact if_neg (hoff _)
      · exact if_neg (hoff _)
    refine ⟨.of_effect (hrow.symm ▸ .rfl' s), finish s, by rw [exec_eq, hrow], ?_⟩
    rcases hn with hn | hn
    · exact finish_awake hn
    · exact finish_critical hn

end Sys2Proof.Machine
end

section
/-! PROOFS. Events raised, the alerts that they begin, and the rows that raise them (R119 to R121). -/

namespace Sys2Proof.Machine

/-! ### An event raised -/

theorem EventClass.mark_eq (k : EventClass) : k.mark = BitVec.ofNat 8 (2 ^ k.index) := by cases k <;> rfl

theorem PerClass.get_set (p : PerClass) (k j : EventClass) (v : Nat) : (p.set k v).get j = if j = k then v else p.get j := by
  by_cases h : j = k
  · subst h
    rw [if_pos rfl]
    cases j <;> rfl
  · rw [if_neg h, PerClass.get_set_of_ne p h]

theorem alerts_iff (c : Settings) (k : EventClass) : c.alerts k = true ↔ c.wakeThreshold < c.wakeLevels.get k := decide_eq_true_iff

/-- What an event finds that begins an alert wake (R120). -/
def AlertWakes (k : EventClass) (s : State) : Prop :=
  s.session.asleep = true ∧ s.supply.state ≠ .critical ∧ s.session.holdoff = none ∧
    s.config.settings.wakeThreshold < s.config.settings.wakeLevels.get k

/-- An event counted, with its STATUS_WRITE requested and its class kept from the marks of a record in service (R113, R119). -/
def marked (k : EventClass) (s : State) : State := requestStatus (keepMark k (countEvent k s))

theorem marked_session (k : EventClass) (s : State) : (marked k s).session = (countEvent k s).session := by simp [marked]

theorem marked_pins (k : EventClass) (s : State) : (marked k s).pins = s.pins := by simp [marked]

theorem raiseEvent_of_wakes {k : EventClass} {s : State} (h : AlertWakes k s) : raiseEvent k s = beginAlertWake (marked k s) := by
  obtain ⟨ha, hs, hh, hl⟩ := h
  have ha' : (marked k s).session.asleep = true := by rw [marked_session]; exact ha
  have h1 : (marked k s).config.settings.alerts k = true := by
    rw [(by simp [marked] : (marked k s).config = s.config)]
    exact (alerts_iff _ _).2 hl
  have h2 : (marked k s).session.asleep ∧ (marked k s).supply.state ≠ .critical ∧ (marked k s).session.holdoff = none :=
    ⟨ha', by simpa [marked] using hs, by rw [marked_session]; exact hh⟩
  have h3 : raiseEvent k s = if (marked k s).config.settings.alerts k then
      (if (marked k s).session.asleep then judgeAlert (marked k s)
        else if (marked k s).session.state = .closing then (marked k s).modSession fun x => { x with deferredAlert := true }
        else marked k s) else marked k s := rfl
  rw [h3, if_pos h1, if_pos ha']
  exact if_pos h2

theorem raiseEvent_of_not_wakes {k : EventClass} {s : State} (h : ¬AlertWakes k s) :
    raiseEvent k s =
      if s.session.state = .closing ∧ s.config.settings.wakeThreshold < s.config.settings.wakeLevels.get k then
        (marked k s).modSession fun x => { x with deferredAlert := true }
      else marked k s := by
  have hses : (marked k s).session = (countEvent k s).session := marked_session k s
  have hasleep : (marked k s).session.asleep = s.session.asleep := by rw [hses]; rfl
  have hstate : (marked k s).session.state = s.session.state := by rw [hses]; rfl
  have hconf : (marked k s).config = s.config := by simp [marked]
  have h3 : raiseEvent k s = if (marked k s).config.settings.alerts k then
      (if (marked k s).session.asleep then judgeAlert (marked k s)
        else if (marked k s).session.state = .closing then (marked k s).modSession fun x => { x with deferredAlert := true }
        else marked k s) else marked k s := rfl
  rw [h3, hasleep, hstate, hconf]
  by_cases hl : s.config.settings.wakeThreshold < s.config.settings.wakeLevels.get k
  · rw [if_pos ((alerts_iff _ _).2 hl)]
    by_cases ha : s.session.asleep = true
    · have hc : ¬s.session.state = .closing := fun hc => by simp [Session.asleep, hc] at ha
      have hj : ¬((marked k s).session.asleep ∧ (marked k s).supply.state ≠ .critical ∧ (marked k s).session.holdoff = none) :=
        fun ⟨_, h2, h3⟩ => h ⟨ha, by simpa [marked] using h2, by rw [hses] at h3; exact h3, hl⟩
      rw [if_pos ha, if_neg fun hx => hc hx.1]
      exact if_neg hj
    · simp [ha, hl]
  · rw [if_neg fun hx => hl ((alerts_iff _ _).1 hx), if_neg fun hx => hl hx.2]

/-- A wake begun, whatever its first step, keeps all of the session but its state, cause, late mark and phase. -/
theorem beginWake_session_eq (cause : WakeCause) (late : Bool) (s : State) :
    ∃ phase, (beginWake cause late s).session =
      { s.session with
        state := .waking, cause := if s.session.forcedRecovery then .forcedRecovery else cause, late := late, phase := phase } := by
  obtain ⟨h1, h2, h3⟩ := traffic_beginWake cause late s
  by_cases hr : s.port.retention = .active
  · by_cases hc : s.session.sleepKind = .off ∨ s.session.forcedRecovery = true
    · exact ⟨_, congrArg State.session (h2 hr hc).1⟩
    · exact ⟨_, congrArg State.session (h3 hr hc).1⟩
  · exact ⟨_, congrArg State.session (h1 hr).1⟩

theorem raiseEvent_alert_session {k : EventClass} {s : State} (h : AlertWakes k s) :
    ∃ phase, (raiseEvent k s).session =
      { (countEvent k s).session with
        state := .waking, cause := if s.session.forcedRecovery then .forcedRecovery else .alert, late := false,
        holdoff := some (s.tb.elapsed + BitVec.ofNat 48 (s.config.settings.alertHoldoff * 1024)), phase := phase } := by
  obtain ⟨phase, hp⟩ := beginWake_session_eq .alert false ((marked k s).modSession fun x =>
    { x with holdoff := some (expiryAfter (marked k s).tb.elapsed (marked k s).config.settings.alertHoldoff) })
  refine ⟨phase, ?_⟩
  rw [raiseEvent_of_wakes h]
  refine hp.trans ?_
  rw [State.modSession_session, marked_session, (by simp [marked] : (marked k s).config = s.config),
    (by simp [marked] : (marked k s).tb = s.tb)]
  rfl

theorem raiseEvent_quiet {k : EventClass} {s : State} (h : ¬AlertWakes k s) :
    (raiseEvent k s).pins = s.pins ∧
      (raiseEvent k s).session =
        { (countEvent k s).session with
          deferredAlert := s.session.deferredAlert ||
            decide (s.session.state = .closing ∧ s.config.settings.wakeThreshold < s.config.settings.wakeLevels.get k) } := by
  rw [raiseEvent_of_not_wakes h]
  split
  · rename_i hc
    rw [decide_eq_true hc, Bool.or_true]
    exact ⟨marked_pins k s, by rw [State.modSession_session, marked_session]⟩
  · rename_i hc
    rw [decide_eq_false hc, Bool.or_false]
    exact ⟨marked_pins k s, marked_session k s⟩

theorem raiseEvent_waiting (k : EventClass) {s : State} (h : NoLogWaiting s) (hn : ¬AlertWakes k s) : NoLogWaiting (raiseEvent k s) := by
  have hm : NoLogWaiting (marked k s) := requestStatus_noLog (h : NoLogWaiting (keepMark k (countEvent k s)))
  rw [raiseEvent_of_not_wakes hn]
  split
  · exact hm
  · exact hm

/-! ### What a row's end leaves of the session -/

theorem parts_of_course {y c : Session} (h : y.course = c) :
    y.state = c.state ∧ y.late = c.late ∧ y.cause = c.cause ∧ y.holdoff = c.holdoff := by
  subst h
  exact ⟨rfl, rfl, rfl, rfl⟩

/-- No wake begins at the end of a row where no issue is made, neither wake time is reached, and no LOG_LOST can alert. -/
theorem finish_unwoken {s : State} (hi : NoIssue s) (hw : s.session.asleep = false ∨ (scheduledReached s = false ∧ idleReached s = false))
    (hl : NoLogWaiting s) : (finish s).session = s.session := by
  have hfree : (cacheSettle (freeBuffer s)).session = s.session := by simp
  have hj : judgeWakes (cacheSettle (freeBuffer s)) = cacheSettle (freeBuffer s) := by
    rcases hw with ha | ⟨h1, h2⟩
    · exact judgeWakes_of_awake (by rw [hfree]; exact ha)
    · obtain ⟨e1, e2⟩ := reached_congr (a := s) (b := cacheSettle (freeBuffer s)) (by simp) (by simp) (by simp) (by simp)
      exact judgeWakes_of_unreached (e1.trans h1) (e2.trans h2)
  have hn : NoLogWaiting (cacheSettle (freeBuffer s)) := cacheSettle_noLog (hl.of_engine (by simp))
  calc (finish s).session = (portSettle (beginService (judgeWakes (cacheSettle (freeBuffer s))))).session := by
        rw [finish_of_noIssue hi]
    _ = (beginService (cacheSettle (freeBuffer s))).session := by rw [hj]; simp
    _ = s.session := (beginService_session hn).trans hfree

/-- The same of a sleeping session in which no alert can begin a wake. -/
theorem finish_undisturbed {s : State} (hi : NoIssue s) (h1 : scheduledReached s = false) (h2 : idleReached s = false)
    (hc : Calm s ∨ (s.session.asleep = true ∧ NoLogWaiting s)) : SameSession s (finish s) := by
  let m := cacheSettle (freeBuffer s)
  obtain ⟨e1, e2⟩ := reached_congr (a := s) (b := m) (by simp [m]) (by simp [m]) (by simp [m]) (by simp [m])
  have hfin : finish s = portSettle (beginService m) := by
    rw [finish_of_noIssue hi, judgeWakes_of_unreached (e1.trans h1) (e2.trans h2)]
  have hu : Undisturbed s (finish s) := by
    rw [hfin]
    exact ((beginService_undisturbed m).before (by simp [m]) (by simp [m]) ⟨by simp [m], by simp [m], by simp [m]⟩).after (by simp)
      (by simp)
  rcases hc with hc | ⟨ha, hl⟩
  · exact hu.same hc
  · have hses := finish_unwoken hi (.inr ⟨h1, h2⟩) hl
    rcases hu with hu | ⟨-, p, hp⟩
    · exact hu
    · have hs : (finish s).session.state = .waking := (parts_of_course hp).1
      rw [hses] at hs
      rw [awake_of_waking hs] at ha
      cases ha

/-- The deferred alert mark, once set, stands through all that follows an effect. -/
theorem keptBySettling_deferredAlert : KeptBySettling fun s => s.session.deferredAlert = true := by
  have events : KeptByEvents fun s => s.session.deferredAlert = true :=
    { run := fun _ _ _ _ _ h => h
      supply := fun _ _ h => h
      board := fun _ _ _ _ h => h
      engine := fun _ _ _ h => h
      status := fun h => by simpa using h
      marks := fun x _ _ _ _ _ hx h => hx.elim (fun e => e.trans h) (fun e => e.1)
      wake := fun c l _ h => by
        obtain ⟨p, hp⟩ := beginWake_session_eq c l _
        rw [hp]
        exact h
      log := fun _ _ h => h }
  exact
    { events with
      retires := fun e o c m g _ h => events.retire (fun _ _ h => h) e o c m g h
      order := fun _ h => by simpa using h
      drop := fun _ _ h => events.loseLog h
      serve := fun _ _ _ _ _ _ _ h => by simpa [serve] using h
      cache := fun _ _ _ h => h
      fetch := fun _ _ h => by simpa using h }

theorem finish_deferredAlert {s : State} (h : s.session.deferredAlert = true) : (finish s).session.deferredAlert = true := by
  have hs := keptBySettling_deferredAlert.settle h
  rw [finish, (by simp : (portSettle (settle s)).session = (settle s).session)]
  exact hs

/-! ### The rows that raise an event -/

theorem counts_of_tally {x y : Session} (h : y.tally = x.tally) {k : EventClass} (hk : k ≠ .logLost) : y.counts.get k = x.counts.get k := by
  have hc : y.counts.set .logLost 0 = x.counts.set .logLost 0 := congrArg Prod.fst h
  rw [← PerClass.get_set_of_ne y.counts hk 0, hc, PerClass.get_set_of_ne _ hk]

theorem pending_of_tally {x y : Session} (h : y.tally = x.tally) {i : Nat} (hi : (~~~EventClass.logLost.mark).getLsbD i = true) :
    y.pendingSet.getLsbD i = x.pendingSet.getLsbD i := by
  have hp : y.pendingSet &&& ~~~EventClass.logLost.mark = x.pendingSet &&& ~~~EventClass.logLost.mark := congrArg Prod.snd h
  have hb := congrArg (fun p : BitVec 8 => p.getLsbD i) hp
  simpa only [BitVec.getLsbD_and, hi, Bool.and_true] using hb

/-- An event that a row raises, of another class than LOG_LOST, is counted and pending when the row ends. -/
theorem finish_counted {k : EventClass} {s x : State} (hn : Near (countEvent k s) x) (hk : k ≠ .logLost)
    (hi : (~~~EventClass.logLost.mark).getLsbD k.index = true) :
    (finish x).session.counts.get k = min 65535 (s.session.counts.get k + 1) ∧ (finish x).session.pendingSet.getLsbD k.index = true := by
  have ht : (finish x).session.tally = (countEvent k s).session.tally := (finish_fixed x).tally.trans hn.fixed.tally
  refine ⟨?_, ?_⟩
  · rw [counts_of_tally ht hk]
    exact (PerClass.get_set _ _ _ _).trans (if_pos rfl)
  · rw [pending_of_tally ht hi]
    show (s.session.pendingSet ||| k.mark).getLsbD k.index = true
    rw [BitVec.getLsbD_or, (by cases k <;> rfl : k.mark.getLsbD k.index = true), Bool.or_true]

/-- The row of an event that begins an alert wake. -/
theorem row_alerts {k : EventClass} {y x : State} (h : AlertWakes k y) (hx : x.session = (raiseEvent k y).session) :
    (finish x).session.state = .waking ∧ (finish x).session.late = false ∧
      (finish x).session.cause = (if y.session.forcedRecovery then .forcedRecovery else .alert) ∧
      (finish x).session.holdoff = some (y.tb.elapsed + BitVec.ofNat 48 (y.config.settings.alertHoldoff * 1024)) := by
  obtain ⟨p, hp⟩ := raiseEvent_alert_session h
  have hs := hx.trans hp
  have hc : (finish x).session.course = x.session.course := (finish_awake (awake_of_waking (by rw [hs]))).course
  rw [hs] at hc
  exact parts_of_course hc

/-- The row of an event that begins none in a sleeping session. -/
theorem row_asleep {k : EventClass} {y x : State} (hy : y.session.asleep = true)
    (hx : x.session = (raiseEvent k y).session ∧ x.pins = (raiseEvent k y).pins) (hsup : x.supply = y.supply)
    (hrun : SameRun y x) (hcache : x.cache = y.cache) (hblocks : x.tb = y.tb ∧ x.config = y.config)
    (hnone : y.session.holdoff ≠ none ∨ y.supply.state = .critical ∨
      (¬y.config.settings.wakeThreshold < y.config.settings.wakeLevels.get k ∧ NoLogWaiting x))
    (hi : NoIssue y) (h1 : scheduledReached y = false) (h2 : idleReached y = false) : SameSession y (finish x) := by
  have hn : ¬AlertWakes k y := fun ⟨_, hs, hh, hl⟩ => by
    rcases hnone with h | h | h
    · exact h hh
    · exact hs h
    · exact h.1 hl
  obtain ⟨hp, hs⟩ := raiseEvent_quiet hn
  have hyx : SameSession y x := ⟨by rw [hx.1, hs]; rfl, hx.2.trans hp⟩
  obtain ⟨e1, e2⟩ := reached_congr (a := y) (b := x) hrun.sched hblocks.1 hblocks.2 (sleepTime_of_course hyx.course)
  refine hyx.trans (finish_undisturbed (hi.congr hrun hcache) (e1.trans h1) (e2.trans h2) ?_)
  rcases hnone with h | h | h
  · exact .inl (.inr (.inr (.inl (by rw [holdoff_of_course hyx.course]; exact h))))
  · exact .inl (.inr (.inl (by rw [hsup]; exact h)))
  · exact .inr ⟨by rw [asleep_of_course hyx.course]; exact hy, h.2⟩

theorem row_closing {k : EventClass} {y x : State} (hc : y.session.state = .closing) (hx : x.session = (raiseEvent k y).session) :
    (finish x).session.state = .closing ∧
      (y.config.settings.wakeThreshold < y.config.settings.wakeLevels.get k → (finish x).session.deferredAlert = true) ∧
      (¬y.config.settings.wakeThreshold < y.config.settings.wakeLevels.get k → NoIssue x → NoLogWaiting x →
        (finish x).session.deferredAlert = y.session.deferredAlert) := by
  have hn : ¬AlertWakes k y := fun h => by simp [AlertWakes, Session.asleep, hc] at h
  have hs := hx.trans (raiseEvent_quiet hn).2
  have hstate : x.session.state = .closing := by rw [hs]; exact hc
  have ha : x.session.asleep = false := by simp [Session.asleep, hstate]
  refine ⟨(state_of_course (finish_awake ha).course).trans hstate, fun hl => finish_deferredAlert ?_, fun hl hi hw => ?_⟩
  · rw [hs]
    simp [hc, hl]
  · rw [finish_unwoken hi (.inl ha) hw, hs]
    simp [hl]

/-- What CRYSTAL_STOP leaves while the source is CRYSTAL. -/
def fallen (s : State) : State :=
  s.modTb fun y => { y with crystalRunning := false, sinceStop := 0, source := .rc, degraded := true }

theorem rowEffect_crystalStop {s : State} (hs : s.tb.source = .crystal) (hr : s.pins.inReset = false) :
    rowEffect .crystalStop s = requestStatus (raiseEvent .timeDegraded (fallen s)) :=
  (outsideReset_of_running hr _).trans (crystalStopped_of_crystal hs)

theorem rowEffect_strayArrival {s : State} (tx : Transaction) (hr : s.pins.inReset = false) (ho : outstanding s = false)
    (ha : s.session.asleep = true) : rowEffect (.passThroughArrival tx) s = raiseEvent .busAnomaly (recordArrival tx s) := by
  have hy : (recordArrival tx s).session = s.session := by simp [recordArrival]
  calc rowEffect (.passThroughArrival tx) s = arrive tx s := makeTransaction_arrives tx ho
    _ = if (recordArrival tx s).session.asleep then busAnomaly (recordArrival tx s) else recordArrival tx s := by
      unfold arrive
      rw [if_neg (by simp [hr]), hy]
    _ = _ := by rw [hy, if_pos ha]; rfl

/-- Settles O35: an event by what it finds, and the same in the rows of a crystal stop and of a stray access. -/
theorem alertsWakeASleepingSession : Obligations.AlertsWakeASleepingSession := by
  refine ⟨fun k s => ?_, fun s => ⟨fun hs hr => ?_, fun tx hr ho ha => ?_, fun hh => ?_, fun hh => ?_⟩⟩
  · refine ⟨alerts_iff _ _, by rw [← EventClass.mark_eq]; rfl, fun j => PerClass.get_set _ _ _ _, raiseEvent_stands k s, fun h => ?_,
      fun h => ?_⟩
    · obtain ⟨p, hp⟩ := raiseEvent_alert_session (k := k) h
      rw [hp, ← EventClass.mark_eq]
      exact ⟨rfl, rfl, rfl, rfl, rfl, rfl⟩
    · obtain ⟨hp, hq⟩ := raiseEvent_quiet (k := k) h
      rw [← EventClass.mark_eq]
      exact ⟨hp, hq⟩
  · have hx := rowEffect_crystalStop hs hr
    have ht : exec .crystalStop s = .next (finish (requestStatus (raiseEvent .timeDegraded (fallen s)))) := by rw [exec_eq, hx]
    have hses : (requestStatus (raiseEvent .timeDegraded (fallen s))).session = (raiseEvent .timeDegraded (fallen s)).session := by simp
    have hcount := finish_counted (k := .timeDegraded) ((near_raiseEvent .timeDegraded (fallen s)).requestStatus) (by decide) (by decide)
    have hquiet (hl : ¬s.config.settings.wakeThreshold < s.config.settings.wakeLevels.timeDegraded) (hw : NoLogWaiting s) :
        NoLogWaiting (requestStatus (raiseEvent .timeDegraded (fallen s))) :=
      requestStatus_noLog (raiseEvent_waiting (s := fallen s) .timeDegraded hw fun h => hl h.2.2.2)
    have hrun : SameRun (fallen s) (requestStatus (raiseEvent .timeDegraded (fallen s))) :=
      .of_eq (by simp) (by simp) (by simp)
    refine ⟨fun hl ha hn hh => ?_, fun ha hn hi h1 h2 => ?_, fun hc hl => ?_, fun hc hl hi hw => ?_⟩
    · have hw : AlertWakes .timeDegraded (fallen s) := ⟨ha, hn, hh, hl⟩
      obtain ⟨h1, h2, h3, h4⟩ := row_alerts hw hses
      exact ⟨_, ht, h1, h2, h3, h4, hcount⟩
    · have hi' : NoIssue (fallen s) := hi.congr (.of_eq rfl rfl rfl) rfl
      have hsame : SameSession (fallen s) (finish (requestStatus (raiseEvent .timeDegraded (fallen s)))) := by
        refine row_asleep (k := .timeDegraded) ha ⟨hses, by simp⟩ (by simp) hrun (by simp) ⟨by simp, by simp⟩ ?_ hi' h1 h2
        exact hn.imp id (Or.imp id fun h => ⟨h.1, hquiet h.1 h.2⟩)
      exact ⟨_, ht, ⟨hsame.course, hsame.pins⟩, hcount⟩
    · obtain ⟨h1, h2, -⟩ := row_closing (y := fallen s) hc hses
      exact ⟨_, ht, h1, h2 hl, hcount⟩
    · have hi' : NoIssue (fallen s) := hi.congr (.of_eq rfl rfl rfl) rfl
      obtain ⟨h1, -, h3⟩ := row_closing (y := fallen s) hc hses
      have hn : ¬AlertWakes .timeDegraded (fallen s) := fun h => hl h.2.2.2
      obtain ⟨hp, hq⟩ := raiseEvent_quiet hn
      have hsame : SameSession s (requestStatus (raiseEvent .timeDegraded (fallen s))) :=
        ⟨by rw [hses, hq]; rfl, (requestStatus_frame _).1.trans hp⟩
      have ha : (requestStatus (raiseEvent .timeDegraded (fallen s))).session.asleep = false := by
        rw [asleep_of_course hsame.course]
        simp [Session.asleep, hc]
      exact ⟨_, ht, hsame.trans (finish_awake ha), h3 hl (hi'.congr hrun (by simp)) (hquiet hl hw), hcount⟩
  · have hx := rowEffect_strayArrival tx hr ho ha
    have ht : exec (.passThroughArrival tx) s = .next (finish (raiseEvent .busAnomaly (recordArrival tx s))) := by rw [exec_eq, hx]
    have hy : (recordArrival tx s).session = s.session ∧ (recordArrival tx s).supply = s.supply ∧
        (recordArrival tx s).config = s.config ∧ (recordArrival tx s).tb = s.tb ∧ (recordArrival tx s).pins = s.pins ∧
        (recordArrival tx s).engine = s.engine := by simp [recordArrival]
    obtain ⟨hses, hsup, hconf, htb, hpins, heng⟩ := hy
    have hrun : SameRun s (recordArrival tx s) := (near_recordArrival tx s).run
    have hcount := finish_counted (k := .busAnomaly) (near_raiseEvent .busAnomaly (recordArrival tx s)) (by decide) (by decide)
    rw [hses] at hcount
    refine ⟨fun hl hn hh => ?_, fun hn hi h1 h2 => ?_⟩
    · have hw : AlertWakes .busAnomaly (recordArrival tx s) := by
        unfold AlertWakes
        rw [hses, hsup, hconf]
        exact ⟨ha, hn, hh, hl⟩
      obtain ⟨h1, h2, h3, h4⟩ := row_alerts hw rfl
      rw [hses] at h3
      rw [htb, hconf] at h4
      exact ⟨_, ht, h1, h2, h3, h4, hcount⟩
    · have hi' : NoIssue (recordArrival tx s) := hi.congr hrun (near_recordArrival tx s).cache
      obtain ⟨e1, e2⟩ := reached_congr (a := s) (b := recordArrival tx s) hrun.sched htb hconf (by rw [hses])
      have hsame : SameSession (recordArrival tx s) (finish (raiseEvent .busAnomaly (recordArrival tx s))) := by
        refine row_asleep (k := .busAnomaly) (by rw [hses]; exact ha) ⟨rfl, rfl⟩ (by simp) (.of_eq (by simp) (by simp) (by simp))
          (by simp) ⟨by simp, by simp⟩ ?_ hi' (e1.trans h1) (e2.trans h2)
        rw [hses, hsup, hconf]
        exact hn.imp id (Or.imp id fun h => ⟨h.1, raiseEvent_waiting _ (h.2.of_engine heng) fun hw => h.1 (by
          have hw := hw.2.2.2
          rwa [hconf] at hw)⟩)
      exact ⟨_, ht, ⟨hsame.course.trans (by rw [hses]), hsame.pins.trans hpins⟩, hcount⟩
  · refine .of_effect ?_
    rw [rowEffect, guarded, if_pos (timerDue_of_now hh)]
    exact .rfl' _
  · refine .of_effect ?_
    rw [rowEffect, guarded, if_neg (by simp [timerDue, hh])]
    exact .rfl' s

end Sys2Proof.Machine
end

section
/-! PROOFS. The tests of a fetched record, and a fetch that completes in a run and in the load walk. -/

namespace Sys2Proof.Machine

/-! ### The tests of a record (R30) -/

theorem withinInt_iff {lo hi x : Int} : withinInt lo hi x = true ↔ lo ≤ x ∧ x ≤ hi := by simp [withinInt]

theorem modeOfCode_isSome (n : Nat) : (modeOfCode n).isSome = true ↔ n ≤ 2 := by
  rcases n with _ | _ | _ | n <;> simp [modeOfCode]

theorem settleOfCode_isSome (n : Nat) : (settleOfCode n).isSome = true ↔ n ≤ 1 := by
  rcases n with _ | _ | n <;> simp [settleOfCode]

theorem exitOfCode_isSome (n : Nat) : (exitOfCode n).isSome = true ↔ n ≤ 5 := by
  rcases n with _ | _ | _ | _ | _ | _ | n <;> simp [exitOfCode]

theorem decodeSegment_isSome (ws : List Word) :
    (decodeSegment ws).isSome = true ↔
      field (ws.getD 0 0) 0 8 = 3 ∧ field (ws.getD 0 0) 8 2 ≤ 2 ∧ field (ws.getD 0 0) 10 2 ≤ 1 ∧ field (ws.getD 0 0) 12 3 ≤ 5 := by
  rw [← modeOfCode_isSome, ← settleOfCode_isSome, ← exitOfCode_isSome]
  unfold decodeSegment
  dsimp only
  by_cases h : field (ws.getD 0 0) 0 8 = 3
  · rw [if_pos h]
    cases modeOfCode (field (ws.getD 0 0) 8 2) <;> cases settleOfCode (field (ws.getD 0 0) 10 2) <;>
      cases exitOfCode (field (ws.getD 0 0) 12 3) <;>
      simp only [h, Option.isSome_some, Option.isSome_none, Bool.false_eq_true, and_false, and_true]
  · rw [if_neg h]
    simp only [h, Option.isSome_none, Bool.false_eq_true, false_and]

theorem exitParamInRange_iff (c : Segment) :
    c.exitParamInRange = true ↔
      (c.exitKind = .frames → 1 ≤ c.exitParam ∧ c.exitParam ≤ 65535) ∧ (c.exitKind = .clock → c.exitParam ≤ 86399) ∧
        (c.exitKind = .above ∨ c.exitKind = .below → c.exitParam ≤ 1663) := by
  unfold Segment.exitParamInRange
  cases c.exitKind <;> simp [within_iff]

theorem inRange_iff (c : Segment) :
    c.inRange = true ↔
      ((c.exitKind = .frames → 1 ≤ c.exitParam ∧ c.exitParam ≤ 65535) ∧ (c.exitKind = .clock → c.exitParam ≤ 86399) ∧
        (c.exitKind = .above ∨ c.exitKind = .below → c.exitParam ≤ 1663)) ∧ 1 ≤ c.holdCount ∧ c.holdCount ≤ 255 ∧
        1 ≤ c.minDwell ∧ c.minDwell ≤ 255 ∧ 1024 ≤ c.interval ∧ c.interval ≤ 88473600 ∧ 1 ≤ c.stretch ∧ c.stretch ≤ 16 ∧
        c.readoutMargin ≤ 65535 ∧ c.elMin ≤ 1663 ∧ c.elMax ≤ 1663 ∧ c.shutterMax ≤ 1279 ∧ c.gainMax ≤ 384 ∧ 1 ≤ c.target ∧
        c.target ≤ 4095 ∧ c.weightSet ≤ 3 ∧ 1 ≤ c.gainNum ∧ c.gainNum ≤ 16 ∧ c.deadband ≤ 63 ∧ 1 ≤ c.slew ∧ c.slew ≤ 255 ∧
        -255 ≤ c.rampRate ∧ c.rampRate ≤ 255 ∧ -512 ≤ c.biasStart ∧ c.biasStart ≤ 512 ∧ -64 ≤ c.biasRate ∧
        c.biasRate ≤ 64 ∧ c.guardZones ≤ 64 ∧ c.guardStep ≤ 127 ∧ 1000 * c.readoutMargin < c.interval * 15625 / 16 := by
  rw [← exitParamInRange_iff, ← intervalUs]
  simp only [Segment.inRange, Bool.and_eq_true, within_iff, withinInt_iff, decide_eq_true_eq, Nat.zero_le, true_and, and_assoc]

theorem linkIn_iff (c : Segment) (slots : Nat) : c.linkIn slots = true ↔ ∀ n, c.next = some n → n < slots := by
  unfold Segment.linkIn
  cases c.next <;> simp

/-- The check of words that are good and decode: the first test that fails, or the segment. -/
theorem checkSegment_of_decoded {slots : Nat} {ws : List BusWord} {c : Segment} (hg : ws.all BusWord.good = true)
    (hc : decodeSegment (ws.map BusWord.data) = some c) :
    checkSegment slots ws =
      if !c.inRange then .error .range
      else if c.hi < c.elMin then .error .bounds
      else if c.slew < c.rampRate.natAbs then .error .rate
      else if !c.linkIn slots then .error .link
      else .ok c := by
  unfold checkSegment
  rw [if_pos hg, hc]

/-! ### The reads of a service complete (R158, R167) -/

theorem lastRead_done {s : State} {r : Request} {ws : List BusWord} (h : LastRead s r ws) :
    ∃ sv t, s.engine.service = some sv ∧ sv.request = r ∧ sv.todo.length = 1 ∧ TrafficAlone s t ∧
      t.engine = { s.engine with service := none } ∧ engineCompleteNow s = serviceDone sv ws t := by
  obtain ⟨a, sv, ha, hw, -, hg, hv, hr, ht, he, hws⟩ := h
  obtain ⟨t, htr, hn, hx⟩ := engineComplete_of_last hv ht he hg
  have hram : engineRam a s = s := by simp [engineRam, hw]
  have hwords : engineWords a s = readWords s.ram a.addrs := by simp [engineWords, hw]
  rw [hram] at htr
  rw [hwords, ← hws] at hx
  exact ⟨sv, t, hv, hr, by rw [ht]; rfl, htr, hn, (engineCompleteNow_of_access ha).trans hx⟩

theorem rowEffect_planFetch {s : State} {slot addr : Nat} {ws : List BusWord} (h : LastRead s (.planFetch slot addr) ws) :
    ∃ t, TrafficAlone s t ∧ rowEffect .planFetchComplete s = fetchDone ws t := by
  obtain ⟨sv, t, hv, hr, -, htr, -, hx⟩ := lastRead_done h
  have hs : servesFetch s = true := by simp [servesFetch, hv, hr]
  refine ⟨t, htr, ?_⟩
  calc rowEffect .planFetchComplete s = engineCompleteNow s := if_pos hs
    _ = serviceDone sv ws t := hx
    _ = fetchDone ws t := by simp [serviceDone, hr]

theorem planSlots_of_table {p q : Path} (h : q.table = p.table) : q.planSlots = p.planSlots := by
  have k : q.plan = p.plan := (congrArg Path.plan h : q.table.plan = p.table.plan)
  unfold Path.planSlots
  rw [k]

/-! ### The run state judged against the cache (R44, R48) -/

/-- The run state of a state judged against its cache. -/
def runJudged (a : State) : State :=
  if a.sched.runState = .running ∧ watchedFault a = true then { a with sched := { a.sched with runState := .faultHold } }
  else if a.sched.runState = .faultHold ∧ a.cache.hasFault = false then { a with sched := { a.sched with runState := .running } }
  else a

theorem near_setRunState {a b : State} (h : Near a b) {r : RunState} (hr : a.sched.runState ≠ r) :
    Near { a with sched := { a.sched with runState := r } } (setRunState r b) := by
  rw [setRunState_of_ne (by rw [h.run.sched]; exact hr)]
  exact (h.modSched fun q => { q with runState := r }).requestStatus

/-- Near states stay near when the run state is judged in both. -/
theorem Near.judged {a b : State} (h : Near a b) : Near (runJudged a) (judgeRun b) := by
  have hs : b.sched.runState = a.sched.runState := by rw [h.run.sched]
  have hw : watchedFault b = watchedFault a := watchedFault_congr h.cache h.run.seg
  unfold runJudged judgeRun
  rw [hs, hw, h.cache]
  cases hr : a.sched.runState with
  | running =>
    by_cases hf : watchedFault a = true
    · simpa [hf] using near_setRunState h (r := .faultHold) (by rw [hr]; decide)
    · simpa [hf] using h
  | faultHold =>
    by_cases hf : a.cache.hasFault = true
    · simpa [hf] using h
    · simpa [hf] using near_setRunState h (r := .running) (by rw [hr]; decide)
  | unconfigured => simpa using h
  | stopped => simpa using h
  | suspended => simpa using h

/-! ### A fetch completes outside the walk -/

theorem fetchDone_of_absent {s : State} {f : Fetch} (hf : s.cache.fetch = some f)
    (h : f.orphan = true ∨ s.cache.entry? f.slot = none) (ws : List BusWord) :
    fetchDone ws s = s.modCache fun c => { c with fetch := none } := by
  have he : ∀ n, (s.modCache fun c => { c with fetch := none }).cache.entry? n = s.cache.entry? n := fun _ => rfl
  unfold fetchDone
  rw [hf]
  dsimp only
  rcases h with h | h
  · rw [if_pos h]
  · rw [he, h]
    split <;> rfl

theorem fetchDone_of_entry {s : State} {slot : Nat} {e : CacheEntry} (hf : s.cache.fetch = some { slot := slot, orphan := false })
    (he : s.cache.entry? slot = some e) (ws : List BusWord) :
    fetchDone ws s =
      let t := s.modCache fun c => { c with fetch := none }
      match s.cache.walk with
      | some w => walkFetched w.entrySlot slot e ws t
      | none =>
        if e.writtenDuringFetch then fetchDiscarded slot t
        else
          match checkSegment s.path.planSlots ws with
          | .error r => judgeRun (fetchFailed slot r t)
          | .ok g => judgeRun (fetchPassed slot g t) := by
  have he' : (s.modCache fun c => { c with fetch := none }).cache.entry? slot = some e := he
  unfold fetchDone
  rw [hf]
  dsimp only
  rw [he']
  rfl

theorem faultAt_iff (c : PlanCache) (slot : Option Nat) :
    c.faultAt slot = true ↔ ∃ n, slot = some n ∧ ∃ e, c.entry? n = some e ∧ e.state = .fault := by
  unfold PlanCache.faultAt
  cases slot with
  | none => simp
  | some n => cases h : c.entry? n <;> simp [h]

theorem nextOf_eq_some (c : PlanCache) (slot : Option Nat) (m : Nat) :
    c.nextOf slot = some m ↔ ∃ n e g, slot = some n ∧ c.entry? n = some e ∧ e.record = some g ∧ g.next = some m := by
  unfold PlanCache.nextOf
  cases slot with
  | none => simp
  | some n =>
    cases h : c.entry? n with
    | none => simp [h]
    | some e => cases hr : e.record <;> simp [h, hr]

/-- Settles O17: the tests in their order, and the fetched copy by its entry's mark and the check. -/
theorem fetchCompletesInARun : Obligations.FetchCompletesInARun := by
  refine ⟨fun slots ws => ?_, fun s => ?_, fun slot addr ws f s hl hf ha => ?_, fun slot addr ws e s hl hf hw he => ?_⟩
  · have hall : (∀ x ∈ ws, x.good = true) ↔ ws.all BusWord.good = true := by simp
    intro w check format
    refine ⟨fun hn => ?_, fun hy => ?_⟩
    · show checkSegment slots ws = .error .format
      unfold checkSegment
      split
      · rename_i hg
        have hd : decodeSegment (ws.map BusWord.data) = none := by
          by_contra hd
          exact hn ⟨hall.2 hg, (decodeSegment_isSome _).1 (Option.isSome_iff_ne_none.2 hd)⟩
        rw [hd]
      · rfl
    · obtain ⟨hg, hd⟩ := hy
      obtain ⟨c, hc⟩ := Option.isSome_iff_exists.1 ((decodeSegment_isSome (ws.map BusWord.data)).2 hd)
      refine ⟨c, hc, ?_⟩
      have hx := checkSegment_of_decoded (slots := slots) (hall.1 hg) hc
      intro exit range bounds rate link
      have hrange : c.inRange = true ↔ range := inRange_iff c
      have hlink : c.linkIn slots = true ↔ link := linkIn_iff c slots
      refine ⟨hrange, hlink, fun hn => ?_, fun hr hn => ?_, fun hr hb hn => ?_, fun hr hb ht hn => ?_, fun hr hb ht hk => ?_⟩
      all_goals refine hx.trans ?_
      · rw [if_pos (by simpa using fun h => hn (hrange.1 h))]
      · rw [if_neg (by simpa using hrange.2 hr), if_pos (Nat.lt_of_not_le hn)]
      · rw [if_neg (by simpa using hrange.2 hr), if_neg (Nat.not_lt.2 hb), if_pos (Nat.lt_of_not_le hn)]
      · rw [if_neg (by simpa using hrange.2 hr), if_neg (Nat.not_lt.2 hb), if_neg (Nat.not_lt.2 ht),
          if_pos (by simpa using fun h => hn (hlink.1 h))]
      · rw [if_neg (by simpa using hrange.2 hr), if_neg (Nat.not_lt.2 hb), if_neg (Nat.not_lt.2 ht),
          if_neg (by simpa using hlink.2 hk)]
  · refine ⟨fun _ => rfl, by simp [PlanCache.hasFault], fun slot => faultAt_iff _ _, ?_⟩
    simp only [watchedFault, Bool.or_eq_true, faultAt_iff, nextOf_eq_some]
    constructor
    · rintro (⟨n, hn, hf⟩ | ⟨m, ⟨n, e, g, hn, he, hg, hm⟩, hf⟩)
      · exact ⟨n, hn, .inl hf⟩
      · exact ⟨n, hn, .inr ⟨e, g, m, he, hg, hm, hf⟩⟩
    · rintro ⟨n, hn, hf | ⟨e, g, m, he, hg, hm, hf⟩⟩
      · exact .inl ⟨n, hn, hf⟩
      · exact .inr ⟨m, ⟨n, e, g, hn, he, hg, hm⟩, hf⟩
  · obtain ⟨t, ht, hx⟩ := rowEffect_planFetch hl
    rw [← ht.cache] at hf ha
    refine .of_effect ?_
    rw [hx, fetchDone_of_absent hf ha]
    exact ht.near.modCache fun c => { c with fetch := none }
  · obtain ⟨t, ht, hx⟩ := rowEffect_planFetch hl
    have hcache := ht.cache
    rw [← hcache] at hf hw he
    have hd := fetchDone_of_entry hf he ws
    rw [hw, planSlots_of_table ht.2.1] at hd
    rw [hd] at hx
    refine ⟨fun hm => .of_effect ?_, fun hm g hg => .of_effect ?_, fun hm r hr => .of_effect ?_ ?_⟩
    · rw [hx]
      simp only [hm, if_true]
      exact ht.near.modCache fun c =>
        { c with
          fetch := none
          entries := c.entries.map fun x =>
            if x.slot = slot then { x with state := if x.state = .fault then .fault else .stale, writtenDuringFetch := false } else x }
    · rw [hx]
      simp only [hm, hg, Bool.false_eq_true, if_false]
      exact (ht.near.modCache fun c =>
        { c with
          fetch := none
          entries := c.entries.map fun x =>
            if x.slot = slot then { x with state := .valid, record := some g, reason := none, awaiting := false } else x }).judged
    · rw [hx]
      simp only [hm, hr, Bool.false_eq_true, if_false]
      exact (((ht.near.modCache fun c =>
        { c with
          fetch := none
          entries := c.entries.map fun x =>
            if x.slot = slot then { x with state := .fault, reason := some r, awaiting := false } else x
          fault := some (slot, r) }).raiseEvent .planFault).requestStatus).judged
    · rw [hx]
      simp only [hm, hr, Bool.false_eq_true, if_false]
      exact judgeRun_stands (requestStatus_stands _)

end Sys2Proof.Machine
end

section
/-! PROOFS. The load walk (R36, R37). -/

namespace Sys2Proof.Machine

/-! ### Links -/

theorem entry?_eq_none_iff (c : PlanCache) (n : Nat) : c.entry? n = none ↔ ∀ y ∈ c.entries, y.slot ≠ n := by
  simp [PlanCache.entry?]

theorem openLink_eq_some (c : PlanCache) (x : CacheEntry) (n : Nat) :
    c.openLink x = some n ↔
      x.state = .valid ∧ (∃ g, x.record = some g ∧ g.next = some n) ∧ ∀ y ∈ c.entries, y.slot ≠ n := by
  rw [← entry?_eq_none_iff]
  unfold PlanCache.openLink
  by_cases hv : x.state = .valid
  · rw [if_pos hv]
    cases hr : x.record with
    | none => simp
    | some g =>
      cases hn : g.next with
      | none => simp [hn]
      | some m =>
        by_cases he : (c.entry? m).isSome = true
        · have hx : ¬c.entry? m = none := Option.isSome_iff_ne_none.1 he
          simp only [he, if_true, hv, hn, Option.some.injEq, exists_eq_left', true_and, reduceCtorEq, false_iff]
          rintro ⟨rfl, h⟩
          exact hx h
        · have hx : c.entry? m = none := by simpa using he
          simp only [he, if_false, hv, hn, Option.some.injEq, exists_eq_left', true_and, Bool.false_eq_true]
          exact ⟨fun h => ⟨h, h ▸ hx⟩, fun h => h.1⟩
  · simp [hv]

theorem openLinkAt_of_none {c : PlanCache} {slot : Nat} (h : ∀ x n, c.entry? slot = some x → c.openLink x ≠ some n) :
    c.openLinkAt slot = none := by
  unfold PlanCache.openLinkAt
  cases hx : c.entry? slot with
  | none => rfl
  | some x => exact Option.eq_none_iff_forall_ne_some.2 fun n => h x n hx

theorem findSome?_of_first {α β : Type} {f : α → Option β} {pre post : List α} {x : α} {n : β} (hp : ∀ y ∈ pre, f y = none)
    (hx : f x = some n) : (pre ++ x :: post).findSome? f = some n := by
  rw [List.findSome?_append, List.findSome?_eq_none_iff.2 hp]
  simp [hx]

theorem find?_of_first {α : Type} {p : α → Bool} {pre post : List α} {x : α} (hp : ∀ y ∈ pre, p y = false) (hx : p x = true) :
    (pre ++ x :: post).find? p = some x := by
  rw [List.find?_append, List.find?_eq_none.2 fun y hy => by simp [hp y hy]]
  simp [hx]

/-! ### What the walk's steps leave -/

theorem traffic_requestFetch {a b : State} (h : TrafficAlone a b) (n : Nat) :
    TrafficAlone
      { a with cache := { a.cache.update n CacheEntry.fetchRequested with fetch := some { slot := n, orphan := false } } }
      (requestFetch n b) :=
  (h.map (f := fun s => s.modCache fun c => { c.update n CacheEntry.fetchRequested with fetch := some { slot := n, orphan := false } })
    fun _ _ _ _ => rfl).trans (traffic_modEngine rfl)

theorem requestFetch_queued (n : Nat) (s : State) :
    Request.planFetch n (s.path.planBase + 32 * n) ∈ (requestFetch n s).engine.queued := by
  simp [requestFetch, Engine.queued]

theorem update_concat_new {c : PlanCache} {n : Nat} (h : ∀ y ∈ c.entries, y.slot ≠ n) :
    ({ c with entries := c.entries ++ [newEntry n] } : PlanCache).update n CacheEntry.fetchRequested =
      { c with entries := c.entries ++ [{ newEntry n with state := .fetching }] } := by
  have hmap : c.entries.map (fun e => if e.slot = n then e.fetchRequested else e) = c.entries :=
    (List.map_congr_left fun e he => if_neg (h e he)).trans (List.map_id' _)
  have hnew : [newEntry n].map (fun e => if e.slot = n then e.fetchRequested else e) = [{ newEntry n with state := .fetching }] := by
    simp [CacheEntry.fetchRequested, newEntry]
  unfold PlanCache.update
  rw [List.map_append, hmap, hnew]

theorem traffic_walkCreate {a b : State} (h : TrafficAlone a b) {n : Nat} (hn : ∀ y ∈ a.cache.entries, y.slot ≠ n) :
    TrafficAlone
      { a with
        cache :=
          { a.cache with
            entries := a.cache.entries ++ [{ newEntry n with state := .fetching }], fetch := some { slot := n, orphan := false } } }
      (walkCreate n b) := by
  have k := traffic_requestFetch (h.map (f := fun s => s.modCache fun c => { c with entries := c.entries ++ [newEntry n] })
    fun _ _ _ _ => rfl) n
  rw [State.modCache_cache, update_concat_new hn] at k
  exact k

theorem traffic_decide (seq : BitVec 8) (r : Result) (s : State) : TrafficAlone (decided seq r s) (decideCommand seq r s) := by
  have hs := traffic_requestStatus (s.modCmd fun c => { c with lastDecided := some (seq, r) })
  unfold decided decideCommand
  dsimp only
  split
  · refine hs.map (f := restartTimer) fun s e q p => ?_
    unfold restartTimer
    split <;> rfl
  · exact hs

theorem traffic_decided {a b : State} (h : TrafficAlone a b) (seq : BitVec 8) (r : Result) :
    TrafficAlone (decided seq r a) (decided seq r b) := by
  refine h.map fun s e q p => ?_
  unfold decided restartTimer
  dsimp only
  (repeat' split) <;> rfl

/-- The decision of the busy command. -/
theorem traffic_decideLong {a b : State} (h : TrafficAlone a b) {seq : BitVec 8} {k : LongKind} (hb : a.cmd.busy = some (seq, k))
    (r : Result) : TrafficAlone (decided seq r { a with cmd := { a.cmd with busy := none } }) (decideLong r b) := by
  have hc : b.cmd = a.cmd := by rw [h.1]
  have hn : TrafficAlone { a with cmd := { a.cmd with busy := none } } (b.modCmd fun c => { c with busy := none }) :=
    h.map (f := fun s => s.modCmd fun c => { c with busy := none }) fun _ _ _ _ => rfl
  unfold decideLong
  rw [hc, hb]
  exact (traffic_decided hn seq r).trans (traffic_decide seq r _)

/-- A walk's fetch that leaves another one in flight (R36). -/
theorem walk_requests {s a x : State} {n : Nat} (hs : s.sched.runState = .stopped) (hx : rowEffect .planFetchComplete s = x)
    (h : TrafficAlone a x) (ha : a.sched = s.sched ∧ a.cache.fetch.isSome = true)
    (hq : Request.planFetch n (s.path.planBase + 32 * n) ∈ x.engine.queued) :
    ∃ t, exec .planFetchComplete s = .next t ∧ Follows a t ∧ Request.planFetch n (s.path.planBase + 32 * n) ∈ t.engine.queued := by
  have hsched : x.sched = s.sched := h.near.run.sched.trans ha.1
  refine ⟨finish x, by rw [exec_eq, hx], h.near.follows (finish_follows x), finish_queued_of_idle rfl ?_ ?_ hq⟩
  · rw [hsched, hs]
    rfl
  · rw [h.cache]
    exact ha.2

/-- A walk that ends without success (R37). -/
theorem reports_walkFail {s b : State} {entries : List CacheEntry} {seq : BitVec 8} (hb : s.cmd.busy = some (seq, .loadPlan))
    (h : TrafficAlone { s with cache := { s.cache with entries := entries, fetch := none } } b) {n : Nat} {r : FaultReason}
    (hx : rowEffect .planFetchComplete s = walkFail n r b) :
    Reports .planFetchComplete s
      (decided seq .invalid
        { s with
          cmd := { s.cmd with busy := none }
          cache := { entries := [], loaded := none, fetch := none, walk := none, fault := some (n, r) } }) := by
  refine .of_effect ?_ (hx ▸ requestStatus_stands _)
  rw [hx]
  have hc := h.map (f := fun s => s.modCache fun c => { c.emptied with walk := none, loaded := none, fault := some (n, r) }) fun _ _ _ _ => rfl
  exact ((traffic_decideLong hc (r := .invalid) hb).trans (traffic_requestStatus _)).near

theorem reports_walkSucceed {s b : State} {entries : List CacheEntry} {seq : BitVec 8} (hb : s.cmd.busy = some (seq, .loadPlan))
    (h : TrafficAlone { s with cache := { s.cache with entries := entries, fetch := none } } b) {entry : Nat}
    (hx : rowEffect .planFetchComplete s = walkSucceed entry b) :
    Reports .planFetchComplete s
      (decided seq .ok
        { s with
          cmd := { s.cmd with busy := none }
          cache := { s.cache with entries := entries, loaded := some entry, fetch := none, walk := none } }) := by
  refine .of_effect ?_ (hx ▸ requestStatus_stands _)
  rw [hx]
  have hc := h.map (f := fun s => s.modCache fun c => { c with walk := none, loaded := some entry }) fun _ _ _ _ => rfl
  exact ((traffic_decideLong hc (r := .ok) hb).trans (traffic_requestStatus _)).near

/-- The walk goes on from the entries that a fetch has left, by the first step that applies (R36). -/
theorem walkNext_goesOn {s b : State} {fetched : List CacheEntry} {seq : BitVec 8} {entry slot : Nat}
    (hb : s.cmd.busy = some (seq, .loadPlan)) (hs : s.sched.runState = .stopped)
    (h : TrafficAlone { s with cache := { s.cache with entries := fetched, fetch := none } } b)
    (hx : rowEffect .planFetchComplete s = walkNext entry slot b) :
    let idle := { s with cmd := { s.cmd with busy := none } }
    let failed := fun (n : Nat) (r : FaultReason) =>
      Reports .planFetchComplete s
        (decided seq .invalid
          { idle with cache := { entries := [], loaded := none, fetch := none, walk := none, fault := some (n, r) } })
    let requests := fun (n : Nat) (entries : List CacheEntry) =>
      ∃ t, exec .planFetchComplete s = .next t ∧
        Follows { s with cache := { s.cache with entries := entries, fetch := some { slot := n, orphan := false } } } t ∧
        Request.planFetch n (s.path.planBase + 32 * n) ∈ t.engine.queued
    let creates := fun n : Nat =>
      (fetched.length < 32 → requests n (fetched ++ [{ newEntry n with state := .fetching }])) ∧
        (32 ≤ fetched.length → failed n .tooLong)
    let leads := fun (x : CacheEntry) (n : Nat) =>
      x.state = .valid ∧ (∃ c, x.record = some c ∧ c.next = some n) ∧ ∀ y ∈ fetched, y.slot ≠ n
    let own := fetched.find? fun x => x.slot == slot
    (∀ x n, own = some x → leads x n → creates n) ∧
    ((∀ x n, own = some x → ¬leads x n) →
      (∀ pre x post, fetched = pre ++ x :: post → x.state = .stale → (∀ y ∈ pre, y.state ≠ .stale) →
        requests x.slot
          (fetched.map fun y =>
            if y.slot = x.slot then
              { y with state := if y.state = .fault then .fault else .fetching, writtenDuringFetch := false }
            else y)) ∧
      ((∀ y ∈ fetched, y.state ≠ .stale) →
        (∀ pre x post n, fetched = pre ++ x :: post → leads x n → (∀ y ∈ pre, ∀ m, ¬leads y m) → creates n) ∧
        ((∀ x ∈ fetched, ∀ n, ¬leads x n) →
          Reports .planFetchComplete s
            (decided seq .ok
              { idle with
                cache :=
                  { s.cache with entries := fetched, loaded := some entry, fetch := none, walk := none } })))) := by
  intro idle failed requests creates leads own
  have hcache : b.cache = { s.cache with entries := fetched, fetch := none } := h.cache
  have hent : b.cache.entries = fetched := by rw [hcache]
  have hlead : ∀ x n, b.cache.openLink x = some n ↔ leads x n := fun x n => by
    rw [openLink_eq_some, hent]
  have hown : b.cache.entry? slot = own := by rw [PlanCache.entry?, hent]
  have hbase : b.path.planBase = s.path.planBase := planBase_of_table h.2.1
  have hcreates : ∀ n, (∀ y ∈ fetched, y.slot ≠ n) → rowEffect .planFetchComplete s = walkExtend n b → creates n := by
    intro n hn hw
    refine ⟨fun hl => ?_, fun hl => ?_⟩
    · have he : walkExtend n b = walkCreate n b := if_pos (by rw [hent]; exact hl)
      have hq : Request.planFetch n (s.path.planBase + 32 * n) ∈ (walkCreate n b).engine.queued := by
        rw [← hbase]
        exact requestFetch_queued n _
      exact walk_requests hs (hw.trans he) (traffic_walkCreate h hn) ⟨rfl, rfl⟩ hq
    · have he : walkExtend n b = walkFail n .tooLong b := if_neg (by rw [hent]; omega)
      exact reports_walkFail hb h (hw.trans he)
  refine ⟨fun x n ho hl => ?_, fun hno => ⟨fun pre x post hf hx' hpre => ?_, fun hstale => ⟨fun pre x post n hf hl hpre => ?_,
    fun hnone => ?_⟩⟩⟩
  · refine hcreates n hl.2.2 (hx.trans ?_)
    have ha : b.cache.openLinkAt slot = some n := by
      unfold PlanCache.openLinkAt
      rw [hown, ho]
      exact (hlead x n).2 hl
    unfold walkNext
    rw [ha]
  all_goals
    have ha : b.cache.openLinkAt slot = none :=
      openLinkAt_of_none fun x n hx hl => hno x n (hown ▸ hx) ((hlead x n).1 hl)
  · have he : walkNext entry slot b = requestFetch x.slot b := by
      unfold walkNext
      rw [ha, hent, hf]
      dsimp only
      rw [find?_of_first (fun y hy => by simpa using hpre y hy) (by simp [hx'])]
    refine walk_requests hs (hx.trans he) (traffic_requestFetch h x.slot) ⟨rfl, rfl⟩ ?_
    rw [← hbase]
    exact requestFetch_queued _ b
  all_goals
    have hst : b.cache.entries.find? (fun e => e.state == .stale) = none := by
      rw [hent, List.find?_eq_none]
      exact fun y hy => by simpa using hstale y hy
  · refine hcreates n hl.2.2 (hx.trans ?_)
    have hfind : b.cache.entries.findSome? b.cache.openLink = some n := by
      rw [hent, hf]
      exact findSome?_of_first (fun y hy => Option.eq_none_iff_forall_ne_some.2 fun m hm => hpre y hy m ((hlead y m).1 hm))
        ((hlead x n).2 hl)
    unfold walkNext
    rw [ha, hst]
    dsimp only
    rw [hfind]
  · have hfind : b.cache.entries.findSome? b.cache.openLink = none := by
      rw [hent, List.findSome?_eq_none_iff]
      exact fun y hy => Option.eq_none_iff_forall_ne_some.2 fun m hm => hnone y hy m ((hlead y m).1 hm)
    have he : walkNext entry slot b = walkSucceed entry b := by
      unfold walkNext
      rw [ha, hst]
      dsimp only
      rw [hfind]
    exact reports_walkSucceed hb h (hx.trans he)

/-- Settles O18: the fetched record by its mark and its check, and the walk's next step. -/
theorem walkFetchCompletes : Obligations.WalkFetchCompletes := by
  intro seq entry slot addr ws e s hl hf hw he hb hs
  obtain ⟨t, ht, hx⟩ := rowEffect_planFetch hl
  have hcache := ht.cache
  have hd := fetchDone_of_entry (s := t) (by rw [hcache]; exact hf) (by rw [hcache]; exact he) ws
  rw [hcache, hw] at hd
  have hx := hx.trans hd
  have hslots : (t.modCache fun c => { c with fetch := none }).path.planSlots = s.path.planSlots := planSlots_of_table ht.2.1
  have hafter (f : CacheEntry → CacheEntry) :
      TrafficAlone
        { s with cache := { s.cache with entries := s.cache.entries.map fun x => if x.slot = slot then f x else x, fetch := none } }
        ((t.modCache fun c => { c with fetch := none }).modCache fun c => c.update slot f) :=
    ht.map (f := fun a => a.modCache fun c =>
      { c with fetch := none, entries := c.entries.map fun x => if x.slot = slot then f x else x }) fun _ _ _ _ => rfl
  unfold walkFetched at hx
  dsimp only at hx
  rw [hslots] at hx
  refine ⟨fun hm => ?_, fun hm => ⟨fun r hr => ?_, fun g hg => ?_⟩⟩
  · rw [if_pos hm] at hx
    exact walkNext_goesOn hb hs (hafter _) hx
  · rw [if_neg (by simp [hm]), hr] at hx
    exact reports_walkFail hb (hafter _) hx
  · rw [if_neg (by simp [hm]), hg] at hx
    exact walkNext_goesOn hb hs (hafter _) hx

end Sys2Proof.Machine
end

section
/-! PROOFS. Requests that stay in the engine's queue while what follows from an effect is done: reads, status and log records; a log
record leaves it written or counted as lost (R162, R169). -/

namespace Sys2Proof.Machine

/-! ### The lost-record count -/

theorem requestStatus_lost (s : State) : (requestStatus s).engine.lost = s.engine.lost := by
  simp only [requestStatus, State.modEngine_engine]
  (repeat' split) <;> rfl

theorem beginWake_lost (c : WakeCause) (l : Bool) (s : State) : (beginWake c l s).engine.lost = s.engine.lost := by
  unfold beginWake
  rw [requestStatus_lost]
  unfold askPortForWake wakeControllerLines
  (repeat' split) <;> rfl

theorem endOrderService_lost (s : State) : (endOrderService s).engine.lost = s.engine.lost := by
  unfold endOrderService
  (repeat' split) <;> simp

theorem requestOrder_lost (o : OrderContent) (s : State) : (requestOrder o s).engine.lost = s.engine.lost := by
  have he : (evictOrder s).engine.lost = s.engine.lost := by
    unfold evictOrder
    repeat' split
    · rfl
    · exact endOrderService_lost s
    · rfl
  unfold requestOrder
  dsimp only
  repeat' split
  · rfl
  · rfl
  · exact he

theorem serve_lost (r : Request) (todo : List EngineAccess) (b : Bool) (v : BitVec 8) (s : State) :
    (serve r todo b v s).engine.lost = s.engine.lost := by simp [serve]

/-! ### The queue under an ORDER_WRITE -/

theorem endOrderService_mem {s : State} {r : Request} {c : OrderContent} (hs : s.engine.inService = some (.order c))
    (hr : r ≠ .order c) (h : r ∈ s.engine.queued) : r ∈ (endOrderService s).engine.queued := by
  obtain ⟨sv, hv, -, hq⟩ : ∃ sv, s.engine.service = some sv ∧ sv.ended = false ∧ sv.request = .order c := by
    unfold Engine.inService at hs
    cases hv : s.engine.service with
    | none => simp [hv] at hs
    | some sv =>
      rw [hv] at hs
      by_cases he : sv.ended = true
      · simp [he] at hs
      · simp only [he, Bool.false_eq_true, if_false, Option.some.injEq] at hs
        exact ⟨sv, rfl, by simpa using he, hs⟩
  have hw : r ∈ s.engine.waiting := by
    simp only [Engine.queued, hs, Option.toList_some, List.cons_append, List.nil_append, List.mem_cons] at h
    exact h.resolve_left hr
  unfold endOrderService
  rw [hv]
  dsimp only
  split
  · simp [Engine.queued, hw]
  · refine queued_of_engine (a := s.modEngine fun e => { e with service := none }) (by simp) ?_
    simp [Engine.queued, hw]

theorem evictOrder_mem {s : State} {r : Request} (hr : r.orderContent? = none) (h : r ∈ s.engine.queued) :
    r ∈ (evictOrder s).engine.queued := by
  have hne (c : OrderContent) : r ≠ .order c := fun e => by rw [e] at hr; cases hr
  unfold evictOrder
  split
  · exact h
  · rename_i c _
    split
    · rename_i hs
      exact endOrderService_mem hs (hne c) h
    · simp only [Engine.queued, Engine.inService, State.modEngine_engine, List.mem_append] at h ⊢
      exact h.imp id fun hw => (List.mem_erase_of_ne (hne c)).2 hw

theorem mem_replaceOrder {o : OrderContent} {l : List Request} {r : Request} (hr : r.orderContent? = none) (h : r ∈ l) :
    r ∈ replaceOrder o l := by
  have hne (c : OrderContent) : r ≠ .order c := fun e => by rw [e] at hr; cases hr
  induction l with
  | nil => cases h
  | cons x l ih =>
    rcases List.mem_cons.1 h with rfl | hl
    · cases r with
      | order c => exact absurd rfl (hne c)
      | status => exact List.mem_cons_self
      | log _ => exact List.mem_cons_self
      | planFetch _ _ => exact List.mem_cons_self
      | configRead => exact List.mem_cons_self
    · cases x with
      | order c =>
        unfold replaceOrder
        split
        · exact List.mem_cons_of_mem _ hl
        · exact List.mem_cons_of_mem _ (ih hl)
      | status => exact List.mem_cons_of_mem _ (ih hl)
      | log _ => exact List.mem_cons_of_mem _ (ih hl)
      | planFetch _ _ => exact List.mem_cons_of_mem _ (ih hl)
      | configRead => exact List.mem_cons_of_mem _ (ih hl)

theorem mem_concat_waiting {s : State} {r : Request} (x : Request) (h : r ∈ s.engine.queued) :
    r ∈ (s.modEngine fun e => { e with waiting := e.waiting ++ [x] }).engine.queued := by
  simp only [Engine.queued, Engine.inService, State.modEngine_engine, List.mem_append] at h ⊢
  exact h.imp id .inl

/-- A request of another kind stays when an ORDER_WRITE is requested. -/
theorem requestOrder_mem (o : OrderContent) {s : State} {r : Request} (hr : r.orderContent? = none) (h : r ∈ s.engine.queued) :
    r ∈ (requestOrder o s).engine.queued := by
  unfold requestOrder
  dsimp only
  split
  · simp only [Engine.queued, Engine.inService, State.modEngine_engine, List.mem_append] at h ⊢
    exact h.imp id (mem_replaceOrder hr)
  · split
    · exact mem_concat_waiting _ h
    · exact mem_concat_waiting _ (evictOrder_mem hr h)

/-! ### What follows an effect keeps a request -/

/-- A request stands in the engine's queue, or it is a log record and the lost-record count has risen past a number. -/
def StandsOrLost (r : Request) (n : Nat) (s : State) : Prop :=
  n ≤ s.engine.lost ∧ (r ∈ s.engine.queued ∨ (r.isLog = true ∧ n < s.engine.lost))

theorem StandsOrLost.mono {r : Request} {n : Nat} {a b : State} (h : StandsOrLost r n a) (hq : r ∈ a.engine.queued → r ∈ b.engine.queued)
    (hl : b.engine.lost = a.engine.lost) : StandsOrLost r n b :=
  ⟨hl ▸ h.1, h.2.imp hq fun k => ⟨k.1, hl ▸ k.2⟩⟩

theorem keptBySettling_standsOrLost {r : Request} (hr : r.orderContent? = none) {n : Nat} (hn : n < 4294967295) :
    KeptBySettling (StandsOrLost r n) := by
  have rises (x : Nat) (h : n ≤ x) : n < saturatingAdd max32 x 1 := by
    unfold saturatingAdd max32
    omega
  have lost {s : State} (e : Engine) (hq : r ∈ s.engine.queued → r ∈ e.queued)
      (he : e.lost = s.engine.lost ∨ e.lost = saturatingAdd max32 s.engine.lost 1) (h : StandsOrLost r n s) :
      StandsOrLost r n { s with engine := e } := by
    rcases he with he | he
    · exact h.mono hq he
    · refine ⟨?_, h.2.imp hq fun k => ⟨k.1, ?_⟩⟩
      · exact (rises _ h.1).le.trans he.ge
      · exact (rises _ h.1).trans_le he.ge
  have events : KeptByEvents (StandsOrLost r n) :=
    { run := fun _ _ _ _ _ h => h
      supply := fun _ _ h => h
      board := fun _ _ _ _ h => h
      engine := fun e he hl h => lost e (fun k => he ▸ k) hl h
      status := fun h => h.mono (requestStatus_queued _ _) (requestStatus_lost _)
      marks := fun _ _ _ _ _ _ _ h => h
      wake := fun c l _ h => h.mono (beginWake_queued c l _ _) (beginWake_lost c l _)
      log := fun _ _ h => h.mono (mem_concat_waiting _) rfl }
  exact
    { events with
      retires := fun e o c m g _ h => events.retire (fun _ _ h => h) e o c m g h
      order := fun o h => h.mono (requestOrder_mem o hr) (requestOrder_lost o _)
      drop := fun {s} l _ h => by
        have h0 : StandsOrLost r n
            { s with
              engine :=
                { s.engine with waiting := s.engine.waiting.erase (.log l), lost := saturatingAdd max32 s.engine.lost 1 } } := by
          have hx := rises _ h.1
          refine ⟨hx.le, ?_⟩
          by_cases he : r = .log l
          · exact .inr ⟨by rw [he]; rfl, hx⟩
          · refine h.2.imp (fun k => ?_) fun k => ⟨k.1, hx⟩
            simp only [Engine.queued, Engine.inService, List.mem_append] at k ⊢
            exact k.imp id fun hw => (List.mem_erase_of_ne he).2 hw
        exact events.status (events.raiseEvent .logLost h0)
      serve := fun {s} x todo b v hs hx _ h => by
        refine h.mono (fun k => ?_) (serve_lost _ _ _ _ _)
        have hq : s.engine.queued = s.engine.waiting := by simp [Engine.queued, Engine.inService, hs]
        have he : (serve x todo b v (s.modEngine fun e => { e with waiting := e.waiting.erase x })).engine.queued =
            x :: s.engine.waiting.erase x := by simp [serve, Engine.queued, Engine.inService]
        rw [he]
        exact (List.perm_cons_erase hx).subset (hq ▸ k)
      cache := fun _ _ _ h => h
      fetch := fun m _ h => h.mono (mem_concat_waiting _) rfl }

theorem finish_standsOrLost {r : Request} (hr : r.orderContent? = none) {n : Nat} (hn : n < 4294967295) {s : State}
    (h : StandsOrLost r n s) : StandsOrLost r n (finish s) := by
  have hs := (keptBySettling_standsOrLost hr hn).settle h
  exact hs.mono (fun k => queued_of_engine (a := settle s) (by simp [finish]) k) (by simp [finish])

/-- A read or a status record asked for stays in the queue until its service is done. -/
theorem finish_mem {r : Request} (hr : r.orderContent? = none) (hl : r.isLog = false) {s : State} (h : r ∈ s.engine.queued) :
    r ∈ (finish s).engine.queued := by
  have hs := (finish_standsOrLost hr (n := 0) (by omega) ⟨Nat.zero_le _, .inl h⟩).2
  exact hs.resolve_right fun k => by rw [hl] at k; cases k.1

end Sys2Proof.Machine
end

section
/-! PROOFS. The judgement of a configuration block: its tests in order, and each number kept or clamped. -/

namespace Sys2Proof.Machine

theorem Window.aligned_iff (w : Window) :
    w.aligned = true ↔ w.base % 256 = 0 ∧ w.limit % 256 = 255 ∧ w.base ≤ w.limit := by
  simp [Window.aligned, and_assoc]

theorem Window.overlaps_eq_false_iff (v w : Window) :
    v.overlaps w = false ↔ v.limit < w.base ∨ w.limit < v.base := by
  simp only [Window.overlaps, Bool.and_eq_false_iff, decide_eq_false_iff_not, Nat.not_le]
  exact or_comm

/-- What each number of the block becomes: the nearest end of its range. -/
theorem clampNat_spec {lo hi : Nat} (h : lo ≤ hi) (x : Nat) :
    (x < lo → clampNat lo hi x = lo) ∧ (hi < x → clampNat lo hi x = hi) ∧ (lo ≤ x → x ≤ hi → clampNat lo hi x = x) := by
  unfold clampNat
  omega

theorem clampIdle_of_ne_zero {x : Nat} (h : x ≠ 0) : clampIdle x = clampNat 60 86400 x := if_neg h

theorem judgeConfig_of_bad {ws : List BusWord} (base : Nat) (h : ¬∀ w ∈ ws, w.good = true) :
    judgeConfig base ws = .error .invalid :=
  if_neg (by rwa [List.all_eq_true])

theorem judgeConfig_of_refusal {ws : List BusWord} {base : Nat} {r : Result} (h : ∀ w ∈ ws, w.good = true)
    (hr : (decodeConfig (ws.map BusWord.data)).refusal base = some r) : judgeConfig base ws = .error r := by
  simp only [judgeConfig, List.all_eq_true.2 h, if_true, hr]

theorem judgeConfig_of_accepted {ws : List BusWord} {base : Nat} (h : ∀ w ∈ ws, w.good = true)
    (hr : (decodeConfig (ws.map BusWord.data)).refusal base = none) :
    judgeConfig base ws = .ok ((decodeConfig (ws.map BusWord.data)).clamped,
      if (decodeConfig (ws.map BusWord.data)).clamped = decodeConfig (ws.map BusWord.data) then .ok else .okClamped) := by
  simp only [judgeConfig, List.all_eq_true.2 h, if_true, hr]

/-- The windows of a block are placed as R177's second test asks. -/
def ConfigBlock.placed (b : ConfigBlock) : Bool := b.plan.aligned && b.stat.aligned && b.log.aligned

/-- Two of the block's windows, or one of them and the CONTROL window, share an address. -/
def ConfigBlock.clash (b : ConfigBlock) (base : Nat) : Bool :=
  b.plan.overlaps b.stat || b.plan.overlaps b.log || b.stat.overlaps b.log || b.plan.overlaps (controlWindow base) ||
    b.stat.overlaps (controlWindow base) || b.log.overlaps (controlWindow base)

theorem ConfigBlock.refusal_of_misplaced {b : ConfigBlock} {base : Nat} (h : ¬b.placed = true) :
    b.refusal base = some .invalid := by
  simp only [ConfigBlock.placed] at h
  simp only [ConfigBlock.refusal, h, Bool.not_false, if_true]

theorem ConfigBlock.refusal_of_clash {b : ConfigBlock} {base : Nat} (h : b.placed = true) (hc : b.clash base = true) :
    b.refusal base = some .overlap := by
  simp only [ConfigBlock.placed] at h
  simp only [ConfigBlock.clash] at hc
  simp only [ConfigBlock.refusal, h, hc, Bool.not_true, Bool.false_eq_true, if_false, if_true]

theorem ConfigBlock.refusal_of_separate {b : ConfigBlock} {base : Nat} (h : b.placed = true) (hc : b.clash base = false) :
    b.refusal base =
      if (b.tuning.depth = 1 ∨ b.tuning.depth = 2) ∧ b.settings.crit < b.settings.low then none else some .invalid := by
  simp only [ConfigBlock.placed] at h
  simp only [ConfigBlock.clash] at hc
  simp only [ConfigBlock.refusal, h, hc, Bool.not_true, Bool.false_eq_true, if_false]
  by_cases hd : b.tuning.depth = 1 ∨ b.tuning.depth = 2
  · have hd' : (b.tuning.depth == 1 || b.tuning.depth == 2) = true := by simpa using hd
    simp only [hd', hd, Bool.not_true, Bool.false_eq_true, if_false, true_and]
    by_cases hl : b.settings.low ≤ b.settings.crit
    · rw [if_pos hl, if_neg (by omega)]
    · rw [if_neg hl, if_pos (by omega)]
  · have hd' : (b.tuning.depth == 1 || b.tuning.depth == 2) = false := by simpa using hd
    simp [hd', hd]

theorem ConfigBlock.placed_iff (b : ConfigBlock) :
    b.placed = true ↔ b.plan.aligned = true ∧ b.stat.aligned = true ∧ b.log.aligned = true := by
  simp [ConfigBlock.placed, and_assoc]

theorem ConfigBlock.clash_eq_false_iff (b : ConfigBlock) (base : Nat) :
    b.clash base = false ↔ b.plan.overlaps b.stat = false ∧ b.plan.overlaps b.log = false ∧
      b.stat.overlaps b.log = false ∧ b.plan.overlaps (controlWindow base) = false ∧
      b.stat.overlaps (controlWindow base) = false ∧ b.log.overlaps (controlWindow base) = false := by
  simp [ConfigBlock.clash, and_assoc]

/-- Settles O20: each test is the refusal's own, and each number the nearest in its range. -/
theorem configurationJudged : Obligations.ConfigurationJudged := by
  intro base ws b good placed apart control windows separate sound clamped
  have hw : windows ↔ b.placed = true := by
    rw [ConfigBlock.placed_iff]
    simp only [Window.aligned_iff]
    rfl
  have hs : separate ↔ b.clash base = false := by
    rw [ConfigBlock.clash_eq_false_iff]
    simp only [Window.overlaps_eq_false_iff]
    rfl
  have hclamp {lo hi : Nat} (h : lo ≤ hi) (x : Nat) : clamped lo hi x (clampNat lo hi x) := clampNat_spec h x
  refine ⟨judgeConfig_of_bad base, fun hg hm => ?_, fun hg hp hc => ?_, fun hg hp hc hd => ?_, fun hg hp hc hd => ?_⟩
  · exact judgeConfig_of_refusal hg (b.refusal_of_misplaced (mt hw.2 hm))
  · exact judgeConfig_of_refusal hg (b.refusal_of_clash (hw.1 hp) (Bool.not_eq_false _ ▸ mt hs.2 hc))
  · exact judgeConfig_of_refusal hg ((b.refusal_of_separate (hw.1 hp) (hs.1 hc)).trans (if_neg hd))
  · refine ⟨b.clamped, _, judgeConfig_of_accepted hg ((b.refusal_of_separate (hw.1 hp) (hs.1 hc)).trans (if_pos hd)),
      ?_, ?_, rfl, rfl, rfl, hclamp (by omega) _, hclamp (by omega) _, hclamp (by omega) _, hclamp (by omega) _, fun h => ?_,
      fun h => ?_, hclamp (by omega) _, hclamp (by omega) _, hclamp (by omega) _, hclamp (by omega) _, hclamp (by omega) _,
      hclamp (by omega) _, hclamp (by omega) _, rfl, rfl, rfl, rfl, rfl, rfl, rfl⟩
    · change (if b.clamped = b then Result.ok else .okClamped) = .ok ↔ _
      by_cases h : b.clamped = b <;> simp [h]
    · exact ite_eq_or_eq _ _ _
    · change clampIdle b.settings.idleWake = 0
      rw [h]
      rfl
    · change clamped 60 86400 b.settings.idleWake (clampIdle b.settings.idleWake)
      rw [clampIdle_of_ne_zero h]
      exact hclamp (by omega) _

end Sys2Proof.Machine
end

section
/-! PROOFS. CONFIGURE: its read requested, and its decision (R176, R179). -/

namespace Sys2Proof.Machine

/-! ### No record is lost where no log record waits (R169) -/

theorem beginRequest_lost {r : Request} (h : r.isLog = false) (s : State) :
    (beginRequest r s).engine.lost = s.engine.lost := by
  cases r with
  | log l => cases h
  | order c => exact serve_lost _ _ _ _ _
  | status => exact serve_lost _ _ _ _ _
  | planFetch n a => exact serve_lost _ _ _ _ _
  | configRead => exact serve_lost _ _ _ _ _

theorem beginOnce_lost {s : State} (h : NoLogWaiting s) : (beginOnce s).engine.lost = s.engine.lost := by
  unfold beginOnce
  split
  · rfl
  · split
    · rfl
    · rename_i r hr
      have hlog : r.isLog = false := by simpa using List.any_eq_false.mp h r (chooseRequest_mem hr)
      rw [beginRequest_lost hlog, State.modEngine_engine]

theorem beginService_lost {s : State} (h : NoLogWaiting s) : (beginService s).engine.lost = s.engine.lost :=
  (beginOnce_lost (beginOnce_of_noLog h).2).trans (beginOnce_lost h)

theorem requestFetch_lost (n : Nat) (s : State) : (requestFetch n s).engine.lost = s.engine.lost := by
  simp [requestFetch]

theorem cacheSettle_lost (s : State) : (cacheSettle s).engine.lost = s.engine.lost := by
  unfold cacheSettle walkCreate
  repeat' split
  all_goals simp [requestFetch_lost]

theorem beginWake_noLog (c : WakeCause) (l : Bool) {s : State} (h : NoLogWaiting s) : NoLogWaiting (beginWake c l s) := by
  unfold beginWake
  refine requestStatus_noLog ?_
  unfold askPortForWake wakeControllerLines
  (repeat' split) <;> exact h

/-- The lost-record count with no log record waiting, where no issue is made. -/
def NoneLost (s : State) : Prop := NoLogWaiting s ∧ s.engine.lost = 0

theorem beginWake_noneLost (c : WakeCause) (l : Bool) {s : State} (h : NoneLost s) : NoneLost (beginWake c l s) :=
  ⟨beginWake_noLog c l h.1, (beginWake_lost c l s).trans h.2⟩

theorem judgeScheduled_noneLost {s : State} (h : NoneLost s) : NoneLost (judgeScheduled s) := by
  unfold judgeScheduled
  split
  · exact beginWake_noneLost _ _ h
  · exact h

theorem judgeIdle_noneLost {s : State} (h : NoneLost s) : NoneLost (judgeIdle s) := by
  unfold judgeIdle
  split
  · exact beginWake_noneLost _ _ h
  · exact h

theorem judgeWakes_noneLost {s : State} (h : NoneLost s) : NoneLost (judgeWakes s) :=
  judgeIdle_noneLost (judgeScheduled_noneLost h)

theorem finish_noneLost {s : State} (hc : s.sched.runState.capturing = false) (h : NoneLost s) : (finish s).engine.lost = 0 := by
  have hs : NoneLost (cacheSettle (freeBuffer s)) :=
    ⟨cacheSettle_noLog (h.1.of_engine (by simp)), by rw [cacheSettle_lost]; simpa using h.2⟩
  obtain ⟨hn, hl⟩ := judgeWakes_noneLost hs
  rw [finish_of_idle hc]
  simp [beginService_lost hn, hl]

/-! ### The same change of one block of the traffic, made on both sides -/

theorem TrafficAlone.modPath {a b : State} (h : TrafficAlone a b) {f : Path → Path}
    (hf : ∀ p q : Path, q.table = p.table → (f q).table = (f p).table) : TrafficAlone (a.modPath f) (b.modPath f) := by
  obtain ⟨hb, hp, he⟩ := h
  exact ⟨congrArg (fun x : State => x.modPath f) hb, hf _ _ hp, he⟩

theorem TrafficAlone.modEngine {a b : State} (h : TrafficAlone a b) {f g : Engine → Engine}
    (hf : ∀ d e : Engine, e.kept = d.kept → (g e).kept = (f d).kept) : TrafficAlone (a.modEngine f) (b.modEngine g) := by
  obtain ⟨hb, hp, he⟩ := h
  exact ⟨congrArg (fun x : State => x.modEngine g) hb, hp, hf _ _ he⟩

theorem traffic_setRunState (r : RunState) (s : State) :
    TrafficAlone { s with sched := { s.sched with runState := r } } (setRunState r s) := by
  unfold setRunState
  split
  · rename_i h
    subst h
    exact .rfl' s
  · exact traffic_requestStatus _

/-! ### The block put in force (R49, R179) -/

/-- The cache under a PLAN window that changes (R49). -/
def PlanCache.windowChanged (c : PlanCache) : PlanCache :=
  { c with entries := [], loaded := none, fault := none, fetch := c.fetch.map fun f => { f with orphan := true } }

theorem traffic_changePlanWindow {a b : State} (h : TrafficAlone a b) (w : Window) :
    TrafficAlone { a with cache := if a.path.plan = some w then a.cache else a.cache.windowChanged } (changePlanWindow w b) := by
  have hp : b.path.plan = a.path.plan := (congrArg Path.plan h.2.1 : b.path.table.plan = a.path.table.plan)
  unfold changePlanWindow
  rw [hp]
  by_cases hw : a.path.plan = some w
  · rw [if_pos hw, if_pos hw]
    exact h
  · rw [if_neg hw, if_neg hw]
    exact (h.map (f := fun s => s.modCache PlanCache.windowChanged) fun _ _ _ _ => rfl).trans (traffic_requestStatus _)

/-- The part after the decision and its block put in force, but for the run state. -/
def blockInForce (b : ConfigBlock) (s : State) : State :=
  { s with
    path := { s.path with plan := some b.plan, stat := some b.stat, log := some b.log, consumer := none }
    config := { settings := b.settings, tuning := some b.tuning }
    stats := { s.stats with assembler := .idle }
    engine := { s.engine with producer := 0 }
    cache := if s.path.plan = some b.plan then s.cache else s.cache.windowChanged }

theorem traffic_applyConfig {a t : State} (h : TrafficAlone a t) (b : ConfigBlock)
    (hr : a.sched.runState = .unconfigured ∨ a.sched.runState = .stopped) :
    TrafficAlone { blockInForce b a with sched := { a.sched with runState := .stopped } } (applyConfig b t) := by
  have hb : TrafficAlone (blockInForce b a)
      ((((setAssembler .idle ((changePlanWindow b.plan t).modPath fun p =>
        { p with plan := some b.plan, stat := some b.stat, log := some b.log, consumer := none })).modEngine
          fun e => { e with producer := 0, lost := 0 }).modConfig fun _ => { settings := b.settings, tuning := some b.tuning })) := by
    have h1 := (traffic_changePlanWindow h b.plan).modPath
      (f := fun p => { p with plan := some b.plan, stat := some b.stat, log := some b.log, consumer := none })
      fun p q hpq => congrArg (fun x : Path =>
        { x with plan := some b.plan, stat := some b.stat, log := some b.log, consumer := none }) hpq
    have h2 := h1.map (f := setAssembler .idle) fun _ _ _ _ => rfl
    have h3 := h2.modEngine (f := fun e => { e with producer := 0 }) (g := fun e => { e with producer := 0, lost := 0 })
      fun d e hde => congrArg (fun k : Nat × List (Option (List Word)) × List Bool => (0, k.2)) hde
    exact h3.map (f := fun s => s.modConfig fun _ => { settings := b.settings, tuning := some b.tuning }) fun _ _ _ _ => rfl
  have hsched := hb.near.run.sched
  unfold applyConfig
  dsimp only
  split
  · exact (hb.map (f := fun s => { s with sched := { s.sched with runState := .stopped } }) fun _ _ _ _ => rfl).trans
      (traffic_setRunState .stopped _)
  · rename_i hn
    rw [hsched] at hn
    have hs : a.sched.runState = .stopped := hr.resolve_left hn
    rw [← hs]
    exact hb

/-! ### What the decision leaves in the engine's queue -/

theorem applyConfig_stands (b : ConfigBlock) {s : State} (h : StatusStands s) : StatusStands (applyConfig b s) := by
  have h1 : StatusStands (changePlanWindow b.plan s) := by
    unfold changePlanWindow
    split
    · exact h
    · exact requestStatus_stands _
  have h2 := h1.modEngine (f := fun e => { e with producer := 0, lost := 0 }) (fun hw => hw) fun hs => .inr hs
  unfold applyConfig
  dsimp only
  split
  · refine setRunState_stands .stopped (StatusStands.of_engine ?_ h2)
    simp [setAssembler]
  · refine StatusStands.of_engine ?_ h2
    simp [setAssembler]

theorem NoneLost.of_engine {a b : State} (h : NoneLost a) (k : b.engine = a.engine) : NoneLost b :=
  ⟨h.1.of_engine k, by rw [k]; exact h.2⟩

theorem setRunState_noneLost (r : RunState) {s : State} (h : NoneLost s) : NoneLost (setRunState r s) := by
  unfold setRunState
  split
  · exact h
  · exact ⟨requestStatus_noLog h.1, (requestStatus_lost _).trans h.2⟩

theorem applyConfig_noneLost (b : ConfigBlock) {s : State} (h : NoLogWaiting s) : NoneLost (applyConfig b s) := by
  have h1 : NoLogWaiting (changePlanWindow b.plan s) := by
    unfold changePlanWindow
    split
    · exact h
    · exact requestStatus_noLog h
  have h2 : NoneLost ((changePlanWindow b.plan s).modEngine fun e => { e with producer := 0, lost := 0 }) := ⟨h1, rfl⟩
  unfold applyConfig
  dsimp only
  split
  · refine setRunState_noneLost _ (h2.of_engine ?_)
    simp [setAssembler]
  · refine h2.of_engine ?_
    simp [setAssembler]

theorem decideLong_of_busy {s : State} {seq : BitVec 8} {k : LongKind} (h : s.cmd.busy = some (seq, k)) (r : Result) :
    decideLong r s = decideCommand seq r (s.modCmd fun c => { c with busy := none }) := by
  unfold decideLong
  rw [h]

theorem restartTimer_blocks (s : State) : restartTimer s = { s with session := (restartTimer s).session } := by
  unfold restartTimer
  split <;> rfl

theorem decided_blocks (seq : BitVec 8) (r : Result) (s : State) :
    decided seq r s = { s with cmd := { s.cmd with lastDecided := some (seq, r) }, session := (decided seq r s).session } := by
  unfold decided
  dsimp only
  split
  · exact restartTimer_blocks _
  · rfl

theorem rowEffect_configRead {s : State} {ws : List BusWord} (h : LastRead s .configRead ws) :
    ∃ t, TrafficAlone s t ∧ t.engine = { s.engine with service := none } ∧
      rowEffect .configReadComplete s = decideConfigure ws t := by
  obtain ⟨sv, t, hv, hr, hl, htr, he, hx⟩ := lastRead_done h
  have hs : servesLastConfigRead s = true := by simp [servesLastConfigRead, hv, hr, hl]
  refine ⟨t, htr, he, ?_⟩
  calc rowEffect .configReadComplete s = engineCompleteNow s := if_pos hs
    _ = serviceDone sv ws t := hx
    _ = decideConfigure ws t := by simp [serviceDone, hr]

theorem configureCommand_of_resting {s : State} (h : s.sched.runState = .unconfigured ∨ s.sched.runState = .stopped)
    (seq : BitVec 8) :
    configureCommand seq s =
      (acceptLong seq .configure s).modEngine fun e => { e with waiting := e.waiting ++ [.configRead] } := by
  unfold configureCommand
  rcases h with h | h <;> simp [h, RunState.resting]

theorem configureCommand_of_run {s : State} (h : s.sched.runState ≠ .unconfigured) (k : s.sched.runState ≠ .stopped)
    (seq : BitVec 8) : configureCommand seq s = decideCommand seq .state s := by
  unfold configureCommand
  cases hr : s.sched.runState <;> simp_all [RunState.resting]

/-- Settles O19: the read is requested, and its completion decides by the judgement and puts the block in force. -/
theorem configureReadsAndPutsInForce : Obligations.ConfigureReadsAndPutsInForce := by
  refine ⟨fun seq s hb hr => ⟨fun hu hs => ?_, fun hrest => ?_⟩, fun seq ws s hlast hb hrest => ?_⟩
  · exact decides_of_free (f := configureCommand seq) rfl hb hr (configureCommand_of_run hu hs seq) (.rfl' s)
  · have hx : rowEffect (.configure seq) s =
        (acceptLong seq .configure s).modEngine fun e => { e with waiting := e.waiting ++ [.configRead] } := by
      calc rowEffect (.configure seq) s = outsideReset (unlessBusy seq (configureCommand seq)) s := rfl
        _ = configureCommand seq s := by rw [outsideReset_of_running hr, unlessBusy_of_free hb]
        _ = _ := configureCommand_of_resting hrest seq
    have hn := (queueAlone_acceptLong seq .configure s).waiting ((acceptLong seq .configure s).engine.waiting ++ [.configRead])
    refine ⟨_, (exec_eq _ s).trans (congrArg (fun x => Host.Outcome.next (finish x)) hx), finish_stands ?_, finish_mem rfl rfl ?_, hn.near.follows (finish_follows _)⟩
    · exact (acceptLong_stands seq .configure s).modEngine (fun h => by simp [h]) fun h => by simp [h]
    · simp [Engine.queued]
  intro idle
  refine ⟨fun r hj => ?_, fun b r hj => ?_⟩
  · obtain ⟨t, htr, -, hx⟩ := rowEffect_configRead hlast
    have hbase : t.path.controlBase = s.path.controlBase :=
      (congrArg Path.controlBase htr.2.1 : t.path.table.controlBase = s.path.table.controlBase)
    have hd : decideConfigure ws t = decideLong r t := by simp only [decideConfigure, hbase, hj]
    have hbt : t.cmd.busy = some (seq, .configure) := by rw [htr.1]; exact hb
    refine .of_effect ?_ ?_
    · rw [hx, hd]
      exact (traffic_decideLong htr hb r).near
    · rw [hx, hd, decideLong_of_busy hbt]
      exact decideCommand_stands _ _ _
  · obtain ⟨t, htr, he, hx⟩ := rowEffect_configRead hlast
    have hbase : t.path.controlBase = s.path.controlBase :=
      (congrArg Path.controlBase htr.2.1 : t.path.table.controlBase = s.path.table.controlBase)
    have hd : decideConfigure ws t = applyConfig b (decideLong r t) := by simp only [decideConfigure, hbase, hj]
    have hbt : t.cmd.busy = some (seq, .configure) := by rw [htr.1]; exact hb
    have hdec := traffic_decideLong htr hb r
    have hsched : (decided seq r idle).sched = s.sched := by rw [decided_blocks]
    have hn := traffic_applyConfig hdec b (by rw [hsched]; exact hrest)
    refine ⟨_, exec_eq _ _, ?_, fun hl => ?_, ?_⟩
    · rw [hx, hd, decideLong_of_busy hbt]
      exact finish_stands (applyConfig_stands b (decideCommand_stands _ _ _))
    · rw [hx, hd]
      refine finish_noneLost ?_ (applyConfig_noneLost b ?_)
      · rw [hn.near.run.sched]
        rfl
      · rw [decideLong_of_busy hbt]
        refine decideCommand_noLog _ _ ?_
        unfold NoLogWaiting
        rw [State.modCmd_engine, he]
        exact hl
    · rw [hx, hd]
      have hn' := hn.near.follows (finish_follows _)
      rw [decided_blocks] at hn' ⊢
      exact hn'

end Sys2Proof.Machine
end

section
/-! PROOFS. Which entry is fetched, and a PLAN word written (R39, R40, R42, R47). -/

namespace Sys2Proof.Machine

/-! ### The fetch wanted (R39, R42, R47) -/

/-- A slot's entry wants a fetch (R42, R47). -/
def Wants (s : State) (n : Nat) : Prop :=
  ∃ e, s.cache.entry? n = some e ∧
    ((e.state = .stale ∧ (s.sched.runState = .running ∨ s.sched.runState = .faultHold)) ∨
      (e.state = .fault ∧ e.awaiting = true))

theorem wantsFetch_none (s : State) : wantsFetch s none = false := by
  simp [wantsFetch, PlanCache.staleAt, PlanCache.awaitingAt]

theorem wantsFetch_some_iff (s : State) (n : Nat) : wantsFetch s (some n) = true ↔ Wants s n := by
  cases h : s.cache.entry? n with
  | none => simp [wantsFetch, PlanCache.staleAt, PlanCache.awaitingAt, Wants, h]
  | some e =>
    simp only [wantsFetch, PlanCache.staleAt, PlanCache.awaitingAt, Wants, h, Option.some.injEq, exists_eq_left',
      Bool.or_eq_true, Bool.and_eq_true, beq_iff_eq, capturing_iff]
    rw [and_comm (a := _ ∨ _)]

theorem wantsFetch_iff (s : State) (o : Option Nat) : wantsFetch s o = true ↔ ∃ n, o = some n ∧ Wants s n := by
  cases o with
  | none => simp [wantsFetch_none]
  | some n => simp [wantsFetch_some_iff]

/-- The next slot of the current segment's record, where its entry wants a fetch. -/
theorem wantsFetch_next_iff (s : State) :
    wantsFetch s (s.cache.nextOf s.seg.current) = true ↔
      ∃ m, (∃ n e g, s.seg.current = some n ∧ s.cache.entry? n = some e ∧ e.record = some g ∧ g.next = some m ∧ Wants s m) := by
  rw [wantsFetch_iff]
  refine exists_congr fun m => ?_
  rw [nextOf_eq_some]
  constructor
  · rintro ⟨⟨n, e, g, h1, h2, h3, h4⟩, hw⟩
    exact ⟨n, e, g, h1, h2, h3, h4, hw⟩
  · rintro ⟨n, e, g, h1, h2, h3, h4, hw⟩
    exact ⟨⟨n, e, g, h1, h2, h3, h4⟩, hw⟩

/-- The last of a list that meets a condition. -/
theorem find?_reverse_of_last {α : Type} {p : α → Bool} {pre post : List α} {x : α} (hx : p x = true)
    (hp : ∀ y ∈ post, p y = false) : (pre ++ x :: post).reverse.find? p = some x := by
  rw [List.reverse_append, List.reverse_cons, List.append_assoc]
  exact find?_of_first (fun y hy => hp y (List.mem_reverse.1 hy)) hx

/-! ### A PLAN word written (R40) -/

theorem planSlotOf_of_none {p : Path} (h : p.plan = none) (a : Nat) : planSlotOf p a = none := by
  unfold planSlotOf
  rw [h]

theorem planSlotOf_of_some {p : Path} {w : Window} (h : p.plan = some w) (a : Nat) :
    planSlotOf p a =
      if w.base ≤ a ∧ a ≤ w.limit ∧ (a - w.base) / 32 < 64 then some ((a - w.base) / 32) else none := by
  unfold planSlotOf
  rw [h]
  simp only [Window.holds, Bool.and_eq_true, decide_eq_true_eq, and_assoc]

theorem fetching_eq_some (c : PlanCache) (n : Nat) :
    c.fetching = some n ↔ c.fetch = some { slot := n, orphan := false } := by
  unfold PlanCache.fetching
  cases c.fetch with
  | none => simp
  | some f =>
    obtain ⟨m, o⟩ := f
    cases o <;> simp

theorem planWritten_of_slot {s : State} {a n : Nat} (h : planSlotOf s.path a = some n) :
    planWritten a s =
      { s with cache := s.cache.update n (CacheEntry.written (decide (s.cache.fetch = some { slot := n, orphan := false }))) } := by
  unfold planWritten
  simp only [h, fetching_eq_some]
  rfl

theorem planWritten_of_none {s : State} {a : Nat} (h : planSlotOf s.path a = none) : planWritten a s = s := by
  unfold planWritten
  rw [h]

theorem rowEffect_planWord {a : Addr} {enables : BitVec 4} (h : enables ≠ 0) (s : State) :
    rowEffect (.planWordWrite a enables) s = planWritten a.toNat s := if_neg h

theorem leaves_of_untouched {a : Addr} {enables : BitVec 4} {s : State} (h : enables ≠ 0) (hn : planSlotOf s.path a.toNat = none) :
    Leaves (.planWordWrite a enables) s s :=
  .of_effect (by rw [rowEffect_planWord h, planWritten_of_none hn]; exact .rfl' s)

/-- Settles O27: the fetch wanted by its places in order, and a word written by the state of its slot's entry. -/
theorem planWordTouchesItsSlot : Obligations.PlanWordTouchesItsSlot := by
  refine ⟨fun s => ?_, fun a enables s he => ⟨fun hp => ?_, fun w hp => ?_⟩⟩
  · intro wants own leads awaits
    have notOwn (ho : ¬own) : wantsFetch s s.seg.current = false := Bool.not_eq_true _ ▸ mt (wantsFetch_iff s _).1 ho
    have notNext (hl : ∀ n, ¬leads n) : wantsFetch s (s.cache.nextOf s.seg.current) = false :=
      Bool.not_eq_true _ ▸ fun h => ((wantsFetch_next_iff s).1 h).elim hl
    refine ⟨fun n hc hn => ?_, fun m ho hm => ?_, fun m ho hl hd hm => ?_, fun ho hl hd => ?_, fun hi hf hw n hn => ?_⟩
    · have h1 : wantsFetch s s.seg.current = true := (wantsFetch_iff s _).2 ⟨n, hc, hn⟩
      exact (if_pos h1).trans hc
    · obtain ⟨n, e, g, hn, hx, hr, hg, hw⟩ := hm
      have hnext : s.cache.nextOf s.seg.current = some m := (nextOf_eq_some _ _ _).2 ⟨n, e, g, hn, hx, hr, hg⟩
      have h2 : wantsFetch s (s.cache.nextOf s.seg.current) = true := (wantsFetch_iff s _).2 ⟨m, hnext, hw⟩
      rw [wantedFetch, notOwn ho, h2, if_neg Bool.false_ne_true, if_pos rfl, hnext]
    · have h3 : wantsFetch s s.seg.decided = true := (wantsFetch_iff s _).2 ⟨m, hd, hm⟩
      rw [wantedFetch, notOwn ho, notNext hl, h3, if_neg Bool.false_ne_true, if_neg Bool.false_ne_true, if_pos rfl, hd]
    · have h3 : wantsFetch s s.seg.decided = false :=
        Bool.not_eq_true _ ▸ fun h => ((wantsFetch_iff s _).1 h).elim fun m hm => hd m hm.1 hm.2
      have hlast : wantedFetch s =
          (s.cache.entries.reverse.find? fun e => e.state == .fault && e.awaiting).map CacheEntry.slot := by
        simp only [wantedFetch, notOwn ho, notNext hl, h3, Bool.false_eq_true, if_false]
      have hawaits (x : CacheEntry) : awaits x ↔ (x.state == .fault && x.awaiting) = true := by simp [awaits]
      refine ⟨fun pre x post hq hx hpost => ?_, fun hnone => ?_⟩
      · have hfound := find?_reverse_of_last (p := fun e : CacheEntry => e.state == .fault && e.awaiting) (pre := pre)
          ((hawaits x).1 hx) fun y hy => Bool.eq_false_iff.2 (mt (hawaits y).2 (hpost y hy))
        rw [hlast, hq, hfound]
        rfl
      · rw [hlast, List.find?_eq_none.2 fun y hy => mt (hawaits y).2 (hnone y (List.mem_reverse.1 hy))]
        rfl
    · let t := s.modPins fun p => { p with trigger := false }
      have hi' : NoIssue t := hi.congr ⟨rfl, rfl, rfl⟩ rfl
      obtain ⟨hcache, hq⟩ := finish_fetched hi' hf hw (n := n) hn
      exact ⟨finish t, rfl, hcache, hq⟩
  · exact leaves_of_untouched he (planSlotOf_of_none hp _)
  intro slot
  refine ⟨fun hout => ?_, fun hb hl hs => ?_⟩
  · refine leaves_of_untouched he ((planSlotOf_of_some hp _).trans (if_neg ?_))
    change a.toNat < w.base ∨ w.limit < a.toNat ∨ 64 ≤ (a.toNat - w.base) / 32 at hout
    omega
  · intro inFlight
    have hslot : planSlotOf s.path a.toNat = some slot := (planSlotOf_of_some hp _).trans (if_pos ⟨hb, hl, hs⟩)
    refine .of_effect ?_
    rw [rowEffect_planWord he, planWritten_of_slot hslot]
    have hmap : (s.cache.entries.map fun e =>
          if e.slot = slot then CacheEntry.written (decide (s.cache.fetch = some { slot := slot, orphan := false })) e else e) =
        s.cache.entries.map fun e =>
          if e.slot = slot then
            (match e.state with
              | .valid => { e with state := .stale }
              | .fetching => { e with writtenDuringFetch := true }
              | .fault => if inFlight then { e with writtenDuringFetch := true } else e
              | .stale => e
              | .invalid => e)
          else e := by
      refine List.map_congr_left fun e _ => ?_
      by_cases h : e.slot = slot
      · rw [if_pos h, if_pos h]
        unfold CacheEntry.written
        cases e.state <;> simp [inFlight]
      · rw [if_neg h, if_neg h]
    unfold PlanCache.update
    rw [hmap]
    exact .rfl' _

end Sys2Proof.Machine
end

section
/-! PROOFS. A closing word that names a TRIGGERED entry: the report, its retirement, and the supersession of a head (R24, R76, R80). -/

namespace Sys2Proof.Machine

/-! ### The report as one operation (R24, R78, R80) -/

/-- The matched entry of a report retires: a poisoned record by its cause, a latched one by its metering. -/
def retireReported (bad : Bool) (e : Entry) (l : Latched) (s : State) : State :=
  if bad then retireNow e .unmetered (settledCause e .parity) none false s else retireLatched e l s

/-- A report taken in the state that its head's supersession leaves. -/
def reportAfter (bad : Bool) (frame : Word) (l : Latched) (s : State) : State :=
  match entryOf frame s.sched.queue with
  | none => s
  | some e => retireReported bad e l s

/-- The record is poisoned by its closing word, or was before. -/
def poisonedBy (r : Assembling) (w : BusWord) : Bool := r.poisoned || !w.good

theorem reportPoisoned_eq (frame : Word) (l : Latched) (s : State) :
    reportPoisoned frame s = reportAfter true frame l (supersede frame s) := by
  unfold reportPoisoned reportAfter
  dsimp only
  cases entryOf frame (supersede frame s).sched.queue <;> rfl

theorem reportLatched_eq (frame : Word) (l : Latched) (s : State) :
    reportLatched frame l s = reportAfter false frame l (supersede frame s) := by
  unfold reportLatched reportAfter
  dsimp only
  cases entryOf frame (supersede frame s).sched.queue <;> rfl

/-- The state that a closing word reports in: the assembler idle, its flags raised and a good record latched. -/
def reporting (r : Assembling) (w : BusWord) (s : State) : State :=
  let x := raiseFlagIf (!w.good && !r.poisoned) .parity (setAssembler .idle s)
  if poisonedBy r w then x
  else raiseFlagIf r.latch.gap .gap (x.modStats fun y => { y with latched := some r.latch })

theorem empty_of_whole {w : BusWord} (h : w.whole = true) : w.empty = false := by
  unfold BusWord.whole at h
  unfold BusWord.empty
  revert h
  generalize w.enables = n
  revert n
  decide

theorem setAssembler_sched (a : Assembler) (s : State) : (setAssembler a s).sched = s.sched := rfl

theorem reporting_blocks (r : Assembling) (w : BusWord) (s : State) :
    (reporting r w s).sched = s.sched ∧ (reporting r w s).seg = s.seg ∧ (reporting r w s).config = s.config := by
  unfold reporting raiseFlagIf raiseFlag setAssembler
  dsimp only
  refine ⟨?_, ?_, ?_⟩ <;> (repeat' split) <;> simp

/-- A closing word whose tag agrees and names a TRIGGERED entry is reported, but for an OVERRUN (R76, R78, R79). -/
theorem rowEffect_reported {w : BusWord} {r : Assembling} {e : Entry} {s : State} (hw : w.whole = true)
    (hs : s.path.stat.isSome = true) (hr : s.stats.assembler = .assembling r) (ht : r.tag = w.data.extractLsb' 16 16)
    (hm : matchTag r.tag s.sched.queue = some e) (he : e.triggered = true)
    (hb : poisonedBy r w = true ∨ s.stats.latched = none) :
    rowEffect (.statClosingWord w) s =
      reportAfter (poisonedBy r w) e.frame r.latch (supersede e.frame (reporting r w s)) := by
  have hrow : rowEffect (.statClosingWord w) s = takeClosing w s := whenReported_of_some hs _
  rw [hrow]
  cases hg : w.good with
  | true =>
    have hbad : poisonedBy r w = r.poisoned := by simp [poisonedBy, hg]
    have hx : raiseFlagIf (!w.good && !r.poisoned) .parity (setAssembler .idle s) = setAssembler .idle s := by
      simp [hg, raiseFlagIf]
    rw [takeClosing_of_good hr (empty_of_whole hw) hw hg, ← ht, judgeClosed_of_agreed rfl]
    simp only [judgeAgreed, setAssembler_sched, hm, he, if_true, reporting, hx, hbad]
    rw [hbad] at hb
    cases hp : r.poisoned with
    | true => simp [reportPoisoned_eq _ r.latch]
    | false =>
      have hl : (setAssembler .idle s).stats.latched = none := hb.resolve_left (by simp [hp])
      simp only [hl, Option.isSome_none, Bool.false_eq_true, if_false, latchRecord, reportLatched_eq]
  | false =>
    have hbad : poisonedBy r w = true := by simp [poisonedBy, hg]
    have hx : raiseFlagIf (!w.good && !r.poisoned) .parity (setAssembler .idle s) =
        raiseFlagIf (!r.poisoned) .parity (setAssembler .idle s) := by simp [hg]
    rw [takeClosing_of_bad hr (empty_of_whole hw) hw hg, ← ht, judgeClosed_of_agreed (r := { r with poisoned := true }) rfl]
    simp only [judgeAgreed, raiseFlagIf_sched, setAssembler_sched, hm, he, if_true, reporting, hx, hbad]
    exact reportPoisoned_eq _ r.latch _

/-! ### Supersession (R24) -/

theorem supersede_of_head {e : Entry} {rest : List Entry} {s : State} (h : s.sched.queue = e :: rest) :
    supersede e.frame s = s := by
  simp [supersede, h]

theorem supersede_of_other {h : Entry} {rest : List Entry} {frame : Word} {s : State} (hq : s.sched.queue = h :: rest)
    (hf : h.frame ≠ frame) :
    supersede frame s = issueOwed (retireNow h .unmetered (settledCause h .superseded) none false s) := by
  simp [supersede, hq, hf]

theorem reportAfter_of_head {bad : Bool} {frame : Word} {l : Latched} {x : Entry} {rest : List Entry} {s : State}
    (h : s.sched.queue = x :: rest) (hf : x.frame = frame) : reportAfter bad frame l s = retireReported bad x l s := by
  simp [reportAfter, entryOf, h, hf]

theorem reportAfter_of_empty {bad : Bool} {frame : Word} {l : Latched} {s : State} (h : s.sched.queue = []) :
    reportAfter bad frame l s = s := by
  simp [reportAfter, entryOf, h]

/-! ### The retirement of the matched entry (R86, R90, R91) -/

theorem meterNow_of_copy {s : State} {u : Tuning} {c : Segment} (hu : s.config.tuning = some u) (hc : s.seg.copyRead = some c)
    (l : Latched) : meterNow l s = meter u c l := by
  simp [meterNow, hu, hc]

theorem retireLatched_discounted {e : Entry} (h : e.discounted = true) (l : Latched) (s : State) :
    retireLatched e l s = retireNow e .unmetered .settling none l.gap s := if_pos h

theorem retireLatched_weightless {e : Entry} (h : e.discounted = false) {l : Latched} {s : State} (hm : meterNow l s = none) :
    retireLatched e l s = retireNow e .unmetered .noWeight none l.gap s := by
  simp [retireLatched, h, hm]

theorem retireLatched_metered {e : Entry} (h : e.discounted = false) {l : Latched} {s : State} {m : Nat × Nat}
    (hm : meterNow l s = some m) :
    retireLatched e l s =
      retireNow e .metered .noCause (some (m.1, errorNow m.1 m.2 s)) l.gap
        (s.modExpo fun x => { x with held := some { frame := e.frame, el := e.el, bl := m.1, clip := m.2 } }) := by
  simp [retireLatched, h, hm]

theorem meter_of_weightless {u : Tuning} {c : Segment} {l : Latched} (h : (meterRecord u c.weightSet l).wsum = 0) :
    meter u c l = none := if_pos h

theorem meter_of_weight {u : Tuning} {c : Segment} {l : Latched} (h : (meterRecord u c.weightSet l).wsum ≠ 0) :
    meter u c l =
      some (brightness ((meterRecord u c.weightSet l).total / (meterRecord u c.weightSet l).wsum),
        (meterRecord u c.weightSet l).clip) := if_neg h

/-- What a reported retirement leaves, whichever it is: the queue's status and the buffer. -/
theorem retireReported_stands (bad : Bool) (e : Entry) (l : Latched) (s : State) :
    StatusStands (retireReported bad e l s) ∧ (retireReported bad e l s).stats = s.stats := by
  unfold retireReported retireLatched
  (repeat' split) <;> exact ⟨retireNow_stands _ _ _ _ _ _, by simp⟩

theorem retireReported_near {a b : State} (h : Near a b) {u : Tuning} (hu : b.config.tuning = some u) (bad : Bool) (x : Entry)
    (l : Latched) :
    (bad = true ∨ x.discounted = true → Near (retired x .unmetered a) (retireReported bad x l b)) ∧
      (bad = false → x.discounted = false → ∀ c, a.seg.copyRead = some c →
        let sums := meterRecord u c.weightSet l
        (sums.wsum = 0 → Near (retired x .unmetered a) (retireReported bad x l b)) ∧
        (sums.wsum ≠ 0 →
          Near
            (retired x .metered
              { a with
                expo :=
                  { a.expo with
                    held :=
                      some { frame := x.frame, el := x.el, bl := brightness (sums.total / sums.wsum), clip := sums.clip } } })
            (retireReported bad x l b))) := by
  have unmetered (c : Cause) (g : Bool) : Near (retired x .unmetered a) (retireNow x .unmetered c none g b) :=
    (h.retired x .unmetered).trans (near_retireNow _ _ _ _ _ _)
  refine ⟨fun hd => ?_, fun hbad hd c hc => ?_⟩
  · cases bad with
    | true => exact unmetered _ _
    | false =>
      have hd' : x.discounted = true := hd.resolve_left (by simp)
      have hx : retireReported false x l b = retireNow x .unmetered .settling none l.gap b := retireLatched_discounted hd' l b
      rw [hx]
      exact unmetered _ _
  · subst hbad
    have hr : retireReported false x l b = retireLatched x l b := rfl
    have hm : meterNow l b = meter u c l := meterNow_of_copy hu (by rw [h.run.seg]; exact hc) l
    intro sums
    rw [hr]
    refine ⟨fun hz => ?_, fun hz => ?_⟩
    · rw [retireLatched_weightless hd (hm.trans (meter_of_weightless hz))]
      exact unmetered _ _
    · rw [retireLatched_metered hd (hm.trans (meter_of_weight hz))]
      exact ((h.modExpo fun y =>
        { y with
          held :=
            some { frame := x.frame, el := x.el, bl := brightness (sums.total / sums.wsum), clip := sums.clip } }).retired
              x .metered).trans (near_retireNow _ _ _ _ _ _)

/-! ### The issues made in between -/

theorem IssuesMade.of_near {a b c : State} (h : Near a b) (k : IssuesMade b c) : IssuesMade a c where
  fixed := h.fixed.trans k.fixed
  issued := k.issued.imp fun _ i => i.congr h.run.sched.symm h.run.seg.symm h.run.expo.symm
  run := fun hi => by
    have hb : NoIssue b ∨ b.sched.runState.capturing = false :=
      hi.imp (fun x => x.congr h.run h.cache) fun x => by rw [h.run.sched]; exact x
    have r := k.run hb
    exact ⟨r.sched.trans h.run.sched, r.seg.trans h.run.seg, r.expo.trans h.run.expo⟩
  fields := by
    have f := k.fields
    rw [h.cache] at f
    exact f
  entries := fun x hx => by
    have f := k.entries x hx
    rw [h.cache] at f
    exact f
  session := h.session.trans ⟨h.fixed.config, h.fixed.supply, h.fixed.tb⟩ k.session
  buffer := by
    have f := k.buffer
    rw [h.latched, h.run.sched] at f
    exact f

theorem issueOwed_stands {s : State} (h : StatusStands s) : StatusStands (issueOwed s) := makeIssues_stands _ h

/-- Where a report's retirement follows the issues made, the buffer is freed once no issue is owed. -/
theorem finish_reported_buffer (bad : Bool) (e : Entry) (l : Latched) {s m : State} (hm : m = issueOwed s)
    {z : State} (hz : z = m ∨ z = retireReported bad e l m) :
    (finish z).stats.latched = if (finish z).sched.owed = [] then none else s.stats.latched := by
  have hst : z.stats = m.stats := by
    rcases hz with rfl | rfl
    · rfl
    · exact (retireReported_stands bad e l m).2
  rw [finish_buffer, hst]
  rcases issueOwed_buffer s with hb | ⟨-, hc, ho, -⟩
  · rw [hm, hb]
  · rw [← hm] at hc ho
    have hzs : z.sched.runState.capturing = false ∧ z.sched.owed = [] := by
      rcases hz with rfl | rfl
      · exact ⟨hc, ho⟩
      · have hn : ∃ (o : FrameOutcome) (b : State), Near (retired e o b) (retireReported bad e l m) ∧ b.sched = m.sched := by
          unfold retireReported retireLatched
          (repeat' split) <;> exact ⟨_, _, near_retireNow _ _ _ _ _ _, rfl⟩
        obtain ⟨o, b, hn, hs⟩ := hn
        rw [hn.run.sched]
        simp only [retired, hs, hc, ho, Bool.false_eq_true, if_false, and_self]
    have hfo : (finish z).sched.owed = [] := by rw [(finish_sameRun_of_idle hzs.1).sched]; exact hzs.2
    rw [if_pos hfo, if_pos hfo]

theorem matchTag_head {e : Entry} {rest : List Entry} {tag : BitVec 16} (h : e.frame.setWidth 16 = tag) :
    matchTag tag (e :: rest) = some e := by
  simp [matchTag_eq, h]

theorem matchTag_second {h e : Entry} {tag : BitVec 16} (hh : h.frame.setWidth 16 ≠ tag) (he : e.frame.setWidth 16 = tag) :
    matchTag tag [h, e] = some e := by
  simp [matchTag_eq, hh, he]

theorem flaggedIf_latched (b : Bool) (f : StickyFlag) (s : State) : (flaggedIf b f s).stats.latched = s.stats.latched := by
  unfold flaggedIf
  split <;> rfl

/-- Settles O24: the report of the head, and of a second entry after the head's supersession. -/
theorem closingWordRetiresTheHead : Obligations.ClosingWordRetiresTheHead := by
  intro w r e u s hw hs hr ht he hf hu bad hb closed gap buffer report buffered retires
  have hclosed : Near closed (raiseFlagIf (!w.good && !r.poisoned) .parity (setAssembler .idle s)) :=
    ((Near.rfl' s).setAssembler .idle).raiseFlagIf _ .parity
  have hreport : Near report (reporting r w s) := by
    change Near (if bad then closed else flaggedIf gap .gap { closed with stats := { closed.stats with latched := buffer } }) _
    unfold reporting
    cases hbad : bad with
    | true =>
      have hp : poisonedBy r w = true := hbad
      rw [if_pos rfl, hp, if_pos rfl]
      exact hclosed
    | false =>
      have hp : poisonedBy r w = false := hbad
      have hbuf : buffer = some r.latch := by simp only [buffer, hbad]; rfl
      rw [if_neg Bool.false_ne_true, hp, if_neg Bool.false_ne_true, hbuf]
      exact (hclosed.modStats fun y => { y with latched := some r.latch }).raiseFlagIf gap .gap
  have hlatched : (reporting r w s).stats.latched = buffer := by
    rw [hreport.latched]
    change (if bad then closed else flaggedIf gap .gap { closed with stats := { closed.stats with latched := buffer } }).stats.latched = _
    have hc : closed.stats.latched = s.stats.latched := flaggedIf_latched _ _ _
    cases hbad : bad with
    | true => simp [buffer, hbad, hc]
    | false => simp [flaggedIf_latched]
  obtain ⟨hsched, hseg, hcfg⟩ := reporting_blocks r w s
  have hrow (hm : matchTag r.tag s.sched.queue = some e) := rowEffect_reported hw hs hr ht hm he hb
  refine ⟨fun rest hq => ?_, fun h hq hh => ?_⟩
  · have hq' : (reporting r w s).sched.queue = e :: rest := by rw [hsched]; exact hq
    have hx : rowEffect (.statClosingWord w) s = retireReported bad e r.latch (reporting r w s) := by
      rw [hrow (hq ▸ matchTag_head hf), supersede_of_head hq', reportAfter_of_head hq' rfl]
      rfl
    obtain ⟨hn1, hn2⟩ := retireReported_near hreport (hcfg ▸ hu) bad e r.latch
    obtain ⟨hst, hbuf⟩ := retireReported_stands bad e r.latch (reporting r w s)
    refine ⟨_, (exec_eq _ s).trans (congrArg (fun x => Host.Outcome.next (finish x)) hx), finish_stands hst, ?_,
      fun hd => (hn1 hd).follows (finish_follows _), fun hbad hd c hc => ?_⟩
    · change (finish _).stats.latched = if (finish _).sched.owed = [] then none else buffer
      rw [finish_buffer, hbuf, hlatched]
    · obtain ⟨hz, hnz⟩ := hn2 hbad hd c hc
      exact ⟨fun h => (hz h).follows (finish_follows _), fun h => (hnz h).follows (finish_follows _)⟩
  · have hne : h.frame ≠ e.frame := fun k => hh (k ▸ hf)
    have hq' : (reporting r w s).sched.queue = [h, e] := by rw [hsched]; exact hq
    obtain ⟨y, hy'⟩ : ∃ y, y = retireNow h .unmetered (settledCause h .superseded) none false (reporting r w s) := ⟨_, rfl⟩
    obtain ⟨m, hm⟩ : ∃ m, m = issueOwed y := ⟨_, rfl⟩
    have hy : Near (retired h .unmetered report) y := hy' ▸ (hreport.retired h .unmetered).trans (near_retireNow _ _ _ _ _ _)
    have hyq : y.sched.queue = [e] := by
      rw [hy', (near_retireNow h .unmetered (settledCause h .superseded) none false (reporting r w s)).run.sched]
      simp [retired, hq']
    have hstats : y.stats.latched = buffer := by
      have hk : y.stats = (reporting r w s).stats := by simp [hy']
      rw [hk, hlatched]
    have hx : rowEffect (.statClosingWord w) s = reportAfter bad e.frame r.latch m := by
      rw [hrow (hq ▸ matchTag_second hh hf), supersede_of_other hq' hne, ← hy', ← hm]
      rfl
    have hstands : StatusStands m := hm ▸ issueOwed_stands (hy' ▸ retireNow_stands _ _ _ _ _ _)
    have hmade : IssuesMade (retired h .unmetered report) m := hm ▸ (issueOwed_issuesMade y).of_near hy
    have hfreed {z : State} {x : Entry} (hz : z = m ∨ z = retireReported bad x r.latch m) : buffered (finish z) :=
      (finish_reported_buffer bad x r.latch hm hz).trans (by rw [hstats])
    have hhead : (∃ x, m.sched.queue.head? = some x ∧ x.plain = e.plain) ∨ (m.sched.queue = [] ∧ m.sched.runState = .stopped) :=
      (show HeadStands y m from hm ▸ headStands_issueOwed y).imp (fun k => k e (by rw [hyq]; rfl) he) id
    cases hmq : m.sched.queue with
    | nil =>
      rw [reportAfter_of_empty hmq] at hx
      refine ⟨finish m, m, (exec_eq _ s).trans (congrArg (fun x => Host.Outcome.next (finish x)) hx), finish_stands hstands,
        hfreed (x := e) (.inl rfl), hmade, fun _ => ⟨?_, finish_follows m⟩, fun x rest hk => by simp [hmq] at hk⟩
      · rcases hhead with ⟨x, hx, -⟩ | ⟨-, hst⟩
        · simp [hmq] at hx
        · exact hst
    | cons x rest =>
      have hplain : x.plain = e.plain := by
        rcases hhead with ⟨x', hx', hp⟩ | ⟨hn, -⟩
        · rw [hmq] at hx'
          exact Option.some.inj hx' ▸ hp
        · simp [hmq] at hn
      rw [reportAfter_of_head hmq (Entry.plain_parts hplain).1] at hx
      have hmu : m.config.tuning = some u := by
        have hk : m.config = (reporting r w s).config := by simp [hm, hy']
        rw [hk, hcfg]
        exact hu
      obtain ⟨hn1, hn2⟩ := retireReported_near (Near.rfl' m) hmu bad x r.latch
      refine ⟨_, m, (exec_eq _ s).trans (congrArg (fun x => Host.Outcome.next (finish x)) hx),
        finish_stands (retireReported_stands _ _ _ _).1, hfreed (.inr rfl), hmade,
        fun hk => by simp [hmq] at hk, fun x' rest' hk => ?_⟩
      · obtain ⟨rfl, rfl⟩ : x = x' ∧ rest = rest' := by simpa [hmq] using hk
        refine ⟨hplain, fun hd => (hn1 hd).follows (finish_follows _), fun hbad hd c hc => ?_⟩
        obtain ⟨hz, hnz⟩ := hn2 hbad hd c hc
        exact ⟨fun h => (hz h).follows (finish_follows _), fun h => (hnz h).follows (finish_follows _)⟩

end Sys2Proof.Machine
end

section
/-! PROOFS. The log record of each retirement (R23, R169). -/

namespace Sys2Proof.Machine

/-! ### An attempt at the issue at the head (R12, R14, R34) -/

/-- An issue not waiting with a transition goes on under the copy it reads. -/
theorem attemptIssue_of_copy {s : State} {c : Segment} (o : Origin) (hd : s.sched.heldCopy = none ∨ s.seg.decided = none)
    (hc : readableCopy s.cache s.seg.current = some c) :
    attemptIssue o s = issueUnder o c (s.modSeg fun g => { g with copyRead := some c }) := by
  unfold attemptIssue
  rw [hc]
  split
  · rename_i h1 h2
    rcases hd with h | h <;> simp_all
  · rfl

theorem issueUnder_retirement {s : State} (f : Word) (m : Bool) (c : Segment) (h : s.sched.runState = .running) :
    issueUnder (.retirement f m) c s = ordinaryIssue (Origin.meteredFrame (.retirement f m)) c s := by
  simp [issueUnder, h]

theorem ordinaryIssue_ends {s : State} {c : Segment} (m : Option Word) (h : exitDecided s.seg c (provisionalDue s c) = true)
    (hn : c.next = none) : ordinaryIssue m c s = { state := endOfPlan s, made := true } := by
  simp [ordinaryIssue, h, hn]

theorem ordinaryIssue_judged {s : State} {c : Segment} {n : Nat} (m : Option Word)
    (h : exitDecided s.seg c (provisionalDue s c) = true) (hn : c.next = some n) :
    ordinaryIssue m c s = judgeTransition m c n s := by
  simp [ordinaryIssue, h, hn]

theorem judgeTransition_valid {s : State} {n : Nat} {x : CacheEntry} {d : Segment} (m : Option Word) (left : Segment)
    (he : s.cache.entry? n = some x) (hx : x.state = .valid) (hd : x.record = some d) :
    judgeTransition m left n s = { state := takeTransition m left n d s, made := true } := by
  simp [judgeTransition, he, hx, hd]

/-! ### A log record stands or is counted as lost -/

theorem judgeAlert_lost (s : State) : (judgeAlert s).engine.lost = s.engine.lost := by
  unfold judgeAlert beginAlertWake
  split
  · exact beginWake_lost _ _ _
  · rfl

theorem raiseEvent_lost (k : EventClass) (s : State) : (raiseEvent k s).engine.lost = s.engine.lost := by
  have h : (requestStatus (keepMark k (countEvent k s))).engine.lost = s.engine.lost := requestStatus_lost _
  unfold raiseEvent
  dsimp only
  repeat' split
  · exact (judgeAlert_lost _).trans h
  all_goals exact h

theorem loseLog_lost (s : State) : (loseLog s).engine.lost = saturatingAdd max32 s.engine.lost 1 :=
  (requestStatus_lost _).trans (raiseEvent_lost _ _)

theorem raiseFlagIf_lost (b : Bool) (f : StickyFlag) (s : State) : (raiseFlagIf b f s).engine.lost = s.engine.lost := by
  unfold raiseFlagIf raiseFlag
  split
  · exact (requestStatus_lost _).trans (raiseEvent_lost _ _)
  · rfl

theorem requestLog_standsOrLost (l : LogContent) {n : Nat} (hn : n < 4294967295) {s : State} (h : n ≤ s.engine.lost) :
    StandsOrLost (.log l) n (requestLog l s) := by
  unfold requestLog
  split
  · exact ⟨h, .inl (by simp [Engine.queued])⟩
  · have hl : n < (loseLog s).engine.lost := by
      rw [loseLog_lost]
      unfold saturatingAdd max32
      omega
    exact ⟨hl.le, .inr ⟨rfl, hl⟩⟩

theorem StandsOrLost.of_engine {r : Request} {n : Nat} {a b : State} (h : StandsOrLost r n a) (k : b.engine = a.engine) :
    StandsOrLost r n b := h.mono (queued_of_engine k) (by rw [k])

theorem StandsOrLost.requestStatus {r : Request} {n : Nat} {s : State} (h : StandsOrLost r n s) :
    StandsOrLost r n (requestStatus s) := h.mono (requestStatus_queued _ _) (requestStatus_lost _)

theorem handOver_engine (e : Entry) (o : FrameOutcome) (s : State) : (handOver e o s).engine = s.engine := by
  unfold handOver
  dsimp only
  split <;> rfl

/-- The log record of a retirement (R169). -/
def logOf (e : Entry) (o : FrameOutcome) (c : Cause) (m : Option (Nat × Int)) (gap : Bool) (tb : TimeBase) (y : Supply) : Request :=
  .log { entry := e, outcome := o, cause := c, bl := m.map Prod.fst, error := (m.map Prod.snd).getD 0, gap := gap,
         degraded := tb.degraded, sample := y.lastSample }

theorem retire_logged (e : Entry) (o : FrameOutcome) (c : Cause) (m : Option (Nat × Int)) (g : Bool) {n : Nat}
    (hn : n < 4294967295) {s : State} (h : n ≤ s.engine.lost) :
    StandsOrLost (logOf e o c m g s.tb s.supply) n (retire e o c m g s) := by
  have h0 := requestLog_standsOrLost (logContent (s.modSched fun q => q.retireEntry e o) e o c m g) hn
    (s := s.modSched fun q => q.retireEntry e o) h
  exact (h0.of_engine (handOver_engine e o _)).requestStatus

theorem StandsOrLost.retire {r : Request} (hr : r.orderContent? = none) {n : Nat} (hn : n < 4294967295) {s : State}
    (h : StandsOrLost r n s) (e : Entry) (o : FrameOutcome) (c : Cause) (m : Option (Nat × Int)) (g : Bool) :
    StandsOrLost r n (retire e o c m g s) :=
  (keptBySettling_standsOrLost hr hn).toKeptByEvents.retire (fun _ _ k => k) e o c m g h

theorem StandsOrLost.beginService {r : Request} (hr : r.orderContent? = none) {n : Nat} (hn : n < 4294967295) {s : State}
    (h : StandsOrLost r n s) : StandsOrLost r n (beginService s) := (keptBySettling_standsOrLost hr hn).beginService h

theorem StandsOrLost.retireNow {r : Request} (hr : r.orderContent? = none) {n : Nat} (hn : n < 4294967295) {s : State}
    (h : StandsOrLost r n s) (e : Entry) (o : FrameOutcome) (c : Cause) (m : Option (Nat × Int)) (g : Bool) :
    StandsOrLost r n (retireNow e o c m g s) := (h.retire hr hn e o c m g).beginService hr hn

theorem retireNow_logged (e : Entry) (o : FrameOutcome) (c : Cause) (m : Option (Nat × Int)) (g : Bool) {n : Nat}
    (hn : n < 4294967295) {s : State} (h : n ≤ s.engine.lost) :
    StandsOrLost (logOf e o c m g s.tb s.supply) n (retireNow e o c m g s) :=
  (retire_logged e o c m g hn h).beginService rfl hn

/-! ### Several retirements in a row -/

theorem retire_lost_le (e : Entry) (o : FrameOutcome) (c : Cause) (m : Option (Nat × Int)) (g : Bool) {n : Nat}
    (hn : n < 4294967295) {s : State} (h : n ≤ s.engine.lost) : n ≤ (retireNow e o c m g s).engine.lost :=
  (retireNow_logged e o c m g hn h).1

theorem StandsOrLost.abandonAll {r : Request} (hr : r.orderContent? = none) {n : Nat} (hn : n < 4294967295) (l : List Entry) {s : State}
    (h : StandsOrLost r n s) : StandsOrLost r n (abandonAll l s) := by
  induction l generalizing s with
  | nil => exact h
  | cons x xs ih => exact ih (h.retireNow hr hn _ _ _ _ _)

/-- Each entry of a queue abandoned is logged ABANDONED (R5, R6). -/
theorem abandonAll_logged {e : Entry} {n : Nat} (hn : n < 4294967295) (l : List Entry) (he : e ∈ l) {s : State}
    (h : n ≤ s.engine.lost) : StandsOrLost (logOf e .abandoned .noCause none false s.tb s.supply) n (abandonAll l s) := by
  induction l generalizing s with
  | nil => cases he
  | cons x xs ih =>
    rcases List.mem_cons.1 he with rfl | he
    · exact (retireNow_logged _ _ _ _ _ hn h).abandonAll rfl hn xs
    · have hx := ih he (retire_lost_le x .abandoned .noCause none false hn h)
      simpa [abandonAll] using hx

theorem voidEntry_logged (e : Entry) {n : Nat} (hn : n < 4294967295) {s : State} (h : n ≤ s.engine.lost) :
    StandsOrLost (logOf e .voided .noCause none false s.tb s.supply) n (voidEntry e s) :=
  ((retire_logged e .voided .noCause none false hn h).mono (requestOrder_mem _ rfl) (requestOrder_lost _ _)).beginService rfl hn

theorem StandsOrLost.voidEntry {r : Request} (hr : r.orderContent? = none) {n : Nat} (hn : n < 4294967295) {s : State}
    (h : StandsOrLost r n s) (e : Entry) : StandsOrLost r n (voidEntry e s) :=
  ((h.retire hr hn e .voided .noCause none false).mono (requestOrder_mem _ hr) (requestOrder_lost _ _)).beginService hr hn

theorem StandsOrLost.voidIssued {r : Request} (hr : r.orderContent? = none) {n : Nat} (hn : n < 4294967295) (l : List Entry) {s : State}
    (h : StandsOrLost r n s) : StandsOrLost r n (voidIssued l s) := by
  induction l generalizing s with
  | nil => exact h
  | cons x xs ih =>
    refine ih ?_
    split
    · exact h
    · exact h.voidEntry hr hn x

/-- Each ISSUED entry of a queue voided is logged VOIDED (R65). -/
theorem voidIssued_logged {e : Entry} (ht : e.triggered = false) {n : Nat} (hn : n < 4294967295) (l : List Entry) (he : e ∈ l)
    {s : State} (h : n ≤ s.engine.lost) :
    StandsOrLost (logOf e .voided .noCause none false s.tb s.supply) n (voidIssued l s) := by
  induction l generalizing s with
  | nil => cases he
  | cons x xs ih =>
    rcases List.mem_cons.1 he with rfl | he
    · refine StandsOrLost.voidIssued rfl hn xs ?_
      rw [if_neg (by simp [ht])]
      exact voidEntry_logged _ hn h
    · have hv : n ≤ (if x.triggered then s else voidEntry x s).engine.lost := by
        split
        · exact h
        · exact (voidEntry_logged x hn h).1
      have hx := ih he hv
      have hb : (if x.triggered then s else voidEntry x s).tb = s.tb ∧ (if x.triggered then s else voidEntry x s).supply = s.supply := by
        split <;> simp
      rw [hb.1, hb.2] at hx
      exact hx

/-! ### What the operations around them leave standing -/

theorem StandsOrLost.dropIssues {r : Request} {n : Nat} {s : State} (h : StandsOrLost r n s) : StandsOrLost r n (dropIssues s) :=
  h.of_engine (by simp)

theorem StandsOrLost.setRun {r : Request} {n : Nat} {s : State} (h : StandsOrLost r n s) (x : RunState) (f : FinishReason) :
    StandsOrLost r n (setRun x f s) := StandsOrLost.requestStatus (s := s.modSched _) h

theorem StandsOrLost.decideCommand {r : Request} {n : Nat} {s : State} (h : StandsOrLost r n s) (seq : BitVec 8) (x : Result) :
    StandsOrLost r n (decideCommand seq x s) := by
  have h0 : StandsOrLost r n (Machine.requestStatus (s.modCmd fun c => { c with lastDecided := some (seq, x) })) :=
    StandsOrLost.requestStatus (s := s.modCmd _) h
  unfold Machine.decideCommand
  dsimp only
  split
  · exact h0.of_engine (by simp)
  · exact h0

theorem StandsOrLost.completeOrdinary {r : Request} (hr : r.orderContent? = none) {n : Nat} (hn : n < 4294967295) {s : State}
    (h : StandsOrLost r n s) (m : Option Word) (b : Bool) (c : Segment) :
    StandsOrLost r n (completeIssue (.ordinary m b) c s) := by
  unfold completeIssue deferredSuspend
  dsimp only
  refine StandsOrLost.beginService hr hn (StandsOrLost.requestStatus (StandsOrLost.mono ?_ (requestOrder_mem _ hr) (requestOrder_lost _ _)))
  exact h.of_engine (by simp)

theorem StandsOrLost.takeVoid {r : Request} (hr : r.orderContent? = none) {n : Nat} (hn : n < 4294967295) {s : State}
    (h : StandsOrLost r n (Machine.voidIssued s.sched.queue s)) (hq : (s.sched.queue.any fun e => !e.triggered) = true)
    (m : Option Word) (left : Segment) (hl : left.settle = .void) (slot : Nat) (d : Segment) :
    StandsOrLost r n (takeTransition m left slot d s) := by
  unfold takeTransition settleQueue
  rw [hl]
  dsimp only
  rw [if_pos hq]
  refine StandsOrLost.completeOrdinary hr hn (StandsOrLost.of_engine (a := returnToStanding (Machine.voidIssued s.sched.queue s)) ?_ (by simp)) _ _ _
  unfold returnToStanding
  split
  · exact h
  · exact StandsOrLost.requestStatus (StandsOrLost.of_engine h (by simp))

theorem StandsOrLost.retireReported {r : Request} (hr : r.orderContent? = none) {n : Nat} (hn : n < 4294967295) {s : State}
    (h : StandsOrLost r n s) (bad : Bool) (e : Entry) (l : Latched) : StandsOrLost r n (retireReported bad e l s) := by
  unfold Machine.retireReported retireLatched
  repeat' split
  · exact h.retireNow hr hn _ _ _ _ _
  · exact h.retireNow hr hn _ _ _ _ _
  · exact h.retireNow hr hn _ _ _ _ _
  · exact StandsOrLost.retireNow hr hn (s := s.modExpo _) h _ _ _ _ _

theorem StandsOrLost.reportAfter {r : Request} (hr : r.orderContent? = none) {n : Nat} (hn : n < 4294967295) {s : State}
    (h : StandsOrLost r n s) (bad : Bool) (f : Word) (l : Latched) : StandsOrLost r n (reportAfter bad f l s) := by
  unfold Machine.reportAfter
  split
  · exact h
  · exact h.retireReported hr hn _ _ _

theorem reporting_lost (r : Assembling) (w : BusWord) (s : State) :
    (reporting r w s).engine.lost = s.engine.lost ∧ (reporting r w s).tb = s.tb ∧ (reporting r w s).supply = s.supply := by
  have hx : (raiseFlagIf (!w.good && !r.poisoned) .parity (setAssembler .idle s)).engine.lost = s.engine.lost :=
    raiseFlagIf_lost _ _ _
  have hf (b : Bool) (f : StickyFlag) (x : State) : (raiseFlagIf b f x).tb = x.tb ∧ (raiseFlagIf b f x).supply = x.supply := by
    unfold raiseFlagIf raiseFlag
    split <;> simp
  unfold reporting
  dsimp only
  split
  · exact ⟨hx, (hf _ _ _).1, (hf _ _ _).2⟩
  · exact ⟨(raiseFlagIf_lost _ _ _).trans hx, (hf _ _ _).1.trans (hf _ _ _).1, (hf _ _ _).2.trans (hf _ _ _).2⟩

/-- A row whose effect leaves a log record standing or lost ends so. -/
theorem logged_of_effect {c : Instr} {s : State} {r : Request} (hr : r.orderContent? = none) (hn : s.engine.lost < 4294967295)
    (h : StandsOrLost r s.engine.lost (rowEffect c s)) :
    ∃ t, exec c s = .next t ∧ (r ∈ t.engine.queued ∨ s.engine.lost < t.engine.lost) :=
  ⟨_, exec_eq c s, (finish_standsOrLost hr hn h).2.imp id And.right⟩

theorem missedCause_of_suspended {s : State} (h : s.sched.runState = .suspended) : missedCause s = .suspended := if_pos h

theorem missedCause_of_asleep {s : State} (h : s.sched.runState ≠ .suspended) (k : s.session.state ≠ .open) :
    missedCause s = .asleep := (if_neg h).trans (if_pos k)

theorem missedCause_of_open {s : State} (h : s.sched.runState ≠ .suspended) (k : s.session.state = .open) :
    missedCause s = .notArmed := (if_neg h).trans (if_neg (not_not.2 k))

/-- The log record of a reported retirement, by the record and the entry (R23, R90, R91). -/
theorem retireReported_logged {n : Nat} (hn : n < 4294967295) {y : State} (h : n ≤ y.engine.lost) {u : Tuning}
    (hu : y.config.tuning = some u) (bad : Bool) (e : Entry) (l : Latched) :
    (bad = true →
      StandsOrLost (logOf e .unmetered (settledCause e .parity) none false y.tb y.supply) n (retireReported bad e l y)) ∧
    (bad = false → e.discounted = true →
      StandsOrLost (logOf e .unmetered .settling none l.gap y.tb y.supply) n (retireReported bad e l y)) ∧
    (bad = false → e.discounted = false → ∀ c, y.seg.copyRead = some c →
      let sums := meterRecord u c.weightSet l
      let bl := brightness (sums.total / sums.wsum)
      (sums.wsum = 0 →
        StandsOrLost (logOf e .unmetered .noWeight none l.gap y.tb y.supply) n (retireReported bad e l y)) ∧
      (sums.wsum ≠ 0 →
        StandsOrLost
          (logOf e .metered .noCause (some (bl, guardError c sums.clip ((brightness c.target : Int) + y.seg.bias - bl))) l.gap
            y.tb y.supply) n (retireReported bad e l y))) := by
  refine ⟨fun hb => ?_, fun hb hd => ?_, fun hb hd c hc => ?_⟩
  · rw [hb]
    exact retireNow_logged _ _ _ _ _ hn h
  · have hy : retireReported bad e l y = retireNow e .unmetered .settling none l.gap y := by
      rw [hb]
      exact retireLatched_discounted hd _ _
    rw [hy]
    exact retireNow_logged _ _ _ _ _ hn h
  · have hm : meterNow l y = meter u c l := meterNow_of_copy hu hc _
    have hr : retireReported bad e l y = retireLatched e l y := by
      rw [hb]
      rfl
    intro sums bl
    refine ⟨fun hz => ?_, fun hz => ?_⟩
    · rw [hr, retireLatched_weightless hd (hm.trans (meter_of_weightless hz))]
      exact retireNow_logged _ _ _ _ _ hn h
    · have herr : errorNow bl sums.clip y = guardError c sums.clip ((brightness c.target : Int) + y.seg.bias - bl) := by
        unfold errorNow
        rw [hc]
        rfl
      rw [hr, retireLatched_metered hd (hm.trans (meter_of_weight hz)), ← herr]
      exact retireNow_logged _ _ _ _ _ hn (s := y.modExpo _) h

/-- Settles O30: each retirement's record is requested as it retires, and stands or is counted to the end of the row. -/
theorem retirementsRequestTheirLog : Obligations.RetirementsRequestTheirLog := by
  intro e s hn stands logged settling
  have standing {t : State} {o : FrameOutcome} {c : Cause} {m : Option (Nat × Int)} {g : Bool}
      (h : StandsOrLost (logOf e o c m g s.tb s.supply) s.engine.lost t) :
      stands t o c (m.map Prod.fst) ((m.map Prod.snd).getD 0) g := h.2.imp id And.right
  have ended {c : Instr} {o : FrameOutcome} {cause : Cause}
      (h : StandsOrLost (logOf e o cause none false s.tb s.supply) s.engine.lost (rowEffect c s)) : logged c o cause :=
    logged_of_effect rfl hn h
  refine ⟨fun hf => ?_, fun hf => ?_, fun w r u hw hs hr ht hu => ?_, fun seq hb hr hrun he => ?_,
    fun frame metered rest c ho hrun hd hc hx he => ?_⟩
  · have hfirst : firstDueEntry s = some e := hf
    have missed (h : ¬(s.sched.runState.capturing = true ∧ s.session.state = .open ∧ e.armed = true)) :
        logged .dueTime .missed (missedCause s) := by
      refine ended ?_
      have hx : rowEffect .dueTime s = retireNow e .missed (missedCause s) none false s :=
        (dueNow_of_first hfirst).trans (comeDue_of_missed h)
      rw [hx]
      exact retireNow_logged _ _ _ _ _ hn le_rfl
    refine ⟨fun h => ?_, fun h k => ?_, fun h k ha => ?_⟩
    · exact missedCause_of_suspended h ▸ missed fun x => by simp [h, RunState.capturing] at x
    · exact missedCause_of_asleep h k ▸ missed fun x => k x.2.1
    · exact missedCause_of_open h k ▸ missed fun x => by simp [ha] at x
  · have hfirst : firstAtDeadline s = some e := by
      rw [← hf]
      refine congrArg (fun p => s.sched.queue.find? p) (funext fun x => ?_)
      unfold Entry.deadlineReached notLater
      cases x.deadline <;> rfl
    refine ended ?_
    have hx : rowEffect .statisticsDeadline s = retireNow e .unmetered (settledCause e .timeout) none false s :=
      deadlineNow_of_first hfirst
    rw [hx]
    exact retireNow_logged _ _ _ _ _ hn le_rfl
  · intro bad hb gap
    obtain ⟨y, hy⟩ : ∃ y, y = reporting r w s := ⟨_, rfl⟩
    obtain ⟨hlost, htb, hsup⟩ := hy ▸ reporting_lost r w s
    obtain ⟨hsched, hseg, hcfg⟩ := hy ▸ reporting_blocks r w s
    refine ⟨fun rest hq het hf => ?_, fun x hq hxt hxf hef => ?_⟩
    · have hq' : y.sched.queue = e :: rest := by rw [hsched]; exact hq
      have hx : rowEffect (.statClosingWord w) s = retireReported bad e r.latch y := by
        rw [rowEffect_reported hw hs hr ht (hq ▸ matchTag_head hf) het hb, ← hy, supersede_of_head hq', reportAfter_of_head hq' rfl]
        rfl
      have hlog := retireReported_logged hn hlost.ge (hcfg ▸ hu) bad e r.latch
      rw [htb, hsup, hseg] at hlog
      obtain ⟨hpoisoned, hdiscounted, hjudged⟩ := hlog
      have ends {o : FrameOutcome} {c : Cause} {m : Option (Nat × Int)} {g : Bool}
          (h : StandsOrLost (logOf e o c m g s.tb s.supply) s.engine.lost (retireReported bad e r.latch y)) :
          stands (finish (retireReported bad e r.latch y)) o c (m.map Prod.fst) ((m.map Prod.snd).getD 0) g :=
        standing (finish_standsOrLost rfl hn h)
      refine ⟨_, (exec_eq _ s).trans (congrArg (fun x => Host.Outcome.next (finish x)) hx), fun hbad => ends (hpoisoned hbad),
        fun hbad hd => ends (hdiscounted hbad hd), fun hbad hd c hc => ?_⟩
      obtain ⟨hz, hnz⟩ := hjudged hbad hd c hc
      exact ⟨fun h => ends (hz h), fun h => ends (hnz h)⟩
    · have hne : e.frame ≠ x.frame := fun k => hef (k ▸ hxf)
      have hq' : y.sched.queue = [e, x] := by rw [hsched]; exact hq
      refine ended ?_
      rw [rowEffect_reported hw hs hr ht (hq ▸ matchTag_second hef hxf) hxt hb, ← hy, supersede_of_other hq' hne]
      refine ((keptBySettling_standsOrLost rfl hn).issueOwed ?_).reportAfter rfl hn _ _ _
      have h := retireNow_logged e .unmetered (settledCause e .superseded) none false hn hlost.ge
      rw [htb, hsup] at h
      exact h
  · have hstop : s.sched.runState.stoppable = true := by
      rcases hrun with h | h
      · simp [h, RunState.stoppable]
      · revert h
        cases s.sched.runState <;> simp [RunState.capturing, RunState.stoppable]
    refine ended ?_
    have hx : rowEffect (.stop seq) s = stopCommand seq s := (outsideReset_of_running hr _).trans (unlessBusy_of_free hb seq _)
    rw [hx, stopCommand, if_pos hstop]
    refine StandsOrLost.decideCommand (StandsOrLost.setRun ?_ _ _) _ _
    exact StandsOrLost.of_engine ((abandonAll_logged hn s.sched.queue he le_rfl).dropIssues) rfl
  · have hissue : attemptIssue (.retirement frame metered) s =
        ordinaryIssue (Origin.meteredFrame (.retirement frame metered)) c (s.modSeg fun g => { g with copyRead := some c }) :=
      (attemptIssue_of_copy _ hd hc).trans (issueUnder_retirement _ _ _ hrun)
    intro a
    refine ⟨fun hnext => ?_, fun n x d hnext hentry hvalid hrec hvoid het => ?_⟩
    · have ha : a.state = endOfPlan (s.modSeg fun g => { g with copyRead := some c }) :=
        congrArg Attempt.state (hissue.trans (ordinaryIssue_ends _ hx hnext))
      rw [ha]
      exact standing (m := none) (((abandonAll_logged hn (s := s.modSeg _) s.sched.queue he le_rfl).dropIssues).setRun _ _)
    · have ha : a.state = takeTransition (Origin.meteredFrame (.retirement frame metered)) c n d
          (s.modSeg fun g => { g with copyRead := some c }) :=
        congrArg Attempt.state ((hissue.trans (ordinaryIssue_judged _ hx hnext)).trans
          (judgeTransition_valid _ _ (s := s.modSeg _) hentry hvalid hrec))
      rw [ha]
      refine standing (m := none) (StandsOrLost.takeVoid rfl hn ?_ ?_ _ _ hvoid _ _)
      · exact voidIssued_logged het hn s.sched.queue he (s := s.modSeg _) le_rfl
      · exact List.any_eq_true.2 ⟨e, he, by simp [het]⟩

end Sys2Proof.Machine
end

section
/-! PROOFS. TRIM_TIME: the time moved, a wake it reaches, and the entries it passes (R135). -/

namespace Sys2Proof.Machine

/-! ### The time moved -/

theorem trimInRange_iff (now : Time) (n : Int) :
    trimInRange now n = true ↔ -2048 ≤ n ∧ n ≤ 2047 ∧ 0 ≤ (now.toNat : Int) + n := by
  simp [trimInRange, and_assoc]

theorem trimmed_toNat {now : Time} {n : Int} (h : 0 ≤ (now.toNat : Int) + n) (k : (now.toNat : Int) + n < 2 ^ 42) :
    ((trimmed now n).toNat : Int) = now.toNat + n := by
  have hm : ((now.toNat : Int) + n) % ((2 ^ 42 : Nat) : Int) = now.toNat + n := Int.emod_eq_of_lt h (by simpa using k)
  rw [trimmed, BitVec.toNat_ofInt, hm, Int.toNat_of_nonneg h]

/-! ### A decision beside other changes -/

theorem restartTimer_retired (e : Entry) (o : FrameOutcome) (s : State) :
    restartTimer (retired e o s) = retired e o (restartTimer s) := by
  unfold restartTimer
  have h : (retired e o s).session = s.session := rfl
  rw [h]
  split <;> rfl

theorem decided_retired (seq : BitVec 8) (r : Result) (e : Entry) (o : FrameOutcome) (s : State) :
    decided seq r (retired e o s) = retired e o (decided seq r s) := by
  unfold decided
  dsimp only
  split
  · exact restartTimer_retired e o { s with cmd := { s.cmd with lastDecided := some (seq, r) } }
  · rfl

theorem decided_session (seq : BitVec 8) (r : Result) (s : State) :
    (decided seq r s).session.state = s.session.state ∧ (decided seq r s).session.forcedRecovery = s.session.forcedRecovery := by
  unfold decided restartTimer
  dsimp only
  (repeat' split) <;> exact ⟨rfl, rfl⟩

/-! ### Entries that come due after a trim -/

/-- One entry named comes due, where it still stands ISSUED and due. -/
def comeDueNamed (f : Word) (s : State) : State :=
  match s.sched.queue.find? fun e => e.frame == f && e.isDue s.tb.time with
  | none => s
  | some e => issueOwed (comeDue e s)

theorem comeDueAll_cons (f : Word) (fs : List Word) (s : State) : comeDueAll (f :: fs) s = comeDueAll fs (comeDueNamed f s) := rfl

theorem comeDueNamed_of_found {f : Word} {s : State} {e : Entry}
    (h : (s.sched.queue.find? fun e => e.frame == f && e.isDue s.tb.time) = some e) :
    comeDueNamed f s = issueOwed (comeDue e s) := by
  simp [comeDueNamed, h]

theorem comeDueAll_of_none {s : State} (h : ∀ e ∈ s.sched.queue, e.isDue s.tb.time = false) (l : List Word) :
    comeDueAll l s = s := by
  induction l with
  | nil => rfl
  | cons f fs ih =>
    have hf : comeDueNamed f s = s := by
      have hn : (s.sched.queue.find? fun e => e.frame == f && e.isDue s.tb.time) = none :=
        List.find?_eq_none.2 fun e he => by simp [h e he]
      unfold comeDueNamed
      rw [hn]
    rw [comeDueAll_cons, hf, ih]

theorem isDue_iff (e : Entry) (now : Time) : e.isDue now = true ↔ e.triggered = false ∧ e.due.toNat ≤ now.toNat := by
  simp [Entry.isDue, notLater]

/-- The head of the queue, where it is due, is the one its frame number names. -/
theorem comeDueNamed_head {s : State} {e : Entry} {rest : List Entry} (hq : s.sched.queue = e :: rest)
    (he : e.isDue s.tb.time = true) : comeDueNamed e.frame s = issueOwed (comeDue e s) :=
  comeDueNamed_of_found (by simp [hq, he])

/-- In a session past its sleep no trigger is possible: entries named leave the session, its lines and the clock alone. -/
theorem comeDueNamed_waking {s : State} (h : s.session.state = .waking) (f : Word) :
    SameSession s (comeDueNamed f s) ∧ (comeDueNamed f s).tb = s.tb ∧ (StatusStands s → StatusStands (comeDueNamed f s)) := by
  have ha : s.session.asleep = false := awake_of_waking h
  unfold comeDueNamed
  split
  · exact ⟨.rfl' s, rfl, id⟩
  · rename_i e he
    have hx : comeDue e s = retireNow e .missed (missedCause s) none false s :=
      comeDue_of_missed fun k => by simp [h] at k
    rw [hx]
    have h1 : SameSession s (retireNow e .missed (missedCause s) none false s) :=
      (retireNow_undisturbed e .missed (missedCause s) none false s).same (.inl ha)
    have h2 := (issueOwed_undisturbed (retireNow e .missed (missedCause s) none false s)).same
      (.inl ((asleep_of_course h1.course).trans ha))
    exact ⟨h1.trans h2, by simp, fun _ => issueOwed_stands (retireNow_stands _ _ _ _ _ _)⟩

theorem comeDueAll_waking (l : List Word) {s : State} (h : s.session.state = .waking) (hs : StatusStands s) :
    SameSession s (comeDueAll l s) ∧ (comeDueAll l s).tb = s.tb ∧ StatusStands (comeDueAll l s) := by
  induction l generalizing s with
  | nil => exact ⟨.rfl' s, rfl, hs⟩
  | cons f fs ih =>
    obtain ⟨h1, h2, h3⟩ := comeDueNamed_waking h f
    obtain ⟨k1, k2, k3⟩ := ih ((state_of_course h1.course).trans h) (h3 hs)
    exact ⟨h1.trans k1, k2.trans h2, k3⟩

/-! ### The row -/

/-- A state with its time moved. -/
def timeMoved (now : Time) (s : State) : State := { s with tb := { s.tb with time := now } }

/-- An accepted TRIM_TIME: the decision made, then the wake and the entries, in the state `t`. -/
theorem rowEffect_trim {s : State} {seq : BitVec 8} (hb : s.cmd.busy = none) (hr : s.pins.inReset = false)
    (h : trimInRange s.tb.time s.path.arg1.toInt = true) :
    ∃ t, t = decideCommand seq .ok (requestStatus (timeMoved (trimmed s.tb.time s.path.arg1.toInt) s)) ∧
      TrafficAlone (decided seq .ok (timeMoved (trimmed s.tb.time s.path.arg1.toInt) s)) t ∧ StatusStands t ∧
      t.sched = s.sched ∧ t.tb = (timeMoved (trimmed s.tb.time s.path.arg1.toInt) s).tb ∧ t.config = s.config ∧
      t.supply = s.supply ∧ t.session.state = s.session.state ∧ t.session.forcedRecovery = s.session.forcedRecovery ∧
      rowEffect (.trimTime seq) s = comeDueAll (s.sched.queue.map Entry.frame) (judgeScheduled t) := by
  obtain ⟨t, ht⟩ : ∃ t, t = decideCommand seq .ok (requestStatus (timeMoved (trimmed s.tb.time s.path.arg1.toInt) s)) := ⟨_, rfl⟩
  have htr : TrafficAlone (decided seq .ok (timeMoved (trimmed s.tb.time s.path.arg1.toInt) s)) t :=
    ht ▸ (traffic_decided (traffic_requestStatus _) seq .ok).trans (traffic_decide seq .ok _)
  have hblocks := decided_blocks seq .ok (timeMoved (trimmed s.tb.time s.path.arg1.toInt) s)
  obtain ⟨hss, hsf⟩ := decided_session seq .ok (timeMoved (trimmed s.tb.time s.path.arg1.toInt) s)
  have hsess : t.session = (decided seq .ok (timeMoved (trimmed s.tb.time s.path.arg1.toInt) s)).session := by rw [htr.1]
  have hsched : t.sched = s.sched := by rw [htr.1, hblocks]; rfl
  refine ⟨t, ht, htr, ht ▸ decideCommand_stands _ _ _, hsched, by rw [htr.1, hblocks], by rw [htr.1, hblocks]; rfl,
    by rw [htr.1, hblocks]; rfl, by rw [hsess, hss]; rfl, by rw [hsess, hsf]; rfl, ?_⟩
  calc rowEffect (.trimTime seq) s = outsideReset (unlessBusy seq (trimTime seq)) s := rfl
    _ = trimTime seq s := by rw [outsideReset_of_running hr, unlessBusy_of_free hb]
    _ = comeDueAll (t.sched.queue.map Entry.frame) (judgeScheduled t) := by
      rw [ht]
      exact if_pos h
    _ = _ := by rw [hsched]

theorem judgeScheduled_of_undisturbed {s : State}
    (h : s.session.asleep = false ∨ s.supply.state = .critical ∨ s.sched.runState.capturing = false ∨
      ∀ e, (s.sched.queue.find? fun x => !x.triggered) = some e →
        s.tb.time.toNat + s.config.settings.wakeLead * 1024 < e.due.toNat) : judgeScheduled s = s := by
  refine if_neg fun ⟨ha, hs, hr⟩ => ?_
  obtain ⟨e, ⟨hc, he⟩, hd⟩ := (scheduledReached_iff s).1 hr
  rcases h with h | h | h | h
  · simp [h] at ha
  · exact hs h
  · simp [h] at hc
  · exact absurd hd (Nat.not_le.2 (h e he))

theorem triggerEntry_traffic {a b : State} (h : TrafficAlone a b) (e : Entry) :
    TrafficAlone (triggerEntry e a) (triggerEntry e b) := by
  refine (h.map (f := fun s => (s.modPins fun p => { p with trigger := true }).modSched fun q =>
    { q with
      queue := replaceEntry e (e.trigger (statWait s)) q.queue, triggers := saturatingAdd max32 q.triggers 1 })
    fun _ _ _ _ => rfl).map (f := restartTimer) fun s d q p => ?_
  unfold restartTimer
  split <;> rfl

theorem Near.issuesFollow {a b : State} (h : Near a b) : Follows a (finish (issueOwed b)) := h.follows (issueOwed_follows b)

theorem reports_issued {c : Instr} {s a b : State} (hx : rowEffect c s = issueOwed b) (h : Near a b) (hs : StatusStands b) :
    Reports c s a :=
  ⟨finish (issueOwed b), (exec_eq c s).trans (congrArg (fun x => Host.Outcome.next (finish x)) hx),
    finish_stands (issueOwed_stands hs), h.issuesFollow⟩

theorem finish_misses (s : State) : (finish (issueOwed s)).sched.misses = s.sched.misses := by
  obtain ⟨_, h1⟩ := finish_issued (issueOwed s)
  obtain ⟨_, h2⟩ := issued_makeIssues (issueFuel s) s
  exact h1.counters.2.1.trans h2.counters.2.1

theorem decided_triggered (seq : BitVec 8) {s : State} {u : Tuning} (ho : s.session.state = .open) (hu : s.config.tuning = some u)
    (e : Entry) (hq : s.sched.queue = [e]) :
    decided seq .ok
        { s with
          pins := { s.pins with trigger := true }
          sched := { s.sched with queue := [e.trigger u.statWait], triggers := min 4294967295 (s.sched.triggers + 1) } } =
      triggerEntry e (decided seq .ok s) := by
  have hw (x : State) (hx : x.config = s.config) : statWait x = u.statWait := statWait_of_tuning (by rw [hx]; exact hu)
  have hr : replaceEntry e (e.trigger u.statWait) [e] = [e.trigger u.statWait] := by simp [replaceEntry]
  simp only [triggerEntry, hw _ (show (decided seq .ok s).config = s.config by rw [decided_blocks])]
  simp [decided, restartTimer, Result.accepts, ho, hq, hr, State.modSched, State.modPins, State.modSession, saturatingAdd, max32]

/-- Settles O8: the time moves, the decision is made, then the wake reached and the entries passed are judged. -/
theorem trimTimeMovesTheTime : Obligations.TrimTimeMovesTheTime := by
  refine fun seq s hb hr => ⟨fun h => ?_, fun h1 h2 h3 h4 => ?_⟩
  · have hn : ¬trimInRange s.tb.time s.path.arg1.toInt = true := by
      rw [trimInRange_iff]
      omega
    exact decides_of_free (f := trimTime seq) rfl hb hr (if_neg hn) (.rfl' s)
  have hin : trimInRange s.tb.time s.path.arg1.toInt = true := (trimInRange_iff _ _).2 ⟨h1, h2, h3⟩
  obtain ⟨t, ht, htr, hst, hsched, htb, hcfg, hsup, hss, hsf, hrow⟩ := rowEffect_trim (seq := seq) hb hr hin
  refine ⟨trimmed s.tb.time s.path.arg1.toInt, trimmed_toNat h3 h4, ?_⟩
  generalize trimmed s.tb.time s.path.arg1.toInt = now at *
  intro moved passed lead undisturbed
  have hnow : t.tb.time = now := by rw [htb]; rfl
  have hdue (e : Entry) : e.isDue t.tb.time = true ↔ passed e := by rw [hnow]; exact isDue_iff e now
  have hasleep : t.session.asleep = s.session.asleep := by
    unfold Session.asleep
    rw [hss]
  have hcalm (hu : undisturbed) : judgeScheduled t = t := by
    refine judgeScheduled_of_undisturbed ?_
    rw [hasleep, hsup, hsched, hnow, hcfg]
    exact hu
  have missed (e : Entry) (c : Cause) {a b : State} (n : Near (decided seq .ok a) b) :
      Near (decided seq .ok (retired e .missed a)) (retireNow e .missed c none false b) := by
    rw [decided_retired]
    exact (n.retired e .missed).trans (near_retireNow _ _ _ _ _ _)
  refine ⟨fun hnone hu => ?_, fun hsus => ?_, fun hcap hu e hq hp => ?_, fun hal hcrit hcap e he hlead => ?_⟩
  · have hx : rowEffect (.trimTime seq) s = decideCommand seq .ok (requestStatus moved) := by
      rw [hrow, hcalm hu, comeDueAll_of_none fun e he => Bool.eq_false_iff.2 (mt (hdue e).1 (hnone e (hsched ▸ he))), ht]
      rfl
    exact .of_effect hx (near_requestStatus moved)
  · have hidle (x : State) (hx : x.sched.runState = s.sched.runState) : x.sched.runState.capturing = false := by
      rw [hx, hsus]
      rfl
    have hcalm' := hcalm (.inr (.inr (.inl (hidle s rfl))))
    have due (e : Entry) (x : State) (hx : x.sched.runState = s.sched.runState) :
        issueOwed (comeDue e x) = retireNow e .missed (missedCause x) none false x := by
      have hm := (near_retireNow e .missed (missedCause x) none false x).run.sched
      rw [comeDue_of_missed fun k => by simp [hidle x hx] at k,
        issueOwed_of_idle (hidle _ (by rw [hm]; exact hx))]
    refine ⟨fun e hq hp => ?_, fun e f hq hpe hpf => ?_⟩
    · have hqt : t.sched.queue = [e] := by rw [hsched]; exact hq
      have hx : rowEffect (.trimTime seq) s = retireNow e .missed (missedCause t) none false t := by
        rw [hrow, hcalm', hq]
        exact (comeDueNamed_head hqt ((hdue e).2 hp)).trans (due e t (by rw [hsched]))
      exact Reports.of_effect (hx ▸ missed e _ htr.near) (hx ▸ retireNow_stands _ _ _ _ _ _)
    · have hqt : t.sched.queue = [e, f] := by rw [hsched]; exact hq
      obtain ⟨u, hu⟩ : ∃ u, u = retireNow e .missed (missedCause t) none false t := ⟨_, rfl⟩
      have hus : u.sched = (retired e .missed t).sched := hu ▸ (near_retireNow _ _ _ _ _ _).run.sched
      have huq : u.sched.queue = [f] := by simp [hus, retired, hqt]
      have hut : u.tb = t.tb := by simp [hu]
      have hx : rowEffect (.trimTime seq) s = retireNow f .missed (missedCause u) none false u := by
        rw [hrow, hcalm', hq]
        change comeDueNamed f.frame (comeDueNamed e.frame t) = _
        rw [comeDueNamed_head hqt ((hdue e).2 hpe), due e t (by rw [hsched]), ← hu,
          comeDueNamed_head huq (by rw [hut]; exact (hdue f).2 hpf), due f u (by rw [hus, ← hsched]; rfl)]
      exact Reports.of_effect (hx ▸ missed f _ (hu ▸ missed e _ htr.near)) (hx ▸ retireNow_stands _ _ _ _ _ _)
  · have hqt : t.sched.queue = [e] := by rw [hsched]; exact hq
    have hx : rowEffect (.trimTime seq) s = issueOwed (comeDue e t) := by
      rw [hrow, hcalm hu, hq]
      exact comeDueNamed_head hqt ((hdue e).2 hp)
    refine ⟨fun hn => ?_, fun u ho ha htun => ?_⟩
    · rw [comeDue_of_missed fun k => hn ⟨hss ▸ k.2.1, k.2.2⟩] at hx
      exact reports_issued hx (missed e _ htr.near) (retireNow_stands _ _ _ _ _ _)
    · rw [comeDue_of_canTrigger (by rw [hsched]; exact hcap) (hss.trans ho) ha] at hx
      have hst' : StatusStands (triggerEntry e t) := restartTimer_stands (hst.of_engine rfl)
      have hsame := decided_triggered seq (s := moved) ho htun e hq
      exact reports_issued hx (hsame ▸ (triggerEntry_traffic htr e).near) hst'
  · have hreach : scheduledReached t = true := (scheduledReached_iff t).2 ⟨e, by rw [hsched]; exact ⟨hcap, he⟩, by
      rw [hnow, hcfg]
      exact hlead⟩
    have hlate : scheduledLate t = decide (e.due.toNat < now.toNat + lead) := by
      refine Bool.eq_iff_iff.2 ((scheduledLate_iff t).trans ?_)
      rw [hsched, hnow, hcfg, decide_eq_true_iff]
      exact ⟨fun ⟨e', ⟨_, h⟩, k⟩ => by rwa [Option.some.inj (he.symm.trans h)], fun k => ⟨e, ⟨hcap, he⟩, k⟩⟩
    obtain ⟨w, hw⟩ : ∃ w, w = beginWake .scheduled (scheduledLate t) t := ⟨_, rfl⟩
    have hjudged : judgeScheduled t = w := hw ▸ if_pos ⟨hasleep.trans hal, hsup ▸ hcrit, hreach⟩
    obtain ⟨hwstate, hwlate, hwcause, -⟩ := parts_of_course (hw ▸ beginWake_course .scheduled (scheduledLate t) t)
    have hwsched : w.sched = s.sched := by rw [hw, ← hsched]; simp
    have hwtb : w.tb = t.tb := by simp [hw]
    obtain ⟨v, hv⟩ : ∃ v, v = comeDueAll (s.sched.queue.map Entry.frame) w := ⟨_, rfl⟩
    obtain ⟨hsame, hvtb, hvst⟩ := comeDueAll_waking (s.sched.queue.map Entry.frame) hwstate (hw ▸ beginWake_stands _ _ _)
    rw [← hv] at hsame hvtb hvst
    have hend : SameSession w (finish v) :=
      hsame.trans (finish_awake ((asleep_of_course hsame.course).trans (awake_of_waking hwstate)))
    obtain ⟨hfstate, hflate, hfcause, -⟩ := parts_of_course hend.course
    have hx : rowEffect (.trimTime seq) s = v := by rw [hrow, hjudged, hv]
    refine ⟨finish v, (exec_eq _ s).trans (congrArg (fun x => Host.Outcome.next (finish x)) hx), finish_stands hvst,
      ?_, ?_, ?_, ?_, fun hq hp => ?_⟩
    · calc (finish v).tb = v.tb := by simp
        _ = moved.tb := (hvtb.trans hwtb).trans htb
    · exact hfstate.trans hwstate
    · refine (hfcause.trans hwcause).trans ?_
      change (if t.session.forcedRecovery then WakeCause.forcedRecovery else .scheduled) = _
      rw [hsf]
    · exact (hflate.trans hwlate).trans hlate
    · have hwq : w.sched.queue = [e] := by rw [hwsched]; exact hq
      have hvx : v = issueOwed (retireNow e .missed (missedCause w) none false w) := by
        have hmiss : comeDue e w = retireNow e .missed (missedCause w) none false w :=
          comeDue_of_missed fun k => by simp [hwstate] at k
        rw [hv, hq, ← hmiss]
        exact comeDueNamed_head hwq (by rw [hwtb]; exact (hdue e).2 hp)
      rw [hvx, finish_misses, (near_retireNow e .missed (missedCause w) none false w).run.sched]
      simp only [retired, hwsched, if_true]

end Sys2Proof.Machine
end

section
/-! PROOFS. What an issue leaves: the order appended, its ORDER_WRITE in the queue (R4, R13), and the orders of issues with no exit
decided. -/

namespace Sys2Proof.Machine

/-! ### An ORDER_WRITE requested (R162) -/

theorem traffic_endOrderService (s : State) : TrafficAlone s (endOrderService s) := by
  unfold endOrderService
  repeat' split
  · exact .rfl' s
  · exact traffic_modEngine rfl
  · exact ((traffic_modEngine (f := fun e => { e with service := none }) rfl).trans (traffic_modPort _ _)).trans (traffic_leaveList _ _)

theorem traffic_requestOrder (o : OrderContent) (s : State) : TrafficAlone s (requestOrder o s) := by
  have hev : TrafficAlone s (evictOrder s) := by
    unfold evictOrder
    repeat' split
    · exact .rfl' s
    · exact traffic_endOrderService s
    · exact traffic_modEngine rfl
  unfold requestOrder
  dsimp only
  repeat' split
  · exact traffic_modEngine rfl
  · exact traffic_modEngine rfl
  · exact hev.trans (traffic_modEngine rfl)

theorem sameSlotWaiting_iff (o : OrderContent) (l : List Request) :
    sameSlotWaiting o l = true ↔ ∃ c, Request.order c ∈ l ∧ orderSlot c.frame = orderSlot o.frame := by
  unfold sameSlotWaiting
  rw [List.any_eq_true]
  constructor
  · rintro ⟨r, hr, h⟩
    cases r with
    | order c => exact ⟨c, hr, by simpa [Request.orderContent?] using h⟩
    | status => simp [Request.orderContent?] at h
    | log x => simp [Request.orderContent?] at h
    | planFetch n a => simp [Request.orderContent?] at h
    | configRead => simp [Request.orderContent?] at h
  · rintro ⟨c, hc, h⟩
    exact ⟨_, hc, by simpa [Request.orderContent?] using h⟩

theorem replaceOrder_mem {o c : OrderContent} {l : List Request} (hc : Request.order c ∈ l)
    (h : orderSlot c.frame = orderSlot o.frame) : Request.order o ∈ replaceOrder o l := by
  induction l with
  | nil => cases hc
  | cons r rs ih =>
    cases r with
    | order d =>
      unfold replaceOrder
      split
      · simp
      · rename_i hne
        refine List.mem_cons_of_mem _ (ih ((List.mem_cons.1 hc).resolve_left ?_))
        rintro ⟨⟩
        exact hne h
    | status => exact List.mem_cons_of_mem _ (ih (by simpa using hc))
    | log l => exact List.mem_cons_of_mem _ (ih (by simpa using hc))
    | planFetch n a => exact List.mem_cons_of_mem _ (ih (by simpa using hc))
    | configRead => exact List.mem_cons_of_mem _ (ih (by simpa using hc))

/-- An ORDER_WRITE just requested is in the queue. -/
theorem requestOrder_queued (o : OrderContent) (s : State) : Request.order o ∈ (requestOrder o s).engine.queued := by
  unfold requestOrder
  split
  · rename_i h
    simp only [Engine.queued, State.modEngine_engine]
    obtain ⟨c, hc, hs⟩ := (sameSlotWaiting_iff _ _).1 h
    exact List.mem_append_right _ (replaceOrder_mem hc hs)
  · simp [Engine.queued]

/-! ### The order appended (R4, R13) -/

/-- Steps 3 to 5 of an issue: the state with the order appended, its requests not yet made. -/
def appended (k : IssueKind) (c : Segment) (s : State) : State :=
  let t := s.modSeg fun g => { g with bias := c.biasAt g.frames }
  appendOrder (newOrder k c t) (issueDue k t c).skips t

/-- The order that an issue appends. -/
def orderOf (k : IssueKind) (c : Segment) (s : State) : Entry :=
  newOrder k c (s.modSeg fun g => { g with bias := c.biasAt g.frames })

theorem appended_eq (k : IssueKind) (c : Segment) (s : State) :
    appended k c s =
      { s with
        sched :=
          { s.sched with
            queue := s.sched.queue ++ [orderOf k c s], nextFrame := s.sched.nextFrame + 1, chainBase := some (orderOf k c s).due
            skips := min 4294967295 (s.sched.skips + (issueDue k s c).skips), owed := s.sched.owed.tail, heldCopy := none
            startRequest := none }
        expo := { s.expo with el := (orderOf k c s).el }
        seg :=
          { s.seg with
            bias := c.biasAt s.seg.frames, frames := min 65535 (s.seg.frames + 1)
            entryTime := some (s.seg.entryTime.getD (orderOf k c s).due) } } := by
  cases k with
  | start b => cases b <;> rfl
  | faultHold => rfl
  | resumption => rfl
  | ordinary m b => rfl

/-- What the issue leaves before a suspension put off is judged: near the order appended, its requests in the queue. -/
structure IssueMade (e : Entry) (a b : State) : Prop where
  near   : Near a b
  stands : StatusStands b
  order  : Request.order (orderContent e false) ∈ b.engine.queued

theorem completeIssue_made (k : IssueKind) (c : Segment) (s : State) :
    ∃ b, completeIssue k c s = deferredSuspend k b ∧ IssueMade (orderOf k c s) (appended k c s) b := by
  refine ⟨_, rfl, ?_, beginService_stands (requestStatus_stands _), ?_⟩
  · exact ((traffic_requestOrder _ _).trans (traffic_requestStatus _)).near.trans (near_beginService _)
  · exact beginService_queued rfl (requestStatus_queued _ _ (requestOrder_queued _ _))

/-- An issue that START does not owe. -/
theorem completeIssue_of_other {k : IssueKind} (h : ∀ b, k ≠ .start b) (c : Segment) (s : State) :
    IssueMade (orderOf k c s) (appended k c s) (completeIssue k c s) := by
  obtain ⟨b, hb, hm⟩ := completeIssue_made k c s
  have hd : deferredSuspend k b = b := by
    cases k with
    | start x => exact absurd rfl (h x)
    | faultHold => rfl
    | resumption => rfl
    | ordinary m x => rfl
  rw [hb, hd]
  exact hm

/-! ### A suspension put off until START's issues are made (R7, R130) -/

/-- The suspension put off, as the statements speak of it. -/
def suspendedAsStarted (s : State) : State :=
  if s.supply.state = .critical ∧ s.sched.runState.capturing = true ∧ ∀ x ∈ s.sched.owed, x.isStart = false then
    { s with
      sched :=
        { s.sched with
          runState := .suspended, resumeState := some (s.sched.startState.getD s.sched.runState), owed := [], heldCopy := none
          startRequest := none }
      seg := { s.seg with decided := none }
      stats := { s.stats with latched := none } }
  else s

theorem deferredSuspend_start {a b : State} (h : Near a b) (x : Bool) :
    Near (suspendedAsStarted a) (deferredSuspend (.start x) b) := by
  have hs : b.supply = a.supply := h.fixed.supply
  have hany : b.sched.owed.any Origin.isStart = false ↔ ∀ x ∈ a.sched.owed, x.isStart = false := by
    rw [h.run.sched, List.any_eq_false]
    simp
  unfold deferredSuspend suspendedAsStarted suspendCapturing
  dsimp only
  rw [hs, h.run.sched]
  rw [h.run.sched] at hany
  by_cases hc : a.supply.state = .critical
  · rw [if_pos hc]
    by_cases hk : a.sched.runState.capturing = true ∧ ∀ x ∈ a.sched.owed, x.isStart = false
    · rw [if_pos ⟨hc, hk.1, hk.2⟩, if_pos ⟨hk.1, by rw [hany.2 hk.2]; exact Bool.false_ne_true⟩]
      have hx := (h.modSched fun q => { q with resumeState := some a.sched.startedAs }).dropIssues.trans (Near.rfl' _)
      have hr : (dropIssues (a.modSched fun q => { q with resumeState := some a.sched.startedAs })).sched.runState ≠ .suspended := by
        change a.sched.runState ≠ .suspended
        intro hn
        rw [hn] at hk
        exact absurd hk.1 (by decide)
      exact near_setRunState hx hr
    · rw [if_neg fun hn => hk hn.2, if_neg fun hn => hk ⟨hn.1, hany.1 (by simpa using hn.2)⟩]
      exact h
  · rw [if_neg hc, if_neg fun hn => hc hn.1]
    exact h

end Sys2Proof.Machine
end

section
/-! PROOFS. The orders of issues with no exit decided, and the issues made one after another (R12, R13). -/

namespace Sys2Proof.Machine

/-! ### The order of an issue of each kind -/

theorem orderOf_blocks (k : IssueKind) (c : Segment) (s : State) :
    let level := newLevel c (k.levelKind s.expo.held) (c.biasAt s.seg.frames) (baseLevel k c s.expo.el)
    let d := issueDue k s c
    orderOf k c s =
      { frame := s.sched.nextFrame, due := d.due, el := level.1, s := c.shutterPart level.1, g := c.gainPart level.1,
        shutterUs := shutterTime (c.shutterPart level.1), gainCode := gainCode (c.gainPart level.1),
        slot := s.seg.current.getD 0, first := k.first, stretched := d.stretched, deferred := d.deferred,
        skipped := min d.skips 65535, armed := false, triggered := false, deadline := none, discounted := false,
        limit := level.2 } := by
  cases k with
  | start b => cases b <;> rfl
  | faultHold => rfl
  | resumption => rfl
  | ordinary m b => rfl

/-- An issue's copy read is kept; what it appends does not depend on it. -/
theorem issueDue_copyRead (k : IssueKind) (c d : Segment) (s : State) :
    issueDue k (s.modSeg fun g => { g with copyRead := some d }) c = issueDue k s c := by
  cases k with
  | start b => cases b <;> rfl
  | faultHold => rfl
  | resumption => rfl
  | ordinary m b => rfl

/-- An issue is one that START owes. -/
def IssueKind.isStart : IssueKind → Bool
  | .start _ => true
  | _ => false

/-- What an issue leaves, a suspension put off among it. -/
theorem completeIssue_near (k : IssueKind) (c : Segment) (s : State) :
    Near (if k.isStart then suspendedAsStarted (appended k c s) else appended k c s) (completeIssue k c s) ∧
      StatusStands (completeIssue k c s) ∧ Request.order (orderContent (orderOf k c s) false) ∈ (completeIssue k c s).engine.queued := by
  obtain ⟨b, hb, hn, hs, ho⟩ := completeIssue_made k c s
  cases k with
  | start x =>
    rw [hb]
    refine ⟨deferredSuspend_start hn x, deferredSuspend_stands _ hs, ?_⟩
    unfold deferredSuspend suspendCapturing suspendNow setRunState
    dsimp only
    repeat' split
    · exact queued_of_engine (a := b) (by simp) ho
    · exact requestStatus_queued _ _ (queued_of_engine (a := b) (by simp) ho)
    · exact ho
    · exact ho
  | faultHold => exact hb ▸ ⟨hn, hs, ho⟩
  | resumption => exact hb ▸ ⟨hn, hs, ho⟩
  | ordinary m x => exact hb ▸ ⟨hn, hs, ho⟩

theorem issueUnder_faultHold {o : Origin} {s : State} (h : s.sched.runState = .faultHold) (ho : o.isStart = false) (c : Segment) :
    issueUnder o c s = { state := completeIssue .faultHold c s, made := true } := by
  cases o with
  | start b => cases ho
  | retirement f m => simp [issueUnder, h]
  | resumption b => cases b <;> simp [issueUnder, h]

theorem issueUnder_resumption {s : State} (c : Segment) (h : s.sched.runState ≠ .faultHold) :
    issueUnder (.resumption true) c s = { state := completeIssue .resumption c s, made := true } := by
  simp [issueUnder, h]

theorem ordinaryIssue_stays {s : State} {c : Segment} (m : Option Word) (h : exitDecided s.seg c (provisionalDue s c) = false) :
    ordinaryIssue m c s = { state := completeIssue (.ordinary m false) c s, made := true } := by
  simp [ordinaryIssue, h]

theorem issueUnder_running {s : State} {o : Origin} (c : Segment) {frame : Word} {metered : Bool} (h : s.sched.runState = .running)
    (ho : o = .retirement frame metered ∨ (o = .resumption false ∧ metered = false)) :
    issueUnder o c s = ordinaryIssue (if metered then some frame else none) c s := by
  rcases ho with rfl | ⟨rfl, rfl⟩
  · rw [issueUnder_retirement _ _ _ h]
    cases metered <;> rfl
  · simp [issueUnder, h]

theorem levelKind_of_metered (frame : Word) (metered b : Bool) (held : Option Metering) :
    IssueKind.levelKind (.ordinary (if metered then some frame else none) b) held =
      .mode (match held with
        | none => none
        | some h => if metered = true ∧ h.frame = frame then some h else none) := by
  cases metered with
  | true =>
    cases held with
    | none => rfl
    | some h => by_cases hf : h.frame = frame <;> simp [IssueKind.levelKind, hf]
  | false => cases held <;> simp [IssueKind.levelKind]

/-! ### What an attempt can do (R12, R14, R62) -/

/-- A transition waited for with the copy kept (R63). -/
def waiting (left : Segment) (slot : Nat) (s : State) : State :=
  (s.modSched fun q => { q with heldCopy := some left }).modSeg fun g => { g with decided := some slot }

theorem judgeTransition_cases (m : Option Word) (left : Segment) (n : Nat) (s : State) :
    (∃ x d, s.cache.entry? n = some x ∧ x.state = .valid ∧ x.record = some d ∧
      judgeTransition m left n s = { state := takeTransition m left n d s, made := true }) ∨
    (∃ x, s.cache.entry? n = some x ∧ x.state = .fault ∧
      judgeTransition m left n s = { state := continueFaultHold left s, made := true }) ∨
    (s.cache.entry? n = none ∧ judgeTransition m left n s = { state := lazyCreate n (waiting left n s), made := false }) ∨
    (∃ x, s.cache.entry? n = some x ∧ x.state ≠ .fault ∧ (x.state = .valid → x.record = none) ∧
      judgeTransition m left n s = { state := waiting left n s, made := false }) := by
  cases he : s.cache.entry? n with
  | none => exact .inr (.inr (.inl ⟨rfl, by simp [judgeTransition, he, waiting]⟩))
  | some x =>
    cases hx : x.state with
    | valid =>
      cases hr : x.record with
      | some d => exact .inl ⟨x, d, rfl, hx, hr, judgeTransition_valid m left he hx hr⟩
      | none => exact .inr (.inr (.inr ⟨x, rfl, by simp [hx], fun _ => hr, by simp [judgeTransition, he, hx, hr, waiting]⟩))
    | fault => exact .inr (.inl ⟨x, rfl, hx, by simp [judgeTransition, he, hx]⟩)
    | stale => exact .inr (.inr (.inr ⟨x, rfl, by simp [hx], by simp [hx], by simp [judgeTransition, he, hx, waiting]⟩))
    | fetching => exact .inr (.inr (.inr ⟨x, rfl, by simp [hx], by simp [hx], by simp [judgeTransition, he, hx, waiting]⟩))
    | invalid => exact .inr (.inr (.inr ⟨x, rfl, by simp [hx], by simp [hx], by simp [judgeTransition, he, hx, waiting]⟩))

theorem attemptIssue_cases (o : Origin) (s : State) :
    (∃ left n, s.sched.heldCopy = some left ∧ s.seg.decided = some n ∧ s.sched.runState = .faultHold ∧
      attemptIssue o s = { state := continueFaultHold left s, made := true }) ∨
    (∃ left n, s.sched.heldCopy = some left ∧ s.seg.decided = some n ∧ s.sched.runState ≠ .faultHold ∧
      attemptIssue o s = judgeTransition o.meteredFrame left n s) ∨
    ((s.sched.heldCopy = none ∨ s.seg.decided = none) ∧ readableCopy s.cache s.seg.current = none ∧
      attemptIssue o s = { state := s, made := false }) ∨
    (∃ c, (s.sched.heldCopy = none ∨ s.seg.decided = none) ∧ readableCopy s.cache s.seg.current = some c ∧
      attemptIssue o s = issueUnder o c (s.modSeg fun g => { g with copyRead := some c })) := by
  by_cases hd : s.sched.heldCopy = none ∨ s.seg.decided = none
  · cases hr : readableCopy s.cache s.seg.current with
    | none => exact .inr (.inr (.inl ⟨hd, rfl, attemptIssue_waits hd hr⟩))
    | some c => exact .inr (.inr (.inr ⟨c, hd, rfl, attemptIssue_of_copy o hd hr⟩))
  · obtain ⟨hh, hn⟩ := not_or.1 hd
    obtain ⟨left, hh⟩ := Option.ne_none_iff_exists'.1 hh
    obtain ⟨n, hn⟩ := Option.ne_none_iff_exists'.1 hn
    by_cases hf : s.sched.runState = .faultHold
    · exact .inl ⟨left, n, hh, hn, hf, by simp [attemptIssue, hh, hn, hf]⟩
    · exact .inr (.inl ⟨left, n, hh, hn, hf, by simp [attemptIssue, hh, hn, hf]⟩)

theorem issueUnder_cases (o : Origin) (c : Segment) (s : State) :
    (∃ k, issueUnder o c s = { state := completeIssue k c s, made := true }) ∨
      ∃ m, s.sched.runState ≠ .faultHold ∧ issueUnder o c s = ordinaryIssue m c s := by
  by_cases hf : s.sched.runState = .faultHold
  · cases o with
    | start b => exact .inl ⟨_, rfl⟩
    | retirement f m => exact .inl ⟨_, issueUnder_faultHold hf rfl c⟩
    | resumption b => exact .inl ⟨_, issueUnder_faultHold hf rfl c⟩
  · cases o with
    | start b => exact .inl ⟨_, rfl⟩
    | retirement f m => exact .inr ⟨_, hf, by simp [issueUnder, hf]; rfl⟩
    | resumption b =>
      cases b with
      | true => exact .inl ⟨_, issueUnder_resumption c hf⟩
      | false => exact .inr ⟨none, hf, by simp [issueUnder, hf]⟩

/-! ### Issues made one after another (R12) -/

theorem settle_eq (s : State) :
    settle s = beginService (judgeWakes (cacheSettle (freeBuffer (judgeRun (issueOwed s))))) := rfl

theorem setRunState_sched (r : RunState) (s : State) : (setRunState r s).sched = { s.sched with runState := r } := by
  unfold setRunState
  split
  · rename_i h
    subst h
    rfl
  · simp

theorem judgeRun_blocks (s : State) :
    (judgeRun s).sched = { s.sched with runState := (judgeRun s).sched.runState } ∧
      ((judgeRun s).sched.runState = s.sched.runState ∨
        (s.sched.runState.capturing = true ∧ (judgeRun s).sched.runState.capturing = true)) := by
  unfold judgeRun
  repeat' split
  · rename_i h _
    rw [setRunState_sched, h]
    exact ⟨rfl, .inr ⟨rfl, rfl⟩⟩
  · exact ⟨rfl, .inl rfl⟩
  · exact ⟨rfl, .inl rfl⟩
  · rename_i h _
    rw [setRunState_sched, h]
    exact ⟨rfl, .inr ⟨rfl, rfl⟩⟩
  · exact ⟨rfl, .inl rfl⟩

theorem finish_run (s : State) :
    (finish s).sched = (judgeRun (issueOwed s)).sched ∧ (finish s).seg = (issueOwed s).seg ∧ (finish s).expo = (issueOwed s).expo := by
  refine ⟨?_, ?_, ?_⟩ <;> simp [finish, settle]

/-! ### The owed list and the voids (R12, R65) -/

/-- What an attempt does to the issues owed: one is made, and each order voided owes another, so long as the count of voids stands
below its limit and the run captures. -/
def OneFewer (a b : State) : Prop :=
  a.sched.voids ≤ b.sched.voids ∧
    (b.sched.runState.capturing = true → b.sched.voids < max32 →
      b.sched.owed.length + 1 + a.sched.voids = a.sched.owed.length + b.sched.voids)

/-- Orders voided: each owes one. -/
structure VoidsOwe (a b : State) : Prop where
  run   : b.sched.runState = a.sched.runState
  voids : a.sched.voids ≤ b.sched.voids
  owed  : b.sched.runState.capturing = true → b.sched.voids < max32 →
    b.sched.owed.length + a.sched.voids = a.sched.owed.length + b.sched.voids
  some  : a.sched.owed ≠ [] → b.sched.owed ≠ []

theorem VoidsOwe.of_sched {a b : State} (h : b.sched.runState = a.sched.runState) (k : b.sched.voids = a.sched.voids)
    (l : b.sched.owed = a.sched.owed) : VoidsOwe a b := ⟨h, k.ge, fun _ _ => by rw [l, k], fun hn => by rwa [l]⟩

theorem VoidsOwe.trans {a b c : State} (h : VoidsOwe a b) (k : VoidsOwe b c) : VoidsOwe a c where
  run := k.run.trans h.run
  voids := h.voids.trans k.voids
  owed := fun hc hv => by
    have h1 := k.owed hc hv
    have h2 := h.owed (k.run ▸ hc) (k.voids.trans_lt hv)
    omega
  some := fun hn => k.some (h.some hn)

theorem voidEntry_sched (e : Entry) (s : State) : (voidEntry e s).sched = (retired e .voided s).sched := by
  have h := (retire_run e .voided .noCause none false s).1
  unfold voidEntry
  simp [h]

theorem voidsOwe_voidEntry (e : Entry) {s : State} (hm : s.sched.voids ≤ max32) : VoidsOwe s (voidEntry e s) := by
  have h := voidEntry_sched e s
  refine ⟨by rw [h]; rfl, ?_, fun hc hv => ?_, fun hn => ?_⟩
  · rw [h]
    simp only [retired, if_true]
    unfold max32 at hm
    omega
  · rw [h] at hc hv ⊢
    have hc' : s.sched.runState.capturing = true := hc
    simp only [retired, if_true, hc', List.length_append, List.length_singleton] at hv ⊢
    unfold max32 at hv
    omega
  · rw [h]
    simp only [retired]
    split
    · simp
    · exact hn

theorem voidsOwe_voidIssued (l : List Entry) {s : State} (hm : s.sched.voids ≤ max32) : VoidsOwe s (voidIssued l s) := by
  induction l generalizing s with
  | nil => exact .of_sched rfl rfl rfl
  | cons x xs ih =>
    unfold voidIssued
    split
    · exact ih hm
    · have hle : (voidEntry x s).sched.voids ≤ max32 := by
        rw [voidEntry_sched]
        simp only [retired, if_true]
        unfold max32
        omega
      exact (voidsOwe_voidEntry x hm).trans (ih hle)

theorem voidsOwe_settleQueue (k : Settle) {s : State} (hm : s.sched.voids ≤ max32) : VoidsOwe s (settleQueue k s) := by
  unfold settleQueue
  repeat' split
  · exact .of_sched rfl rfl rfl
  · refine (voidsOwe_voidIssued s.sched.queue hm).trans (.trans (b := returnToStanding (voidIssued s.sched.queue s)) ?_ (.of_sched rfl rfl rfl))
    unfold returnToStanding
    split
    · exact .of_sched rfl rfl rfl
    · exact .of_sched (by simp) (by simp) (by simp)
  · exact .of_sched rfl rfl rfl

theorem oneFewer_completeIssue (k : IssueKind) (c : Segment) {s : State} (ho : s.sched.owed ≠ []) :
    OneFewer s (completeIssue k c s) := by
  have hn := (completeIssue_near k c s).1.run.sched
  have ha : (appended k c s).sched.voids = s.sched.voids ∧ (appended k c s).sched.owed = s.sched.owed.tail := by
    rw [appended_eq]
    exact ⟨rfl, rfl⟩
  have hlen : s.sched.owed.tail.length + 1 = s.sched.owed.length := by
    cases h : s.sched.owed with
    | nil => exact absurd h ho
    | cons x xs => rfl
  have plain {b : State} (hb : b.sched = (appended k c s).sched) : OneFewer s b := by
    refine ⟨by rw [hb, ha.1], fun _ _ => ?_⟩
    rw [hb, ha.1, ha.2]
    omega
  split at hn
  · unfold suspendedAsStarted at hn
    split at hn
    · refine ⟨by rw [hn]; exact ha.1.ge, fun hc => ?_⟩
      rw [hn] at hc
      exact absurd hc Bool.false_ne_true
    · exact plain hn
  · exact plain hn

theorem oneFewer_takeTransition (m : Option Word) (left : Segment) (n : Nat) (c : Segment) {s : State} (ho : s.sched.owed ≠ [])
    (hm : s.sched.voids ≤ max32) : OneFewer s (takeTransition m left n c s) := by
  have hv := voidsOwe_settleQueue left.settle hm
  obtain ⟨h1, h2⟩ := oneFewer_completeIssue (.ordinary m true) c (s := enterSegment n (some c) (settleQueue left.settle s)) (hv.some ho)
  refine ⟨hv.voids.trans h1, fun hc hl => ?_⟩
  have hx := h2 hc hl
  have hrun : (settleQueue left.settle s).sched.runState.capturing = true := by
    have hk : (completeIssue (.ordinary m true) c (enterSegment n (some c) (settleQueue left.settle s))).sched.runState =
        (settleQueue left.settle s).sched.runState := by
      rw [(completeIssue_near (.ordinary m true) c (enterSegment n (some c) (settleQueue left.settle s))).1.run.sched]
      rfl
    exact hk ▸ hc
  have hy := hv.owed hrun (lt_of_le_of_lt h1 hl)
  simp only [enterSegment_frame] at hx h1
  unfold takeTransition at hl ⊢
  omega

theorem oneFewer_continueFaultHold (c : Segment) {s : State} (ho : s.sched.owed ≠ []) : OneFewer s (continueFaultHold c s) := by
  have hs : (setRunState .faultHold (s.modSeg fun g => { g with decided := none })).sched =
      { s.sched with runState := .faultHold } := setRunState_sched _ _
  have h := oneFewer_completeIssue .faultHold c (s := setRunState .faultHold (s.modSeg fun g => { g with decided := none }))
    (by rw [hs]; exact ho)
  unfold OneFewer at h ⊢
  rw [hs] at h
  exact h

theorem oneFewer_judgeTransition (m : Option Word) (left : Segment) (n : Nat) {s : State} (ho : s.sched.owed ≠ [])
    (hm : s.sched.voids ≤ max32) (hmade : (judgeTransition m left n s).made = true) :
    OneFewer s (judgeTransition m left n s).state := by
  rcases judgeTransition_cases m left n s with ⟨_, d, -, -, -, h⟩ | ⟨_, -, -, h⟩ | ⟨-, h⟩ | ⟨_, -, -, -, h⟩
  · rw [h]
    exact oneFewer_takeTransition m left n d ho hm
  · rw [h]
    exact oneFewer_continueFaultHold left ho
  · simp [h] at hmade
  · simp [h] at hmade

theorem oneFewer_ordinaryIssue (m : Option Word) (c : Segment) {s : State} (hc : s.sched.runState.capturing = true)
    (ho : s.sched.owed ≠ []) (hm : s.sched.voids ≤ max32) (hmade : (ordinaryIssue m c s).made = true) :
    OneFewer s (ordinaryIssue m c s).state := by
  cases hd : exitDecided s.seg c (provisionalDue s c) with
  | false =>
    rw [ordinaryIssue_stays m hd]
    exact oneFewer_completeIssue _ _ ho
  | true =>
    cases hn : c.next with
    | none =>
      rw [ordinaryIssue_ends m hd hn]
      refine ⟨((issued_endOfPlan hc).voids hm).1, fun hk => ?_⟩
      have hstop : (endOfPlan s).sched.runState = .stopped := by simp [endOfPlan, setRun]
      rw [hstop] at hk
      exact absurd hk Bool.false_ne_true
    | some n =>
      rw [ordinaryIssue_judged m hd hn] at hmade ⊢
      exact oneFewer_judgeTransition m c n ho hm hmade

/-- An attempt that makes its issue (R12). -/
theorem oneFewer_attemptIssue (o : Origin) {s : State} (hc : s.sched.runState.capturing = true) (ho : s.sched.owed ≠ [])
    (hm : s.sched.voids ≤ max32) (hmade : (attemptIssue o s).made = true) : OneFewer s (attemptIssue o s).state := by
  rcases attemptIssue_cases o s with ⟨left, n, -, -, hf, h⟩ | ⟨left, n, -, -, hf, h⟩ | ⟨-, -, h⟩ | ⟨c, hd, hr, h⟩
  · rw [h]
    exact oneFewer_continueFaultHold left ho
  · rw [h] at hmade ⊢
    exact oneFewer_judgeTransition _ left n ho hm hmade
  · simp [h] at hmade
  · rw [h] at hmade ⊢
    have hs : (s.modSeg fun g => { g with copyRead := some c }).sched = s.sched := rfl
    have back {x : State} (hx : OneFewer (s.modSeg fun g => { g with copyRead := some c }) x) : OneFewer s x := hx
    rcases issueUnder_cases o c (s.modSeg fun g => { g with copyRead := some c }) with ⟨k, hk⟩ | ⟨m, -, hk⟩
    · rw [hk]
      exact back (oneFewer_completeIssue k c (hs ▸ ho))
    · rw [hk] at hmade ⊢
      exact back (oneFewer_ordinaryIssue m c (hs ▸ hc) (hs ▸ ho) (hs ▸ hm) hmade)

/-! ### An issue that waits goes on waiting (R12, R14, R63) -/

theorem entry?_lazyCreate {s : State} {n : Nat} (h : s.cache.entry? n = none) : (lazyCreate n s).cache.entry? n = some (newEntry n) := by
  have hr : ∀ y ∈ (makeRoom s).cache.entries, y.slot ≠ n := by
    have hy := (entry?_eq_none_iff _ _).1 h
    unfold makeRoom
    repeat' split
    · exact hy
    · exact hy
    · exact fun y hm => hy y (List.mem_filter.1 hm).1
  have hn : (makeRoom s).cache.entry? n = none := (entry?_eq_none_iff _ _).2 hr
  unfold PlanCache.entry? at hn ⊢
  have hl : (lazyCreate n s).cache.entries = (makeRoom s).cache.entries ++ [newEntry n] := rfl
  rw [hl, List.find?_append, hn]
  simp [newEntry]

theorem lazyCreate_run (n : Nat) (s : State) : (lazyCreate n s).sched = s.sched ∧ (lazyCreate n s).seg = s.seg := by simp

theorem judgeTransition_of_stale {s : State} {n : Nat} {x : CacheEntry} (m : Option Word) (left : Segment)
    (he : s.cache.entry? n = some x) (hf : x.state ≠ .fault) (hv : x.state = .valid → x.record = none) :
    judgeTransition m left n s = { state := waiting left n s, made := false } := by
  rcases judgeTransition_cases m left n s with ⟨y, d, hy, hs, hd, -⟩ | ⟨y, hy, hs, -⟩ | ⟨hy, -⟩ | ⟨_, -, -, -, h⟩
  · obtain rfl : x = y := Option.some.inj (he.symm.trans hy)
    simp [hv hs] at hd
  · obtain rfl : x = y := Option.some.inj (he.symm.trans hy)
    exact absurd hs hf
  · simp [he] at hy
  · exact h

theorem attemptIssue_of_waiting {s : State} {left : Segment} {n : Nat} (o : Origin) (hh : s.sched.heldCopy = some left)
    (hd : s.seg.decided = some n) (hf : s.sched.runState ≠ .faultHold) :
    attemptIssue o s = judgeTransition o.meteredFrame left n s := by
  simp [attemptIssue, hh, hd, hf]

/-- A transition waited for is waited for again. -/
theorem judgeTransition_waits {s : State} {m : Option Word} {left : Segment} {n : Nat} (hf : s.sched.runState ≠ .faultHold)
    (h : (judgeTransition m left n s).made = false) (o : Origin) :
    (attemptIssue o (judgeTransition m left n s).state).made = false ∧
      (judgeTransition m left n s).state.sched.owed = s.sched.owed := by
  rcases judgeTransition_cases m left n s with ⟨_, d, -, -, -, hx⟩ | ⟨_, -, -, hx⟩ | ⟨hn, hx⟩ | ⟨y, hy, hys, hyr, hx⟩
  · simp [hx] at h
  · simp [hx] at h
  · have hs : (lazyCreate n (waiting left n s)).sched = (waiting left n s).sched := (lazyCreate_run n _).1
    have hg : (lazyCreate n (waiting left n s)).seg = (waiting left n s).seg := (lazyCreate_run n _).2
    have he : (lazyCreate n (waiting left n s)).cache.entry? n = some (newEntry n) := entry?_lazyCreate (s := waiting left n s) hn
    rw [hx]
    refine ⟨?_, by rw [hs]; rfl⟩
    rw [attemptIssue_of_waiting (left := left) (n := n) o (by rw [hs]; rfl) (by rw [hg]; rfl) (by rw [hs]; exact hf),
      judgeTransition_of_stale _ _ he (by simp [newEntry]) (by simp [newEntry])]
  · rw [hx]
    refine ⟨?_, rfl⟩
    rw [attemptIssue_of_waiting (s := waiting left n s) (left := left) (n := n) o rfl rfl hf,
      judgeTransition_of_stale _ _ (s := waiting left n s) hy hys hyr]

theorem attemptIssue_waits_again (o : Origin) {s : State} (h : (attemptIssue o s).made = false) :
    (attemptIssue o (attemptIssue o s).state).made = false ∧ (attemptIssue o s).state.sched.owed = s.sched.owed := by
  rcases attemptIssue_cases o s with ⟨left, n, -, -, hf, hx⟩ | ⟨left, n, -, -, hf, hx⟩ | ⟨-, -, hx⟩ | ⟨c, hd, hr, hx⟩
  · simp [hx] at h
  · rw [hx] at h ⊢
    exact judgeTransition_waits hf h o
  · rw [hx]
    exact ⟨by rw [hx], rfl⟩
  · rw [hx] at h ⊢
    rcases issueUnder_cases o c (s.modSeg fun g => { g with copyRead := some c }) with ⟨k, hk⟩ | ⟨m, hf, hk⟩
    · simp [hk] at h
    · rw [hk] at h ⊢
      cases hdec : exitDecided (s.modSeg fun g => { g with copyRead := some c }).seg c
          (provisionalDue (s.modSeg fun g => { g with copyRead := some c }) c) with
      | false => simp [ordinaryIssue_stays m hdec] at h
      | true =>
        cases hn : c.next with
        | none => simp [ordinaryIssue_ends m hdec hn] at h
        | some n =>
          rw [ordinaryIssue_judged m hdec hn] at h ⊢
          exact judgeTransition_waits (s := s.modSeg _) hf h o

/-! ### The issues made are as many as can be (R12; L13) -/

/-- Nothing is left to issue: none is owed, or the one at the head waits. -/
def AllIssued (t : State) : Prop :=
  t.sched.owed = [] ∨ ∃ o rest, t.sched.owed = o :: rest ∧ (attemptIssue o t).made = false

/-- Unless all is issued, as many orders have been made as the fuel allows, each of them owed before or by an order voided. -/
theorem makeIssues_allIssued (fuel : Nat) {s : State} (hm : s.sched.voids ≤ max32)
    (hc : (makeIssues fuel s).sched.runState.capturing = true) (hv : (makeIssues fuel s).sched.voids < max32) :
    AllIssued (makeIssues fuel s) ∨ fuel + s.sched.voids ≤ s.sched.owed.length + (makeIssues fuel s).sched.voids := by
  induction fuel generalizing s with
  | zero => exact .inr (by simp only [makeIssues]; omega)
  | succ n ih =>
    obtain ⟨j, hj⟩ : ∃ j, j = judgeRun s := ⟨_, rfl⟩
    have hjs := (judgeRun_blocks s).1
    rw [← hj] at hjs
    have hjv : j.sched.voids = s.sched.voids := by rw [hjs]
    have hjo : j.sched.owed = s.sched.owed := by rw [hjs]
    have hx : makeIssues (n + 1) s =
        if j.sched.runState.capturing then
          match j.sched.owed with
          | [] => j
          | o :: _ => if (attemptIssue o j).made then makeIssues n (attemptIssue o j).state else (attemptIssue o j).state
        else j := by
      rw [hj]
      rfl
    rw [hx] at hc hv ⊢
    split at hc
    · rename_i hjc
      rw [if_pos hjc] at hv ⊢
      cases ho : j.sched.owed with
      | nil => exact .inl (.inl (by simp [ho]))
      | cons o rest =>
        rw [ho] at hc hv
        dsimp only at hc hv ⊢
        cases hmade : (attemptIssue o j).made with
        | false =>
          rw [hmade] at hc hv
          rw [if_neg Bool.false_ne_true]
          obtain ⟨h1, h2⟩ := attemptIssue_waits_again o hmade
          exact .inl (.inr ⟨o, rest, h2.trans ho, h1⟩)
        | true =>
          rw [hmade, if_pos rfl] at hc hv
          rw [if_pos rfl]
          obtain ⟨a, ha⟩ : ∃ a, a = (attemptIssue o j).state := ⟨_, rfl⟩
          obtain ⟨k1, hk1⟩ := issued_attemptIssue o hjc
          have ham : a.sched.voids ≤ max32 := ha ▸ (hk1.voids (hjv ▸ hm)).2
          obtain ⟨k2, hk2⟩ := issued_makeIssues n a
          have hav : a.sched.voids ≤ (makeIssues n a).sched.voids := (hk2.voids ham).1
          have hfew := oneFewer_attemptIssue o hjc (by simp [ho]) (hjv ▸ hm) hmade
          rw [← ha] at hc hv hfew ⊢
          have hac : a.sched.runState.capturing = true := by
            by_contra hn
            rw [makeIssues_of_idle n (by simpa using hn)] at hc
            exact hn hc
          refine (ih ham hc hv).imp id fun hle => ?_
          have hlen := hfew.2 hac (hav.trans_lt hv)
          rw [hjo, hjv] at hlen
          omega
    · rename_i hn
      exact absurd hc hn

theorem issueOwed_allIssued {s : State} (hs : s.sched.voids + s.cache.entries.length < 4294967295)
    (hv : (issueOwed s).sched.voids ≤ s.sched.voids + s.cache.entries.length) (hc : (issueOwed s).sched.runState.capturing = true) :
    AllIssued (issueOwed s) := by
  have hm : s.sched.voids ≤ max32 := by
    unfold max32
    omega
  refine (makeIssues_allIssued (issueFuel s) hm hc ?_).resolve_right fun h => ?_
  · exact lt_of_le_of_lt hv hs
  · have h' : issueFuel s + s.sched.voids ≤ s.sched.owed.length + (issueOwed s).sched.voids := h
    unfold issueFuel at h'
    omega

theorem suspendedAsStarted_if (b : Bool) (s : State) :
    (if b then suspendedAsStarted s else s) =
      if b = true ∧ s.supply.state = .critical ∧ s.sched.runState.capturing = true ∧ ∀ x ∈ s.sched.owed, x.isStart = false then
        { s with
          sched :=
            { s.sched with
              runState := .suspended, resumeState := some (s.sched.startState.getD s.sched.runState), owed := [], heldCopy := none
              startRequest := none }
          seg := { s.seg with decided := none }
          stats := { s.stats with latched := none } }
      else s := by
  cases b with
  | true => simp only [suspendedAsStarted, if_true, true_and]
  | false => simp

/-- Settles O46: the order of each kind of issue, the issues made by their count, and a row's end by `finish`. -/
theorem ordinaryIssueAppendsAnOrder : Obligations.OrdinaryIssueAppendsAnOrder := by
  refine ⟨fun o rest c s ho hd hc => ?_, fun s hs => ?_, fun s => ?_⟩
  · intro bias a appends
    have hissue : a = issueUnder o c (s.modSeg fun g => { g with copyRead := some c }) := attemptIssue_of_copy o hd hc
    have main (k : IssueKind) (ha : a = { state := completeIssue k c (s.modSeg fun g => { g with copyRead := some c }), made := true })
        (hk : k.isStart = o.isStart) {first : Bool} {d : DueTime} {level : Nat × Limit} (hfirst : k.first = first)
        (hdue : issueDue k s c = d) (hlevel : newLevel c (k.levelKind s.expo.held) bias (baseLevel k c s.expo.el) = level) :
        appends first d level := by
      obtain ⟨hn, hst, hor⟩ := completeIssue_near k c (s.modSeg fun g => { g with copyRead := some c })
      have he := orderOf_blocks k c (s.modSeg fun g => { g with copyRead := some c })
      rw [appended_eq] at hn
      dsimp only at he
      rw [issueDue_copyRead] at he hn
      subst hfirst hdue hlevel
      have htail : (s.modSeg fun g => { g with copyRead := some c }).sched.owed.tail = rest := by
        rw [State.modSeg_sched, ho]
        rfl
      rw [suspendedAsStarted_if, hk, htail] at hn
      generalize orderOf k c (s.modSeg fun g => { g with copyRead := some c }) = e at *
      subst he
      exact ⟨_, rfl, rfl, rfl, rfl, rfl, rfl, rfl, rfl, rfl, rfl, rfl, rfl, rfl, rfl, rfl, rfl, rfl, by rw [ha],
        by rw [ha]; exact hst, by rw [ha]; exact hor, by rw [ha]; exact hn⟩
    refine ⟨fun frame metered hret hrun hx => ?_, fun hret => ?_, fun hret => ?_⟩
    · intro held
      have hk := hissue.trans ((issueUnder_running (s := s.modSeg fun g => { g with copyRead := some c }) c hrun hret).trans
        (ordinaryIssue_stays _ hx))
      refine main _ hk ?_ rfl rfl ?_
      · rcases hret with rfl | ⟨rfl, -⟩ <;> rfl
      · rw [levelKind_of_metered]
        rfl
    · have carried (k : IssueKind) (ha : a = { state := completeIssue k c (s.modSeg fun g => { g with copyRead := some c }), made := true })
          (hk : k.isStart = o.isStart) (h : k = .start false ∨ k = .faultHold ∨ k = .resumption) :
          appends false (ordinaryDue s c) (c.clampLevel s.expo.el, .noLimit) := by
        refine main k ha hk ?_ ?_ ?_ <;> rcases h with rfl | rfl | rfl <;> rfl
      by_cases hf : s.sched.runState = .faultHold ∧ o.isStart = false
      · exact carried .faultHold (hissue.trans (issueUnder_faultHold (s := s.modSeg _) hf.1 hf.2 c)) hf.2.symm (.inr (.inl rfl))
      · rcases hret with rfl | rfl | h
        · exact carried (.start false) hissue rfl (.inl rfl)
        · exact carried .resumption (hissue.trans (issueUnder_resumption (s := s.modSeg _) c fun h => hf ⟨h, rfl⟩)) rfl (.inr (.inr rfl))
        · exact absurd h hf
    · subst hret
      intro interval cand due
      refine main (.start true) hissue rfl rfl ?_ rfl
      cases hr : s.sched.startRequest <;> simp [issueDue, firstDue, due, cand, interval, effectiveInterval, raiseToSecond, hr]
  · intro t hv hc
    exact issueOwed_allIssued hs hv hc
  · intro made
    obtain ⟨h1, h2, h3⟩ := finish_run (s.modPins fun p => { p with trigger := false })
    obtain ⟨k1, k2⟩ := judgeRun_blocks made
    have hsched : (finish (s.modPins fun p => { p with trigger := false })).sched = (judgeRun made).sched := h1
    rw [← hsched] at k1 k2
    exact ⟨finish (s.modPins fun p => { p with trigger := false }), rfl, h2, h3, k1, k2⟩

end Sys2Proof.Machine
end

section
/-! PROOFS. The first order of a run (R3, R16). -/

namespace Sys2Proof.Machine

/-! ### The cache with an entry moved to the most recent end -/

theorem find?_filter_of_imp {α : Type} {p q : α → Bool} (h : ∀ x, p x = true → q x = true) (l : List α) :
    (l.filter q).find? p = l.find? p := by
  rw [List.find?_filter]
  refine congrArg (fun f => l.find? f) (funext fun x => ?_)
  cases hp : p x with
  | true => simp [h x hp]
  | false => simp

theorem entry?_touch (c : PlanCache) (slot n : Nat) : (c.touch slot).entry? n = c.entry? n := by
  unfold PlanCache.touch PlanCache.entry?
  rw [List.find?_append]
  by_cases h : n = slot
  · subst h
    have hnone : ((c.entries.filter fun e => decide (e.slot ≠ n)).find? fun e => e.slot == n) = none :=
      List.find?_eq_none.2 fun e he => by simpa using (List.mem_filter.1 he).2
    rw [hnone, find?_filter_of_imp (fun e he => by simpa using he), Option.none_or]
  · have hnone : ((c.entries.filter fun e => decide (e.slot = slot)).find? fun e => e.slot == n) = none :=
      List.find?_eq_none.2 fun e he => by
        have hs : e.slot = slot := by simpa using (List.mem_filter.1 he).2
        simpa [hs] using fun k => h k.symm
    rw [hnone, find?_filter_of_imp (fun e he => ?_), Option.or_none]
    have hs : e.slot = n := by simpa using he
    simpa [hs] using h

theorem faultAt_touch (c : PlanCache) (slot : Nat) (n : Option Nat) : (c.touch slot).faultAt n = c.faultAt n := by
  unfold PlanCache.faultAt
  simp only [entry?_touch]

theorem nextOf_touch (c : PlanCache) (slot : Nat) (n : Option Nat) : (c.touch slot).nextOf n = c.nextOf n := by
  unfold PlanCache.nextOf
  simp only [entry?_touch]

/-! ### What a row's end keeps of the engine's queue after the issues -/

theorem cacheSettle_queued {s : State} {r : Request} (h : r ∈ s.engine.queued) : r ∈ (cacheSettle s).engine.queued := by
  have fetches (n : Nat) {x : State} (hx : x.engine = s.engine) : r ∈ (requestFetch n x).engine.queued :=
    mem_concat_waiting (s := x.modCache _) _ (queued_of_engine (a := s) hx h)
  unfold cacheSettle walkCreate
  repeat' split
  · exact h
  · exact h
  · exact fetches _ rfl
  · exact h
  · exact fetches _ rfl

theorem judgeRun_queued {s : State} {r : Request} (h : r ∈ s.engine.queued) : r ∈ (judgeRun s).engine.queued := by
  unfold judgeRun setRunState
  repeat' split
  all_goals first | exact h | exact requestStatus_queued (s.modSched _) _ h

theorem finish_queued_of_issued {s : State} {r : Request} (hl : r.isLog = false) (h : r ∈ (issueOwed s).engine.queued) :
    r ∈ (finish s).engine.queued := by
  have h1 : r ∈ (freeBuffer (judgeRun (issueOwed s))).engine.queued :=
    queued_of_engine (a := judgeRun (issueOwed s)) (by simp) (judgeRun_queued h)
  have h2 := beginService_queued hl (judgeWakes_queued (cacheSettle_queued h1))
  exact queued_of_engine (a := settle s) (by simp [finish]) h2

/-! ### One issue owed and made -/

theorem issueOwed_of_one {s m : State} {o : Origin} (hr : s.sched.runState = .running) (hw : watchedFault s = false)
    (ho : s.sched.owed = [o]) (ha : attemptIssue o s = { state := m, made := true }) (hn : NoIssue m) : issueOwed s = m := by
  have hj : judgeRun s = s := by simp [judgeRun, hr, hw]
  have hc : s.sched.runState.capturing = true := by rw [hr]; rfl
  unfold issueOwed issueFuel
  rw [ho, Nat.add_succ, makeIssues, hj]
  simp only [hc, if_true, ho, ha]
  exact makeIssues_of_noIssue _ hn

/-- Settles O11: the state that START leaves owes one issue, which is made with the first due time and the current level carried. -/
theorem startIssuesTheFirstOrder : Obligations.StartIssuesTheFirstOrder := by
  intro seq slot u x c s hb hr hstop hq hl hu hunset harg hdepth hcrit hx hv hrec hfault hskips
  obtain ⟨r, hrdef⟩ : ∃ r, r = decideCommand seq .ok (requestStatus (begun slot u .running s)) := ⟨_, rfl⟩
  have htr : TrafficAlone (decided seq .ok (begun slot u .running s)) r :=
    hrdef ▸ (traffic_decided (traffic_requestStatus _) seq .ok).trans (traffic_decide seq .ok _)
  have hblocks := decided_blocks seq .ok (begun slot u .running s)
  have hsched : r.sched = (begun slot u .running s).sched := by rw [htr.1, hblocks]
  have hseg : r.seg = (begun slot u .running s).seg := by rw [htr.1, hblocks]
  have hexpo : r.expo = s.expo := by rw [htr.1, hblocks]; rfl
  have hcache : r.cache = s.cache.touch slot := by rw [htr.1, hblocks]; rfl
  have htb : r.tb = s.tb := by rw [htr.1, hblocks]; rfl
  have hsup : r.supply = s.supply := by rw [htr.1, hblocks]; rfl
  have hcmd : r.cmd = { s.cmd with lastDecided := some (seq, .ok) } := by rw [htr.1, hblocks]; rfl
  have hentry : (s.cache.touch slot).entry? slot = some x := (entry?_touch _ _ _).trans hx
  have watched (y : State) (hy : y.cache = s.cache.touch slot) (hc : y.seg.current = some slot) : watchedFault y = false := by
    have hnext : (s.cache.touch slot).nextOf (some slot) = c.next := by simp [PlanCache.nextOf, hentry, hrec]
    have hown : (s.cache.touch slot).faultAt (some slot) = false := by simp [PlanCache.faultAt, hentry, hv]
    rw [watchedFault, hy, hc, hnext, hown, faultAt_touch, hfault]
    rfl
  have hrow : rowEffect (.start seq) s = r := by
    have hw : watchedFault (begun slot u .running s) = false := watched _ rfl rfl
    calc rowEffect (.start seq) s = outsideReset (unlessBusy seq (startCommand seq)) s := rfl
      _ = startCommand seq s := by rw [outsideReset_of_running hr, unlessBusy_of_free hb]
      _ = r := by
        rw [startCommand_of_loaded seq hstop hl hu, hunset, if_neg Bool.false_ne_true, if_neg (Nat.not_lt.2 harg), startRun_eq, hw,
          if_neg Bool.false_ne_true, hrdef]
  obtain ⟨m, hm⟩ : ∃ m, m = completeIssue (.start true) c (r.modSeg fun g => { g with copyRead := some c }) := ⟨_, rfl⟩
  have hread : readableCopy r.cache r.seg.current = some c := by
    rw [hseg, hcache]
    exact (readableCopy_of_entry hentry).trans (by simp [hv, hrec])
  have ha : attemptIssue (.start true) r = { state := m, made := true } :=
    (attemptIssue_of_copy _ (.inl (by rw [hsched]; rfl)) hread).trans (by rw [hm]; rfl)
  obtain ⟨hn, hst, hor⟩ := completeIssue_near (.start true) c (r.modSeg fun g => { g with copyRead := some c })
  have hkeep : suspendedAsStarted (appended (.start true) c (r.modSeg fun g => { g with copyRead := some c })) =
      appended (.start true) c (r.modSeg fun g => { g with copyRead := some c }) := by
    refine if_neg fun h => hcrit ?_
    rw [← hsup]
    exact h.1
  rw [show IssueKind.isStart (.start true) = true from rfl, if_pos rfl, hkeep] at hn
  have he := orderOf_blocks (.start true) c (r.modSeg fun g => { g with copyRead := some c })
  rw [appended_eq] at hn
  dsimp only at he
  rw [issueDue_copyRead] at he hn
  rw [← hm] at hn hst hor
  generalize orderOf (.start true) c (r.modSeg fun g => { g with copyRead := some c }) = o at *
  obtain ⟨-, ⟨hms, hmg, hmx⟩, hmc, -, -⟩ := hn
  rw [State.modSeg_sched, hsched] at hms
  rw [State.modSeg_seg, hseg] at hmg
  have howed : m.sched.owed = [] := by
    rw [hms]
    simp [begun, hdepth, startIssues]
  have hmw : watchedFault m = false := watched m (hmc.trans hcache) (by rw [hmg]; rfl)
  have hmrun : m.sched.runState = .running := by rw [hms]; rfl
  have hni : NoIssue m := ⟨.inl howed, fun _ => hmw, fun h => by simp [hmrun] at h⟩
  have hissued : issueOwed r = m :=
    issueOwed_of_one (by rw [hsched]; rfl) (watched r hcache (by rw [hseg]; rfl)) (by rw [hsched]; simp [begun, hdepth, startIssues]) ha hni
  obtain ⟨hts, htg, htx⟩ := finish_run r
  rw [hissued] at hts htg htx
  rw [judgeRun_of_noIssue hni] at hts
  obtain ⟨cand, hcand⟩ : ∃ cand, cand = (requestedDue s).getD (addTicks s.tb.time (effectiveInterval s c)) := ⟨_, rfl⟩
  have hfirst : issueDue (.start true) r c =
      { due := (deferDaily u.dailyFrom u.dailyTo (raiseToSecond cand s.tb.time)).1, skips := 0
        stretched := (requestedDue s).isNone && decide (s.supply.state = .low)
        deferred := (deferDaily u.dailyFrom u.dailyTo (raiseToSecond cand s.tb.time)).2 } := by
    rw [hcand]
    simp only [issueDue, firstDue, effectiveInterval, hsched, htb, hsup]
    rfl
  rw [hfirst] at he hms
  simp only [State.modSeg_sched, State.modSeg_seg, State.modSeg_expo, hsched, hseg, hexpo] at he
  rw [State.modSeg_expo, hexpo] at hmx
  have hzero : requestedDue s = none ↔ s.path.arg1 = 0 ∧ s.path.arg2 = 0 := by
    rw [← argTime_eq_zero_iff harg, requestedDue]
    simp
  have hnow : (finish r).sched = _ := hts.trans hms
  have hseg' : (finish r).seg = _ := htg.trans hmg
  refine ⟨finish r, o, cand, (exec_eq _ s).trans (congrArg (fun x => Host.Outcome.next (finish x)) hrow), by rw [hnow]; rfl,
    by rw [hnow]; simp [begun, hq], by rw [hts, howed], by rw [hnow]; rfl, by rw [hnow], ?_, htx.trans hmx, by rw [hseg']; rfl,
    by rw [hseg']; rfl, by rw [hseg']; rfl, ?_, by rw [← hcmd]; simp, finish_stands (hrdef ▸ decideCommand_stands _ _ _),
    finish_queued_of_issued rfl ?_, fun h1 h2 => ?_, fun hn => ?_, by rw [he]; rfl, by rw [he]; rfl, by rw [he]; rfl, by rw [he]; rfl,
    by rw [he]; rfl, by rw [he], by rw [he], by rw [he]; rfl, by rw [he]; rfl, by rw [he]; simp, by rw [he], by rw [he], by rw [he],
    by rw [he], by rw [he]; rfl⟩
  · rw [hnow]
    exact Nat.min_eq_right hskips
  · rw [hseg']
    simp [begun, Segment.biasAt]
  · rw [hissued]
    exact hor
  · have hz := hzero.2 ⟨h1, h2⟩
    exact ⟨by rw [hcand, hz]; rfl, by rw [he, hz]; rfl⟩
  · have hsome : requestedDue s = some (argTime s) := by
      have h0 : ¬argTime s = 0 := fun h => hn ((argTime_eq_zero_iff harg).1 h)
      exact if_neg h0
    have hc : cand = argTime s := by rw [hcand, hsome]; rfl
    exact ⟨by rw [hc]; exact argTime_seconds s, by rw [hc]; exact argTime_tick harg, by rw [he, hsome]; rfl⟩

end Sys2Proof.Machine
end

section
/-! PROOFS. The two resets (O51, O53): what the end of an engine access leaves in memory, and what follows a reset. -/

namespace Sys2Proof.Machine

/-! ### An engine access that a reset ends (R159, R160) -/

/-- The memory a reset leaves: as it was but for the first words of an engine write in progress. -/
def RamAfterReset (s : State) (m : List (Nat × RamByte)) : Prop :=
  ((∀ a, s.port.access ≠ .engine a) → m = s.ram) ∧
    ∀ a, s.port.access = .engine a →
      (a.write = false → m = s.ram) ∧
        (a.write = true →
          ∃ n ≤ a.length,
            m = writeWords s.ram (a.addrs.take n) a.words ∧
              ∀ x, (∀ y ∈ a.addrs.take n, x < y ∨ y + 4 ≤ x) → readRam m x = readRam s.ram x)

theorem endEngineAccess_of_other {s : State} (h : ∀ a, s.port.access ≠ .engine a) : endEngineAccess s = s := by
  unfold endEngineAccess
  cases ha : s.port.access with
  | noAccess => rfl
  | pass tx => rfl
  | engine a => exact absurd ha (h a)

theorem endEngineAccess_of_engine {s : State} {a : EngineAccess} (h : s.port.access = .engine a) :
    endEngineAccess s =
      { s with
        port := { s.port with access := .noAccess }
        ram := if a.write then writeWords s.ram (a.addrs.take (transferredWords s a)) a.words else s.ram
        freeCount := s.freeCount + 1 } := by
  unfold endEngineAccess
  rw [h]
  cases hw : a.write <;> simp [hw, State.modRam, State.modPort, State.modFreeCount]

theorem ramAfterReset (s : State) : RamAfterReset s (endEngineAccess s).ram := by
  constructor
  · intro h
    rw [endEngineAccess_of_other h]
  · intro a ha
    rw [endEngineAccess_of_engine ha]
    constructor
    · intro hr
      simp [hr]
    · intro hw
      refine ⟨transferredWords s a, Nat.min_le_right .., by simp [hw], fun x hx => ?_⟩
      simp only [hw, if_true]
      exact readRam_writeWords_other s.ram _ a.words hx

/-- The parts that the end of an engine access leaves alone, those of `endEngineAccess_frame` apart. -/
theorem endEngineAccess_rest (s : State) :
    (endEngineAccess s).port = { s.port with access := s.port.access.passOnly } ∧ (endEngineAccess s).supply = s.supply ∧
      (endEngineAccess s).pending = s.pending := by
  cases ha : s.port.access with
  | noAccess => simp [endEngineAccess_of_other (s := s) (by simp [ha]), PortAccess.passOnly, ← ha]
  | pass tx => simp [endEngineAccess_of_other (s := s) (by simp [ha]), PortAccess.passOnly, ← ha]
  | engine a => simp [endEngineAccess_of_engine ha, PortAccess.passOnly]

theorem waitingAfterReset_eq (s : State) : waitingAfterReset s = s.port.waitPass.or s.path.held := by
  unfold waitingAfterReset
  cases s.port.waitPass <;> rfl

theorem PortAccess.passOnly_of_other {x : PortAccess} (h : ∀ tx, x ≠ .pass tx) : x.passOnly = .noAccess := by
  cases x with
  | pass tx => exact absurd rfl (h tx)
  | engine a => rfl
  | noAccess => rfl

/-! ### What follows a reset -/

theorem chooseRequest_nil : chooseRequest [] = none := rfl

theorem beginOnce_of_serving {s : State} (h : s.engine.service.isSome = true) : beginOnce s = s := by simp [beginOnce, h]

theorem beginService_of_empty {s : State} (h : s.engine.waiting = []) : beginService s = s := by
  have hone : beginOnce s = s := by
    unfold beginOnce
    split
    · rfl
    · rw [h, chooseRequest_nil]
  rw [beginService, hone, hone]

/-- A lone STATUS_WRITE is served at once (R163). -/
theorem beginService_of_status {s : State} (h : s.engine.waiting = [.status]) (hn : s.engine.service = none) :
    beginService s = serveStatus (s.modEngine fun e => { e with waiting := [] }) := by
  have hone : beginOnce s = serveStatus (s.modEngine fun e => { e with waiting := [] }) := by
    have hc : chooseRequest [Request.status] = some .status := rfl
    simp [beginOnce, hn, h, hc, beginRequest, State.modEngine]
  rw [beginService, hone]
  exact beginOnce_of_serving (by simp [serveStatus, serve, askForAccess])

/-- With no run, an empty cache and an awake session nothing follows but the engine's service and the port's part. -/
theorem finish_of_reset {s : State} (hsched : s.sched = .reset) (hcache : s.cache = .reset) (hstats : s.stats = .reset)
    (hseg : s.seg = .reset) (hawake : s.session.asleep = false) : finish s = portSettle (beginService s) := by
  have hlatched : { s.stats with latched := none } = s.stats := by rw [hstats]; rfl
  have howed : s.sched.owed.isEmpty = true := by rw [hsched]; rfl
  have hfree : freeBuffer s = s := by simp [freeBuffer, howed, State.modStats, hlatched]
  have hfetch : NoFetch s := .inr ⟨by rw [hcache]; rfl, by
    simp [wantedFetch, wantsFetch, hcache, hseg, SegmentControl.reset, PlanCache.reset, PlanCache.nextOf]⟩
  rw [finish_of_idle (by rw [hsched]; rfl), hfree, cacheSettle_of_noFetch hfetch, judgeWakes_of_awake hawake]

theorem mayEnter_of_open {s : State} (h : s.session.state = .open) : mayEnter s = false := by
  simp [mayEnter, Session.mayRetain, h]

/-- An EXITING port waits for the RAM's report. -/
theorem portSettle_of_exiting {s : State} (h : s.port.retention = .exiting) : portSettle s = s := by
  have hx : beginExit s = s := by simp [beginExit, h]
  have he : beginEntry s = s := by simp [beginEntry, mayEnter, h]
  rw [portSettle, hx, grant_of_inactive (by simp [h]), he]

theorem portSettle_of_entering {s : State} (h : s.port.retention = .entering) : portSettle s = s := by
  have hx : beginExit s = s := by simp [beginExit, h]
  have he : beginEntry s = s := by simp [beginEntry, mayEnter, h]
  rw [portSettle, hx, grant_of_inactive (by simp [h]), he]

/-- In OPEN an ACTIVE port grants, and no retention entry follows (R151, R156). -/
theorem portSettle_of_active_open {s : State} (h : s.port.retention = .active) (ho : s.session.state = .open) :
    portSettle s = grant s := by
  have hx : beginExit s = s := by simp [beginExit, h]
  have he : beginEntry (grant s) = grant s := by simp [beginEntry, mayEnter_of_open (s := grant s) (by simp [ho])]
  rw [portSettle, hx, he]

theorem portSettle_waitWake (s : State) : (portSettle s).port.waitWake = s.port.waitWake := by
  have hx : (beginExit s).port.waitWake = s.port.waitWake := by unfold beginExit; split <;> simp
  have he : ∀ t : State, (beginEntry t).port.waitWake = t.port.waitWake := fun t => by unfold beginEntry; split <;> simp
  rw [portSettle, he, grant_waitWake, hx]

/-! ### The soft reset (R125, R160, R175) -/

/-- RESET_PART before what follows it: every block as the soft reset leaves it, and the first STATUS_WRITE waiting. -/
theorem resetPart_eq (seq : BitVec 8) (s : State) :
    resetPart seq s =
      { softReset s with
        session := (resetPart seq s).session
        cmd := { lastDecided := some (seq, .ok), busy := none, resetCause := .soft }
        engine := { Engine.reset with waiting := [.status] } } := by
  simp only [resetPart, decideCommand, Result.accepts, if_true]
  rw [restartTimer_blocks]
  simp [softReset, requestStatus, Engine.reset, State.modEngine, State.modCmd]

/-- The first status record of a reset writes all four groups (R165, R170). -/
theorem statusAccesses_of_reset {e : Engine} (h : e.copies = [none, none, none, none]) (r : RecordRange) (ws : List Word) :
    (statusAccesses e r ws).map EngineAccess.group = [some 0, some 1, some 2, some 3, none] := by
  simp [statusAccesses, Engine.groupNeeded, h, statusGroupAccess]

theorem portSettle_of_soft {s : State} (ho : s.session.state = .open) (hr : s.port.retention ≠ .retained) :
    (portSettle s).port.retention = s.port.retention ∧
      (s.port.retention = .entering → portSettle s = s) := by
  refine ⟨?_, fun h => portSettle_of_entering h⟩
  cases hx : s.port.retention with
  | active => rw [portSettle_of_active_open hx ho, grant_retention, hx]
  | entering => rw [portSettle_of_entering hx, hx]
  | retained => exact absurd hx hr
  | exiting => rw [portSettle_of_exiting hx, hx]

/-- What a STATUS_WRITE's service changes: the update count, the service itself, and the request at the port. -/
theorem serveStatus_blocks (s : State) :
    ∃ sv w, sv.request = .status ∧
      sv.todo =
        statusAccesses { s.engine with updateCount := s.engine.updateCount + 1 } s.path.statusRange
          (statusWords (s.modEngine fun e => { e with updateCount := e.updateCount + 1 }) (s.engine.updateCount + 1)) ∧
      serveStatus s =
        { s with
          engine := { s.engine with updateCount := s.engine.updateCount + 1, service := some sv }
          port := { s.port with waitEngine := w } } :=
  ⟨_, _, rfl, rfl, rfl⟩

/-- What follows a soft reset, the port's part apart: the STATUS_WRITE in service. -/
theorem finish_resetPart (seq : BitVec 8) (s : State) :
    ∃ sv w, sv.request = .status ∧ sv.todo.map EngineAccess.group = [some 0, some 1, some 2, some 3, none] ∧
      finish (resetPart seq s) =
        portSettle
          { softReset s with
            session := (resetPart seq s).session
            cmd := { lastDecided := some (seq, .ok), busy := none, resetCause := .soft }
            engine := { Engine.reset with updateCount := 1, service := some sv }
            port := { (softReset s).port with waitEngine := w } } := by
  have hawake : (resetPart seq s).session.asleep = false := by rw [resetPart_session]; rfl
  have he := resetPart_eq seq s
  have hengine : (resetPart seq s).engine = { Engine.reset with waiting := [.status] } := by rw [he]
  obtain ⟨sv, w, hsv, htodo, hserve⟩ := serveStatus_blocks ((resetPart seq s).modEngine fun e => { e with waiting := [] })
  refine ⟨sv, w, hsv, by rw [htodo]; exact statusAccesses_of_reset (by simp [hengine, Engine.reset]) _ _, ?_⟩
  rw [finish_of_reset (by rw [he]; rfl) (by rw [he]; rfl) (by rw [he]; rfl) (by rw [he]; rfl) hawake,
    beginService_of_status (by rw [hengine]) (by rw [hengine]; rfl), hserve]
  rw [he]
  rfl

/-- Settles O53: every block is set outright, the one request left is served at once, and the port finds an open session. -/
theorem softResetReturnsTheBlocks : Obligations.SoftResetReturnsTheBlocks := by
  intro seq straps s hr
  obtain ⟨z, hz⟩ : ∃ z, z = s.modPins fun p => { p with straps := straps } := ⟨_, rfl⟩
  have hzpins : z.pins = { s.pins with straps := straps } := by rw [hz]; rfl
  have hzpath : z.path = s.path := by rw [hz]; rfl
  obtain ⟨hztb, hzsupply, hzport, hzram, hzpending⟩ :
      z.tb = s.tb ∧ z.supply = s.supply ∧ z.port = s.port ∧ z.ram = s.ram ∧ z.pending = s.pending := by simp [hz]
  obtain ⟨hpins, htb, -⟩ := endEngineAccess_frame z
  obtain ⟨hport, hsupply, hpending⟩ := endEngineAccess_rest z
  obtain ⟨sv, w, hsv, htodo, hfinish⟩ := finish_resetPart seq z
  have hopen : (resetPart seq z).session.state = .open := by rw [resetPart_session]; rfl
  have hram := ramAfterReset z
  have hx : exec (.resetPart seq straps) s = .next (finish (resetPart seq z)) := hz ▸ exec_resetPart hr seq straps
  rw [hfinish] at hx
  obtain ⟨y, hy⟩ : ∃ y, y =
      { softReset z with
            session := (resetPart seq z).session
            cmd := { lastDecided := some (seq, .ok), busy := none, resetCause := .soft }
            engine := { Engine.reset with updateCount := 1, service := some sv }
            port := { (softReset z).port with waitEngine := w } } := ⟨_, rfl⟩
  rw [← hy] at hx
  have hret : y.port.retention = s.port.retention.afterSoftReset := by
    simp [hy, softReset, Port.softReset, hport, hzport]
  obtain ⟨hkept, hentering⟩ := portSettle_of_soft (s := y) (by rw [hy]; exact hopen)
    (by rw [hret]; cases s.port.retention <;> simp [Retention.afterSoftReset])
  rw [hret] at hkept hentering
  have htable : (portSettle y).path.table = y.path.table := by simp
  refine ⟨portSettle y, hx, ?_, ?_, ?_, ?_, ?_, ?_, ?_, ?_, ?_, ?_, ?_, ?_, ?_, ?_, ?_, ⟨sv, ?_, hsv, htodo⟩, ?_, fun h => ?_,
    fun h => ⟨?_, ?_⟩, fun h => ?_, ?_, ?_, ?_⟩
  · simp [hy, softReset, Scheduler.reset]
  · simp [hy, softReset, SegmentControl.reset]
  · simp [hy, softReset, Exposure.reset]
  · simp [hy, softReset, Intake.reset]
  · simp [hy, softReset, PlanCache.reset]
  · rw [htable]; simp [hy, softReset, Path.table, Path.reset, hpins, hzpins, hzpath]
  · simp [hy, softReset, htb, hztb]
  · simp [hy, softReset, hsupply, hzsupply]
  · simp [hy, softReset, Pins.softReset]
  · simp [hy, softReset, Configuration.default]
  · simp [hy]
  · simp [hy, Engine.reset]
  · simp [hy, Engine.reset]
  · simp [hy, Engine.reset]
  · simp [hy]
  · simp [hy]
  · rw [portSettle_waitWake, hy]; rfl
  · rw [hkept, h]; rfl
  · rw [hkept, h]; rfl
  · rw [hentering (by rw [h]; rfl), hy]
    simp [softReset, Port.softReset, hport, hzport, h]
  · rw [hkept]; rcases h with h | h <;> rw [h] <;> rfl
  · simpa [hy, softReset, RamAfterReset, hzport, hzram] using hram.1
  · simpa [hy, softReset, RamAfterReset, hzport, hzram] using hram.2
  · simp [hy, softReset, hpending, hzpending]

end Sys2Proof.Machine
end

section
/-! PROOFS. The power-on reset (O51): the state it leaves, its sample, and what follows. -/

namespace Sys2Proof.Machine

/-- The power-on sample that changes the supply state: the supply, its event counted and pending, and a STATUS_WRITE. -/
def powerOnJudged (pins : PowerPins) (st : SupplyState) (k : EventClass) (s : State) : State :=
  { powerOn pins s with
    supply :=
      { state := st, lastSample := min pins.battery 8191,
        recheck := if st = .critical then some (BitVec.ofNat 48 (600 * 1024)) else none }
    session := { Session.reset with counts := PerClass.zero.set k 1, pendingSet := k.mark }
    engine := { Engine.reset with waiting := [.status] } }

theorem sampled_powerOn (pins : PowerPins) (s : State) :
    sampleSupply pins.battery (powerOn pins s) =
      if (judgeSample .default .normal (min pins.battery 8191)).1 = .normal then powerOn pins s
      else changeSupply (judgeSample .default .normal (min pins.battery 8191)).1
        (judgeSample .default .normal (min pins.battery 8191)).2 (powerOn pins s) := rfl

theorem requestStatus_of_reset {s : State} (h : s.engine = .reset) :
    requestStatus s = s.modEngine fun e => { e with waiting := [.status] } := by
  simp [requestStatus, h, Engine.reset, State.modEngine]

theorem keepMark_of_free (k : EventClass) {s : State} (h : s.engine.service = none) : keepMark k s = s := by
  have he : { s.engine with service := none } = s.engine := by rw [← h]
  simp [keepMark, State.modEngine, h, he]

theorem requestStatus_of_waiting {s : State} (hn : s.engine.service = none)
    (hw : s.engine.waiting.any Request.isStatus = true) : requestStatus s = s := by
  simp only [requestStatus, State.modEngine, hn, hw, if_true]

/-- The default wake threshold lies above every level (R109), so that no event alerts. -/
theorem default_alerts (k : EventClass) : Settings.default.alerts k = false := by cases k <;> rfl

theorem counted_of_reset (k : EventClass) :
    { Session.reset with
        counts := Session.reset.counts.set k (saturatingAdd max16 (Session.reset.counts.get k) 1)
        pendingSet := Session.reset.pendingSet ||| k.mark } =
      { Session.reset with counts := PerClass.zero.set k 1, pendingSet := k.mark } := by
  cases k <;> rfl

/-- Before the power-on sample the run is UNCONFIGURED and no event alerts, so that a change of supply state is the change itself, its
event and a STATUS_WRITE. -/
theorem changeSupply_powerOn (pins : PowerPins) (st : SupplyState) (k : EventClass) (s : State) :
    changeSupply st (some k) (powerOn pins s) = powerOnJudged pins st k s := by
  obtain ⟨x, hx⟩ : ∃ x, x = powerOn pins s := ⟨_, rfl⟩
  have hsupply : x.supply = { state := .normal, lastSample := min pins.battery 8191, recheck := none } := by rw [hx]; rfl
  have hsession : x.session = .reset := by rw [hx]; rfl
  have hengine : x.engine = .reset := by rw [hx]; rfl
  have hsched : x.sched = .reset := by rw [hx]; rfl
  have hconfig : x.config.settings = .default := by rw [hx]; rfl
  have htb : x.tb.elapsed = 0 := by rw [hx]; rfl
  have hraise : ∀ t : State, t.engine = { Engine.reset with waiting := [.status] } → t.config.settings = .default →
      raiseEvent k t = countEvent k t := by
    intro t he hc
    have hmark : keepMark k (countEvent k t) = countEvent k t := keepMark_of_free k (by simp [he, Engine.reset])
    have hstatus : requestStatus (countEvent k t) = countEvent k t :=
      requestStatus_of_waiting (by simp [he, Engine.reset]) (by simp [he, Request.isStatus])
    have halert : (countEvent k t).config.settings.alerts k = false := by
      rw [show (countEvent k t).config.settings = .default from hc, default_alerts]
    simp only [raiseEvent, hmark, hstatus, halert, Bool.false_eq_true, if_false]
  have hrun : ∀ t : State, t.sched = .reset → suspendRun t = t := fun t ht => by
    simp [suspendRun, suspendCapturing, ht, Scheduler.reset, RunState.capturing]
  unfold powerOnJudged
  rw [← hx]
  simp only [changeSupply, raiseOptional, hsupply]
  rw [requestStatus_of_reset (by simpa using hengine), hraise _ (by simp [hengine]) (by simpa using hconfig)]
  rw [hrun _ (by simpa using hsched)]
  simp only [countEvent, State.modSession, State.modEngine, State.modSupply, hsession, hengine, counted_of_reset, htb, hconfig]
  have hsample : x.supply.lastSample = min pins.battery 8191 := by rw [hsupply]
  have hexpiry : expiryAfter 0 Settings.default.recheckPeriod = BitVec.ofNat 48 (600 * 1024) := by decide
  simp only [hsample, hexpiry]
  by_cases hc : st = .critical
  · simp only [hc, if_true]
  · simp only [hc, if_false, reduceCtorEq]

theorem powerOnSample_normal (pins : PowerPins) (s : State) (h : pins.ended = false ∨ 3400 ≤ pins.battery) :
    powerOnSample pins (powerOn pins s) = powerOn pins s := by
  unfold powerOnSample
  split
  · rename_i he
    have hb : 3400 ≤ pins.battery := h.resolve_left (by simp [he])
    have hj : judgeSample .default .normal (min pins.battery 8191) = (.normal, none) := by
      obtain ⟨-, -, hnormal, -⟩ := judgeSample_rows .default (min pins.battery 8191) (by decide)
      exact hnormal (show 3400 ≤ min pins.battery 8191 by omega)
    rw [sampled_powerOn, hj]
    rfl
  · rfl

theorem powerOnSample_critical (pins : PowerPins) (s : State) (he : pins.ended = true) (h : pins.battery < 3100) :
    powerOnSample pins (powerOn pins s) = powerOnJudged pins .critical .battCrit s := by
  have hj : judgeSample .default .normal (min pins.battery 8191) = (.critical, some .battCrit) := by
    obtain ⟨hcrit, -⟩ := judgeSample_rows .default (min pins.battery 8191) (by decide)
    exact (hcrit (show min pins.battery 8191 < 3100 by omega)).1
  rw [powerOnSample, he, if_pos rfl, sampled_powerOn, hj]
  exact changeSupply_powerOn pins .critical .battCrit s

theorem powerOnSample_low (pins : PowerPins) (s : State) (he : pins.ended = true) (h : 3100 ≤ pins.battery)
    (hb : pins.battery < 3400) : powerOnSample pins (powerOn pins s) = powerOnJudged pins .low .battLow s := by
  have hj : judgeSample .default .normal (min pins.battery 8191) = (.low, some .battLow) := by
    obtain ⟨-, hlow, -⟩ := judgeSample_rows .default (min pins.battery 8191) (by decide)
    exact hlow (show 3100 ≤ min pins.battery 8191 by omega) (show min pins.battery 8191 < 3400 by omega)
  rw [powerOnSample, he, if_pos rfl, sampled_powerOn, hj]
  exact changeSupply_powerOn pins .low .battLow s

/-! ### What follows the power-on reset -/

/-- What follows a power-on reset, the port's part apart: the state it leaves, or that of its sample with the STATUS_WRITE of the event
in service. -/
theorem finish_powerOn (pins : PowerPins) (s : State) :
    ((pins.ended = false ∨ 3400 ≤ pins.battery) ∧
        finish (powerOnSample pins (powerOn pins s)) = portSettle (powerOn pins s)) ∨
      ∃ st k sv w, pins.ended = true ∧ pins.battery < 3400 ∧ sv.request = .status ∧
        (pins.battery < 3100 → st = .critical ∧ k = .battCrit) ∧ (3100 ≤ pins.battery → st = .low ∧ k = .battLow) ∧
        finish (powerOnSample pins (powerOn pins s)) =
          portSettle
            { powerOnJudged pins st k s with
              engine := { Engine.reset with updateCount := 1, service := some sv }
              port := { (powerOn pins s).port with waitEngine := w } } := by
  by_cases h : pins.ended = false ∨ 3400 ≤ pins.battery
  · refine .inl ⟨h, ?_⟩
    rw [powerOnSample_normal pins s h, finish_of_reset rfl rfl rfl rfl rfl, beginService_of_empty rfl]
  · have he : pins.ended = true := by simpa using fun k => h (.inl k)
    have hb : pins.battery < 3400 := Nat.lt_of_not_le fun k => h (.inr k)
    have hserved : ∀ st k, ∃ sv w, sv.request = .status ∧
        finish (powerOnJudged pins st k s) =
          portSettle
            { powerOnJudged pins st k s with
              engine := { Engine.reset with updateCount := 1, service := some sv }
              port := { (powerOn pins s).port with waitEngine := w } } := by
      intro st k
      obtain ⟨sv, w, hsv, -, hserve⟩ := serveStatus_blocks ((powerOnJudged pins st k s).modEngine fun e => { e with waiting := [] })
      refine ⟨sv, w, hsv, ?_⟩
      rw [finish_of_reset rfl rfl rfl rfl rfl, beginService_of_status rfl rfl, hserve]
      rfl
    refine .inr ?_
    by_cases hc : pins.battery < 3100
    · obtain ⟨sv, w, hsv, hf⟩ := hserved .critical .battCrit
      exact ⟨.critical, .battCrit, sv, w, he, hb, hsv, fun _ => ⟨rfl, rfl⟩, fun k => absurd hc (Nat.not_lt.mpr k),
        by rw [powerOnSample_critical pins s he hc, hf]⟩
    · obtain ⟨sv, w, hsv, hf⟩ := hserved .low .battLow
      exact ⟨.low, .battLow, sv, w, he, hb, hsv, fun k => absurd k hc, fun _ => ⟨rfl, rfl⟩,
        by rw [powerOnSample_low pins s he (Nat.le_of_not_lt hc) hb, hf]⟩

theorem PortAccess.passOnly_passOnly (x : PortAccess) : x.passOnly.passOnly = x.passOnly := by cases x <;> rfl

/-- A port with an access in progress grants and enters nothing. -/
theorem portSettle_of_busy {s : State} (h : s.port.access ≠ .noAccess) : portSettle s = beginExit s := by
  have ha : (beginExit s).port.access ≠ .noAccess := by
    unfold beginExit; split <;> simpa using h
  have hg : grant (beginExit s) = beginExit s := by simp [grant, ha]
  rw [portSettle, hg, beginEntry, mayEnter]
  simp [ha]

theorem beginExit_access (s : State) : (beginExit s).port.access = s.port.access := by unfold beginExit; split <;> simp

/-- An ACTIVE, free port grants the waiting transaction while the starvation count is below 4 (R156, R157). -/
theorem grant_transaction {s : State} {tx : Transaction} (hr : s.port.retention = .active) (ha : s.port.access = .noAccess)
    (hw : s.port.waitPass = some tx) (hs : s.port.starvation < 4) : (grant s).port.access = .pass tx := by
  unfold grant
  rw [if_pos ⟨hr, ha⟩, hw]
  cases s.port.waitEngine with
  | none => simp [grantPass]
  | some a => simp [grantPass, hs]

theorem finish_powerOn_blocks (pins : PowerPins) (s : State) :
    ∃ sup ses eng w,
      finish (powerOnSample pins (powerOn pins s)) =
          portSettle
            { powerOn pins s with
              supply := sup, session := ses, engine := eng, port := { (powerOn pins s).port with waitEngine := w } } ∧
        sup.lastSample = min pins.battery 8191 ∧ ses.course = Session.reset.course ∧ eng.kept = Engine.reset.kept ∧
        eng.lost = 0 ∧
        (pins.ended = false ∨ 3400 ≤ pins.battery →
          sup.state = .normal ∧ sup.recheck = none ∧ ses = .reset ∧ eng = .reset) ∧
        (pins.ended = true → pins.battery < 3100 →
          sup.state = .critical ∧ sup.recheck = some (BitVec.ofNat 48 (600 * 1024)) ∧ ses.counts.battCrit = 1 ∧
            eng.service.any (fun sv => sv.request.isStatus) = true) ∧
        (pins.ended = true → 3100 ≤ pins.battery → pins.battery < 3400 →
          sup.state = .low ∧ sup.recheck = none ∧ ses.counts.battLow = 1 ∧
            eng.service.any (fun sv => sv.request.isStatus) = true) := by
  rcases finish_powerOn pins s with ⟨h, hf⟩ | ⟨st, k, sv, w, he, hb, hsv, hcrit, hlow, hf⟩
  · refine ⟨_, _, _, _, hf, rfl, rfl, rfl, rfl, fun _ => ⟨rfl, rfl, rfl, rfl⟩, fun he hc => ?_, fun he _ hc => ?_⟩ <;>
      · rcases h with h | h
        · rw [he] at h; cases h
        · omega
  · refine ⟨_, _, _, _, hf, rfl, rfl, rfl, rfl, fun h => ?_, fun _ hc => ?_, fun _ hc _ => ?_⟩
    · rcases h with h | h
      · rw [he] at h; cases h
      · omega
    · obtain ⟨rfl, rfl⟩ := hcrit hc
      simp [powerOnJudged, PerClass.set, hsv, Request.isStatus]
    · obtain ⟨rfl, rfl⟩ := hlow hc
      simp [powerOnJudged, PerClass.set, hsv, Request.isStatus]

/-- Settles O51: the reset sets every block, its sample can change the supply, the counts and the engine alone, and the port is EXITING
but for a row given in the reset itself. -/
theorem powerOnResetState : Obligations.PowerOnResetState := by
  refine ⟨⟨?_, rfl, rfl, rfl, rfl⟩, fun pins s => ?_⟩
  · rfl
  obtain ⟨sup, ses, eng, w, hf, hsample, hcourse, hkept, hlost, hnormal, hcrit, hlow⟩ := finish_powerOn_blocks pins s
  obtain ⟨hport, -, -⟩ := endEngineAccess_rest s
  have hram := ramAfterReset s
  have hx : exec (.powerOnReset pins) s = .next (finish (powerOnSample pins (powerOn pins s))) := rfl
  rw [hf] at hx
  obtain ⟨y, hy⟩ : ∃ y, y = { powerOn pins s with
      supply := sup, session := ses, engine := eng, port := { (powerOn pins s).port with waitEngine := w } } := ⟨_, rfl⟩
  rw [← hy] at hx
  have hyport : y.port =
      { Port.reset with
        retention := s.retentionAfterPowerOn, access := s.port.access.passOnly,
        waitPass := s.port.waitPass.or s.path.held, waitEngine := w } := by
    rw [hy]; simp [powerOn, hport, waitingAfterReset_eq, PortAccess.passOnly_passOnly]
  have htable : (portSettle y).path.table = y.path.table := by simp
  have hyses : y.session = ses := by rw [hy]
  have hopen : y.session.state = .open := by
    rw [hyses]; exact congrArg Session.state hcourse
  refine ⟨portSettle y, hx, ?_, ?_, ?_, ?_, ?_, ?_, ?_, ?_, ?_, ?_, fun h => ?_, fun hr ha => ?_, fun tx ha => ?_, ?_, ?_, ?_, ?_,
    ?_, ?_, ?_, ?_, ?_, fun h => ?_, fun h hb => ?_, fun h hb hb' => ?_⟩
  · simp [hy, powerOn, State.poweredOn]
  · simp [hy, powerOn, State.poweredOn]
  · rw [show (portSettle y).session = ses by simp [hyses]]
    exact hcourse
  · simp [hy, powerOn, State.poweredOn, Scheduler.reset]
  · simp [hy, powerOn, State.poweredOn, SegmentControl.reset]
  · simp [hy, powerOn, State.poweredOn, Exposure.reset]
  · simp [hy, powerOn, State.poweredOn, Intake.reset]
  · simp [hy, powerOn, State.poweredOn, PlanCache.reset]
  · rw [htable]; simp [hy, powerOn, Path.table, Path.reset]
  · rw [portSettle_waitWake, hyport]; rfl
  · have hret : y.port.retention = .exiting := by
      rw [hyport]
      simp only [State.retentionAfterPowerOn]
      rcases h with h | h
      · simp [h]
      · simp [h]
    rw [portSettle_of_exiting hret]
    refine ⟨hret, by rw [hyport]; rfl, by rw [hyport], by rw [hy]; rfl, by rw [hy]; rfl, fun hn => ?_⟩
    rw [hyport]
    exact PortAccess.passOnly_of_other hn
  · have hret : y.port.retention = .active := by rw [hyport]; simp [State.retentionAfterPowerOn, hr, ha]
    rw [portSettle_of_active_open hret hopen, grant_retention]
    refine ⟨hret, fun tx htx hn => ?_⟩
    have haccess : y.port.access = .noAccess := by rw [hyport]; exact PortAccess.passOnly_of_other hn
    have hwait : y.port.waitPass = some tx := by rw [hyport]; exact htx
    have hcount : y.port.starvation = 0 := by rw [hyport]; rfl
    exact grant_transaction hret haccess hwait (by omega)
  · have haccess : y.port.access = .pass tx := by rw [hyport]; simp [ha, PortAccess.passOnly]
    rw [portSettle_of_busy (by simp [haccess]), beginExit_access, haccess]
  · rw [show (portSettle y).engine = eng by simp [hy]]; exact hkept
  · rw [show (portSettle y).engine = eng by simp [hy]]; exact hlost
  · simp [hy, powerOn, State.poweredOn]
  · simp [hy, powerOn, State.poweredOn, Configuration.default]
  · simp [hy, powerOn, State.poweredOn, Configuration.default, Settings.default]
  · rw [show (portSettle y).supply = sup by simp [hy]]; exact hsample
  · simp [hy, powerOn]
  · simpa [hy, powerOn] using hram.1
  · simpa [hy, powerOn] using hram.2
  · obtain ⟨hstate, hrecheck, hses, heng⟩ := hnormal h
    simp [hy, hstate, hrecheck, hses, heng, Session.reset, Engine.reset, PerClass.zero]
  · obtain ⟨hstate, hrecheck, hcount, hserving⟩ := hcrit h hb
    simp [hy, hstate, hrecheck, hcount, hserving, StatusStands]
  · obtain ⟨hstate, hrecheck, hcount, hserving⟩ := hlow h hb hb'
    simp [hy, hstate, hrecheck, hcount, hserving, StatusStands]

end Sys2Proof.Machine
end

section
/-! PROOFS. What the rows of handed-on words leave alone of the Pass-Through Path, and a command word (O41). -/

namespace Sys2Proof.Machine

/-! ### The registers of the path across the commands (R138 to R142) -/

theorem table_of_path {s t : State} (h : t.path = s.path) : t.path.table = s.path.table := by rw [h]

theorem comeDue_table (e : Entry) (s : State) : (comeDue e s).path.table = s.path.table := by
  unfold comeDue
  split
  · simp [triggerEntry]
  · simp

theorem comeDueAll_table (l : List Word) (s : State) : (comeDueAll l s).path.table = s.path.table := by
  induction l generalizing s with
  | nil => rfl
  | cons f l ih =>
    rw [comeDueAll, ih]
    split
    · rfl
    · simp [comeDue_table]

theorem startRun_table (n : Nat) (t : Tuning) (s : State) : (startRun n t s).path.table = s.path.table := by
  unfold startRun
  dsimp only
  split <;> simp

theorem unlessBusy_table {seq : BitVec 8} {f : State → State} {s : State} (h : (f s).path.table = s.path.table) :
    (unlessBusy seq f s).path.table = s.path.table := by
  unfold unlessBusy
  split
  · simp
  · exact h

theorem onBit_table (w : Word) (i : Nat) {f : State → State} (hf : ∀ s, (f s).path.table = s.path.table) (s : State) :
    (onBit w i f s).path.table = s.path.table := by
  unfold onBit
  split
  · exact hf s
  · rfl

theorem clearTime_table (s : State) : (clearTime s).path.table = s.path.table := by
  unfold clearTime
  split <;> simp

theorem clearCommand_table (seq : BitVec 8) (s : State) : (clearCommand seq s).path.table = s.path.table := by
  have hevents : ∀ s, (clearEvents s).path.table = s.path.table := fun s => by simp [clearEvents]
  have hstatistics : ∀ s, (clearStatistics s).path.table = s.path.table := fun s => by simp [clearStatistics]
  have hplan : ∀ s, (clearPlan s).path.table = s.path.table := fun s => by simp [clearPlan]
  simp [clearCommand, onBit_table, clearTime_table, hevents, hstatistics, hplan]

theorem trimTime_table (seq : BitVec 8) (s : State) : (trimTime seq s).path.table = s.path.table := by
  unfold trimTime
  dsimp only
  split
  · simp [comeDueAll_table]
  · simp

/-- No command but RESET_PART changes a register of the path. -/
theorem takeCommand_table {c : CommandName} (hc : c ≠ .resetPart) (seq : BitVec 8) (s : State) :
    (takeCommand c seq s).path.table = s.path.table := by
  cases c with
  | resetPart => exact absurd rfl hc
  | configure => exact unlessBusy_table (by unfold configureCommand; split <;> simp)
  | setTime => exact unlessBusy_table (by unfold setTime; (repeat' split) <;> simp)
  | trimTime => exact unlessBusy_table (trimTime_table _ _)
  | loadPlan => exact unlessBusy_table (by unfold loadPlan; (repeat' split) <;> simp)
  | setEv => exact unlessBusy_table (by unfold setEv; (repeat' split) <;> simp)
  | start => exact unlessBusy_table (by unfold startCommand; (repeat' split) <;> simp [startRun_table])
  | stop => exact unlessBusy_table (by unfold stopCommand; (repeat' split) <;> simp)
  | arm => exact unlessBusy_table (by unfold armCommand; (repeat' split) <;> simp)
  | sleep => exact unlessBusy_table (by unfold sleepCommand; (repeat' split) <;> simp)
  | clear => exact unlessBusy_table (clearCommand_table _ _)
  | unassigned code => exact unlessBusy_table (by simp)

theorem following_of_table {p q : Path} (h : p.table = q.table) : p.following = q.following := by
  have hf : p.table.following = q.table.following := by rw [h]
  exact hf

/-- The transaction that follows outlives every command, RESET_PART among them (L43). -/
theorem takeCommand_following (c : CommandName) (seq : BitVec 8) (s : State) :
    (takeCommand c seq s).path.following = s.path.following := by
  by_cases hc : c = .resetPart
  · subst hc
    simp [takeCommand, resetPart, softReset]
  · exact following_of_table (takeCommand_table hc seq s)

/-- Outside reset the row of a command is the command taken (R141). -/
theorem rowEffect_rowOfCommand {s : State} (hr : s.pins.inReset = false) (c : CommandName) (seq : BitVec 8) :
    rowEffect (rowOfCommand s.pins.straps seq c) s = takeCommand c seq s := by
  cases c with
  | resetPart => simp [rowOfCommand, rowEffect, takeCommand, outsideReset_of_running hr, State.modPins]
  | _ => simp [rowOfCommand, rowEffect, takeCommand, outsideReset_of_running hr]

/-! ### The command word (R180) -/

theorem commandOfCode_codeOfCommand {c : CommandName} (h : ∀ code, c = .unassigned code → codeAssigned code = false) :
    commandOfCode (codeOfCommand c) = c := by
  cases c with
  | unassigned code =>
    have hc := h code rfl
    simp only [codeAssigned, Bool.and_eq_false_iff, decide_eq_false_iff_not] at hc
    have hn : ∀ k : BitVec 8, 1 ≤ k.toNat → k.toNat ≤ 11 → code ≠ k := fun k h1 h2 he => by subst he; omega
    simp [commandOfCode, codeOfCommand, hn]
  | _ => rfl

theorem encodeCommandWord_toNat (high : BitVec 16) (c : CommandName) (seq : BitVec 8) :
    (encodeCommandWord high c seq).toNat = high.toNat * 65536 + seq.toNat * 256 + (codeOfCommand c).toNat := by
  have hseq := seq.isLt
  have hcode := (codeOfCommand c).isLt
  rw [encodeCommandWord, BitVec.toNat_append, BitVec.toNat_append, ← Nat.shiftLeft_add_eq_or_of_lt (by omega),
    ← Nat.shiftLeft_add_eq_or_of_lt (by omega), Nat.shiftLeft_eq, Nat.shiftLeft_eq]
  omega

theorem decodeCommandWord_encode (high : BitVec 16) {c : CommandName} (seq : BitVec 8)
    (h : ∀ code, c = .unassigned code → codeAssigned code = false) :
    decodeCommandWord (encodeCommandWord high c seq) = (c, seq) := by
  have hseq := seq.isLt
  have hcode := (codeOfCommand c).isLt
  have hlow : field (encodeCommandWord high c seq) 0 8 = (codeOfCommand c).toNat := by
    rw [field, encodeCommandWord_toNat]; omega
  have hnext : field (encodeCommandWord high c seq) 8 8 = seq.toNat := by
    rw [field, encodeCommandWord_toNat]; omega
  rw [decodeCommandWord, hlow, hnext, BitVec.ofNat_toNat, BitVec.ofNat_toNat, BitVec.setWidth_eq, BitVec.setWidth_eq,
    commandOfCode_codeOfCommand h]

/-! ### A write completes (R139) -/

/-- A write in memory, its port free, before its words are handed on. -/
def written (addr : Addr) (ws : List BusWord) (s : State) : State :=
  { s with ram := writeWords s.ram (wordAddrs addr ws.length) ws, port := { s.port with access := .noAccess } }

theorem passCompleteNow_of_write {s : State} {addr : Addr} {ws : List BusWord}
    (h : s.port.access = .pass { addr := addr, transfer := .write ws }) (hr : s.pins.inReset = false) :
    passCompleteNow s = followOn (handWrite (wordAddrs addr ws.length) ws (written addr ws s)) := by
  simp only [passCompleteNow, h, passComplete, txLength]
  simp [written, hr, State.modPort, State.modRam]

theorem not_empty_of_whole {w : BusWord} (h : w.whole = true) : w.empty = false := by
  have he : w.enables = 15 := by simpa [BusWord.whole] using h
  simp [BusWord.empty, he]

theorem wholeGood_of {w : BusWord} (hw : w.whole = true) (hg : w.good = true) : BusWord.wholeGood w = true := by
  simp [Machine.BusWord.wholeGood, hw, hg]

theorem classify_command (p : Path) : classify p p.controlBase = .command := by
  simp [classify, controlWindow, Window.holds, controlRole]

/-- Settles O41: the one word is the command word of the CONTROL window, whose command is taken once it is in memory. -/
theorem commandWordRunsItsRow : Obligations.CommandWordRunsItsRow := by
  refine ⟨fun straps seq code => rfl, ?_⟩
  intro high c seq w s hc hw hwhole hgood hr hf hbase ha
  have hmod : s.path.controlBase % 16777216 = s.path.controlBase := Nat.mod_eq_of_lt hbase
  have haddr : wordAddrs (BitVec.ofNat 24 s.path.controlBase) [w].length = [s.path.controlBase] := by
    simp [wordAddrs, hmod]
  obtain ⟨x, hx⟩ : ∃ x, x = written (BitVec.ofNat 24 s.path.controlBase) [w] s := ⟨_, rfl⟩
  have hxpath : x.path = s.path := by rw [hx]; rfl
  have hxpins : x.pins = s.pins := by rw [hx]; rfl
  have hand : handWrite [s.path.controlBase] [w] x = takeCommand c seq x := by
    have hword : handWord s.path.controlBase w { state := x, events := false, taken := false, command := none, raised := false } =
        { state := x, events := false, taken := false, command := some w.data, raised := false } := by
      simp [handWord, not_empty_of_whole hwhole, Handing.settled, hxpath, classify_command, handRole, handCommand,
        wholeGood_of hwhole hgood]
    simp only [handWrite, handWords, hword, Handing.done, takeCommandWord]
    rw [hw, decodeCommandWord_encode high seq hc]
    rfl
  have hrow : rowEffect .passThroughCompletion s = rowEffect (rowOfCommand s.pins.straps seq c) x := by
    rw [← hxpins, rowEffect_rowOfCommand (by rw [hxpins]; exact hr), ← hand]
    refine (passCompleteNow_of_write ha hr).trans ?_
    rw [haddr, ← hx, hand, followOn_none (by rw [takeCommand_following, hxpath, hf])]
  rw [exec_eq, hrow, ← exec_eq, hx]
  simp [written, wordAddrs, writeWords, hmod]

end Sys2Proof.Machine
end

section
/-! PROOFS. The Memory Port through what follows an effect, and the reports of the RAM's retention (O43). -/

namespace Sys2Proof.Machine

/-! ### The port through what follows an effect -/

/-- A predicate of the port and the path alone: the engine asks, a wake asks a port that is not ACTIVE, and an ORDER_WRITE that gives up its
place withdraws its request and leaves the list of records under write. Nothing else of what follows an effect touches either. -/
theorem keptBySettling_of_port {P : State → Prop} (blind : ∀ {s t : State}, P s → t.port = s.port → t.path = s.path → P t)
    (asks : ∀ {s : State} e, P s → P (s.modPort fun q => { q with waitEngine := e }))
    (wakes : ∀ {s : State}, s.port.retention ≠ .active → P s → P (s.modPort fun q => { q with waitWake := true }))
    (ends : ∀ {s : State}, P s → P (s.modPort fun q => { q with waitEngine := none, starvation := 0 }))
    (leaves : ∀ {s : State} r, P s → P (leaveList r s)) : KeptBySettling P := by
  have status : ∀ {s : State}, P s → P (requestStatus s) := fun h => blind h (by simp) (by simp)
  have wake : ∀ {s : State} c l, s.session.asleep = true → P s → P (beginWake c l s) := fun {s} c l _ h => by
    unfold beginWake askPortForWake
    split
    · exact blind h (by simp) (by simp)
    · rename_i hr
      exact blind (wakes (by simpa using hr) h) (by simp) (by simp)
  have events : KeptByEvents P :=
    { run := fun _ _ _ _ _ h => blind h rfl rfl
      supply := fun _ _ h => blind h rfl rfl
      board := fun _ _ _ _ h => blind h rfl rfl
      engine := fun _ _ _ h => blind h rfl rfl
      status := status
      marks := fun _ _ _ _ _ _ _ h => blind h rfl rfl
      wake := wake
      log := fun _ _ h => blind h rfl rfl }
  have ends : ∀ {s : State}, P s → P (endOrderService s) := fun {s} h => by
    unfold endOrderService
    split
    · exact h
    · split
      · exact blind h rfl rfl
      · exact leaves _ (ends (blind h rfl rfl))
  have order : ∀ {s : State} o, P s → P (requestOrder o s) := fun {s} o h => by
    have hevict : P (evictOrder s) := by
      unfold evictOrder
      split
      · exact h
      · split
        · exact ends h
        · exact blind h rfl rfl
    unfold requestOrder
    dsimp only
    split
    · exact blind h rfl rfl
    · split
      · exact blind h rfl rfl
      · exact blind hevict rfl rfl
  exact
    { events with
      retires := fun e o c m g _ h => events.retire (fun _ _ h => blind h rfl rfl) e o c m g h
      order := order
      drop := fun _ _ h => events.loseLog (blind h rfl rfl)
      serve := fun {s} r todo b v _ _ _ h => by
        have hs := asks (s := s) todo.head? h
        exact blind hs (by simp [serve, askForAccess]) (by simp [serve])
      cache := fun _ _ _ h => blind h rfl rfl
      fetch := fun _ _ h => blind h (by simp) (by simp) }

/-- The retention, a soft reset's exit and the access are as they were at the port given. -/
def PortStands (q : Port) (s : State) : Prop :=
  s.port.retention = q.retention ∧ s.port.exitAfterEntry = q.exitAfterEntry ∧ s.port.access = q.access

theorem judgeHolds_port (s : State) :
    (judgeHolds s).port = { s.port with waitPass := (judgeHolds s).port.waitPass } := by
  unfold judgeHolds
  (repeat' split) <;> simp

theorem leaveList_port (r : Option RecordRange) (s : State) :
    (leaveList r s).port = { s.port with waitPass := (leaveList r s).port.waitPass } := by
  unfold leaveList
  split
  · rfl
  · rw [judgeHolds_port]
    simp

theorem keptBySettling_portStands (q : Port) : KeptBySettling (PortStands q) :=
  keptBySettling_of_port (fun h hp _ => by unfold PortStands; rw [hp]; exact h) (fun _ h => h) (fun _ h => h) (fun h => h)
    fun r h => by unfold PortStands; rw [leaveList_port]; exact h

theorem settle_port (s : State) : PortStands s.port (settle s) := (keptBySettling_portStands s.port).settle ⟨rfl, rfl, rfl⟩

/-- A transaction waits at the port, nothing is held, and it touches no record under write as a read. -/
def TransactionWaits (tx : Transaction) (s : State) : Prop :=
  s.port.waitPass = some tx ∧ s.path.held = none ∧ (txIsRead tx && txTouches tx s.path.underWrite) = false

theorem judgeHolds_of_waits {tx : Transaction} {s : State} (h : TransactionWaits tx s) : judgeHolds s = s := by
  obtain ⟨hw, hn, ht⟩ := h
  simp [judgeHolds, hn, hw, ht]

theorem txTouches_filter {tx : Transaction} {rs : List RecordRange} (p : RecordRange → Bool)
    (h : (txIsRead tx && txTouches tx rs) = false) : (txIsRead tx && txTouches tx (rs.filter p)) = false := by
  rw [Bool.and_eq_false_iff] at h ⊢
  refine h.imp_right fun ht => ?_
  simp only [txTouches, List.any_eq_false] at ht ⊢
  intro a ha
  have hr := ht a ha
  simp only [Bool.not_eq_true, List.any_eq_false] at hr ⊢
  exact fun r hm => hr r (List.mem_filter.mp hm).1

theorem keptBySettling_transactionWaits (tx : Transaction) : KeptBySettling (TransactionWaits tx) :=
  keptBySettling_of_port (fun h hp hq => by unfold TransactionWaits; rw [hp, hq]; exact h) (fun _ h => h) (fun _ h => h) (fun h => h)
    fun {s} r h => by
      cases r with
      | none => exact h
      | some r =>
        obtain ⟨hw, hn, ht⟩ := h
        have hx : TransactionWaits tx (s.modPath fun p => { p with underWrite := p.underWrite.filter (· ≠ r) }) :=
          ⟨hw, hn, txTouches_filter _ ht⟩
        rw [leaveList, judgeHolds_of_waits hx]
        exact hx

theorem settle_transactionWaits {tx : Transaction} {s : State} (h : TransactionWaits tx s) : TransactionWaits tx (settle s) :=
  (keptBySettling_transactionWaits tx).settle h

theorem settle_starvation {n : Nat} {s : State} (h : s.port.starvation ≤ n) : (settle s).port.starvation ≤ n :=
  (keptBySettling_of_port (P := fun s => s.port.starvation ≤ n) (fun h hp _ => by rw [hp]; exact h) (fun _ h => h) (fun _ h => h)
    (fun _ => Nat.zero_le n) fun r h => by rw [leaveList_port]; exact h).settle h

/-- No wake asks an ACTIVE port. -/
theorem settle_waitWake {s : State} (hr : s.port.retention = .active) (h : s.port.waitWake = false) :
    (settle s).port.waitWake = false :=
  ((keptBySettling_of_port (P := fun s => s.port.retention = .active ∧ s.port.waitWake = false)
    (fun h hp _ => by rw [hp]; exact h) (fun _ h => h) (fun hn h => absurd h.1 hn) (fun h => h)
    fun r h => by rw [leaveList_port]; exact h).settle ⟨hr, h⟩).2

/-- The port is the one given but for the requests of the engine and of a wake. -/
def PortAsks (q : Port) (s : State) : Prop := ∃ e w, s.port = { q with waitEngine := e, waitWake := w }

theorem PortAsks.of_port {q : Port} {s t : State} (h : PortAsks q s) (hp : t.port = s.port) : PortAsks q t := by
  obtain ⟨e, w, hs⟩ := h
  exact ⟨e, w, hp.trans hs⟩

theorem PortAsks.modPort {q : Port} {s : State} (h : PortAsks q s) {f : Port → Port}
    (hf : ∀ p, ∃ e w, f p = { p with waitEngine := e, waitWake := w }) : PortAsks q (s.modPort f) := by
  obtain ⟨e, w, hs⟩ := h
  obtain ⟨e', w', hw⟩ := hf s.port
  exact ⟨e', w', by rw [State.modPort_port, hw, hs]⟩

theorem beginWake_portAsks {q : Port} {s : State} (c : WakeCause) (l : Bool) (h : PortAsks q s) : PortAsks q (beginWake c l s) := by
  unfold beginWake askPortForWake
  split
  · exact h.of_port (by simp)
  · exact (h.modPort fun p => ⟨p.waitEngine, true, rfl⟩).of_port (by simp)

theorem keptByEvents_portAsks (q : Port) : KeptByEvents (PortAsks q) where
  run _ _ _ _ _ h := h
  supply _ _ h := h
  board _ _ _ _ h := h
  engine _ _ _ h := h
  status h := h.of_port (by simp)
  marks _ _ _ _ _ _ _ h := h
  wake c l _ h := beginWake_portAsks c l h
  log _ _ h := h

theorem serve_portAsks {q : Port} {s : State} (r : Request) (todo : List EngineAccess) (b : Bool) (v : BitVec 8) (h : PortAsks q s) :
    PortAsks q (serve r todo b v s) :=
  (h.modPort fun p => ⟨todo.head?, p.waitWake, rfl⟩).of_port (by simp [serve, askForAccess])

theorem beginOnce_portAsks {q : Port} {s : State} (h : PortAsks q s) : PortAsks q (beginOnce s) := by
  unfold beginOnce
  split
  · exact h
  · split
    · exact h
    · rename_i r _
      have hx : PortAsks q (s.modEngine fun e => { e with waiting := e.waiting.erase r }) := h
      revert hx
      generalize s.modEngine (fun e => { e with waiting := e.waiting.erase r }) = x
      intro hx
      cases r with
      | order c => exact serve_portAsks _ _ _ _ hx
      | status => exact serve_portAsks _ _ _ _ (hx.of_port rfl)
      | log l =>
        show PortAsks q (serveLog l x)
        unfold serveLog
        split
        · exact (keptByEvents_portAsks q).loseLog hx
        · split
          · exact (keptByEvents_portAsks q).loseLog hx
          · exact serve_portAsks _ _ _ _ hx
      | planFetch n a => exact serve_portAsks _ _ _ _ hx
      | configRead => exact serve_portAsks _ _ _ _ hx

theorem judgeWakes_portAsks {q : Port} {s : State} (h : PortAsks q s) : PortAsks q (judgeWakes s) := by
  have hx : PortAsks q (judgeScheduled s) := by
    unfold judgeScheduled
    split
    · exact beginWake_portAsks _ _ h
    · exact h
  unfold judgeWakes judgeIdle
  split
  · exact beginWake_portAsks _ _ hx
  · exact hx

theorem requestStatus_serving (s : State) :
    (requestStatus s).engine.service.isSome = s.engine.service.isSome := by
  unfold requestStatus
  cases hv : s.engine.service with
  | none => simp only [State.modEngine_engine, hv]; split <;> simp [hv]
  | some sv => simp only [State.modEngine_engine, hv]; (repeat' split) <;> simp [hv]

theorem beginWake_serving (c : WakeCause) (l : Bool) (s : State) :
    (beginWake c l s).engine.service.isSome = s.engine.service.isSome := by
  unfold beginWake askPortForWake
  rw [requestStatus_serving]
  split <;> simp

theorem judgeWakes_serving (s : State) : (judgeWakes s).engine.service.isSome = s.engine.service.isSome := by
  unfold judgeWakes judgeIdle judgeScheduled
  (repeat' split) <;> simp [beginWake_serving]

theorem requestFetch_serving (n : Nat) (s : State) : (requestFetch n s).engine.service = s.engine.service := by
  simp [requestFetch]

theorem cacheSettle_serving (s : State) : (cacheSettle s).engine.service = s.engine.service := by
  unfold cacheSettle walkCreate
  (repeat' split) <;> simp [requestFetch_serving]

/-- With no issue to make the transactions and the list of records under write stay, and the engine's request with a service in hand. -/
theorem settle_quiet {s : State} (h : NoIssue s) :
    (settle s).path = s.path ∧ PortAsks s.port (settle s) ∧
      (s.engine.service.isSome = true →
        (settle s).port.waitEngine = s.port.waitEngine ∧ (settle s).engine.service.isSome = true) := by
  have he : settle s = beginService (judgeWakes (cacheSettle (freeBuffer s))) := by
    simp only [settle, issueOwed_of_noIssue h, judgeRun_of_noIssue h]
  have hx : PortAsks s.port (cacheSettle (freeBuffer s)) := ⟨s.port.waitEngine, s.port.waitWake, by simp⟩
  rw [he]
  refine ⟨by simp, beginOnce_portAsks (beginOnce_portAsks (judgeWakes_portAsks hx)), fun hs => ?_⟩
  have hserving : (judgeWakes (cacheSettle (freeBuffer s))).engine.service.isSome = true := by
    rw [judgeWakes_serving, cacheSettle_serving]
    simpa using hs
  have hb : beginService (judgeWakes (cacheSettle (freeBuffer s))) = judgeWakes (cacheSettle (freeBuffer s)) := by
    rw [beginService, beginOnce_of_serving hserving, beginOnce_of_serving hserving]
  rw [hb]
  refine ⟨?_, hserving⟩
  have hwakes : ∀ t, (judgeWakes t).port.waitEngine = t.port.waitEngine := fun t => by
    unfold judgeWakes judgeIdle judgeScheduled
    (repeat' split) <;> simp [beginWake_waitEngine]
  rw [hwakes]
  simp

/-! ### A port in each state of retention (R151, R153, R156) -/

theorem portSettle_of_retained {s : State} (h : s.port.retention = .retained) :
    portSettle s = beginExit s ∧ (portSettle s).port.anyWaiting = s.port.anyWaiting ∧
      (portSettle s).port.retention = if s.port.anyWaiting then .exiting else .retained := by
  have hne : (beginExit s).port.retention = if s.port.anyWaiting then .exiting else .retained := by
    unfold beginExit
    split
    · rename_i hc; simp [hc.2]
    · rename_i hc; simp [h] at hc; simp [h, hc]
  have hg : grant (beginExit s) = beginExit s := grant_of_inactive (by rw [hne]; split <;> simp)
  have hp : portSettle s = beginExit s := by
    rw [portSettle, hg, beginEntry, mayEnter, hne]
    split <;> simp
  refine ⟨hp, ?_, hp ▸ hne⟩
  rw [hp]
  unfold beginExit
  split <;> rfl

theorem beginEntry_port (s : State) :
    (beginEntry s).port = { s.port with retention := if mayEnter s then .entering else s.port.retention } := by
  unfold beginEntry
  split <;> simp [*]

/-- An ACTIVE port grants, and is ENTERING in its turn where the conditions of entry hold. -/
theorem portSettle_of_active {s : State} (h : s.port.retention = .active) :
    (portSettle s).port = { (grant s).port with retention := (portSettle s).port.retention } ∧
      (portSettle s).port.retention =
        (if (portSettle s).session.mayRetain = true ∧ (portSettle s).engine.waiting = [] ∧ (portSettle s).engine.service = none ∧
            (portSettle s).path.held = none ∧ (portSettle s).port.waitPass = none ∧ (portSettle s).port.access = .noAccess then .entering
          else .active) := by
  have hx : beginExit s = s := by simp [beginExit, h]
  have hr : (grant s).port.retention = .active := (grant_retention s).trans h
  rw [portSettle, hx]
  have hp := beginEntry_port (grant s)
  refine ⟨by rw [hp], ?_⟩
  have hfields : (beginEntry (grant s)).session = (grant s).session ∧ (beginEntry (grant s)).engine = (grant s).engine ∧
      (beginEntry (grant s)).path = (grant s).path := by simp [-grant_frame]
  obtain ⟨hs, he, hq⟩ := hfields
  rw [hs, he, hq, hp]
  simp only [mayEnter, hr]
  simp [and_assoc]

end Sys2Proof.Machine
end

section
/-! PROOFS. The reports of the RAM's retention (O43). -/

namespace Sys2Proof.Machine

/-! ### Supply samples in an awake session (R127 to R130) -/

theorem noted_blocks (k : EventClass) (s : State) (e : Engine) (q : Port) (p : Path) :
    noted k { s with engine := e, port := q, path := p } = { noted k s with engine := e, port := q, path := p } := by
  by_cases h : s.session.state = .closing ∧ s.config.settings.wakeThreshold < s.config.settings.wakeLevels.get k
  · simp only [noted, countEvent, State.modSession, if_pos h]
  · simp only [noted, countEvent, State.modSession, if_neg h]

theorem suspended_blocks (s : State) (e : Engine) (q : Port) (p : Path) :
    suspended { s with engine := e, port := q, path := p } = { suspended s with engine := e, port := q, path := p } := by
  by_cases h : s.sched.runState.capturing = true ∧ ∀ o ∈ s.sched.owed, o.isStart = false
  · simp only [suspended, if_pos h]
  · simp only [suspended, if_neg h]

theorem resumed_blocks (s : State) (e : Engine) (q : Port) (p : Path) :
    resumed { s with engine := e, port := q, path := p } = { resumed s with engine := e, port := q, path := p } := by
  by_cases h : s.sched.runState = .suspended
  · simp only [resumed, if_pos h]
    rfl
  · simp only [resumed, if_neg h]

/-- An event raised in an awake session changes its count and marks, and the engine's queue. -/
theorem traffic_raiseEvent (k : EventClass) {s : State} (ha : s.session.asleep = false) :
    TrafficAlone (noted k s) (raiseEvent k s) := by
  have hm : TrafficAlone (countEvent k s) (marked k s) :=
    (traffic_modEngine rfl).trans (traffic_requestStatus (keepMark k (countEvent k s)))
  rw [raiseEvent_of_not_wakes fun h => by rw [AlertWakes, ha] at h; exact Bool.false_ne_true h.1]
  unfold noted
  dsimp only
  split
  · exact hm.map (f := fun t => t.modSession fun x => { x with deferredAlert := true }) fun _ _ _ _ => rfl
  · exact hm

theorem traffic_suspendRun (s : State) : TrafficAlone (suspended s) (suspendRun s) := by
  unfold suspended suspendRun suspendCapturing
  simp only [any_isStart_eq_false]
  split
  · rename_i hc
    rw [suspendNow_eq _ hc.1]
    exact traffic_requestStatus _
  · exact .rfl' s

theorem traffic_resumeRun (s : State) : TrafficAlone (resumed s) (resumeRun s) := by
  unfold resumed resumeRun
  split
  · simp only [resumptionIssues_eq]
    exact traffic_setRunState _ _
  · exact .rfl' s

/-- The supply state entered with its recheck timer, which runs in CRITICAL (R128, R129). -/
def supplyEntered (st : SupplyState) (s : State) : State :=
  { s with
    supply :=
      { s.supply with
        state := st, recheck := if st = .critical then some (expiryAfter s.tb.elapsed s.config.settings.recheckPeriod) else none } }

/-- A change of the supply state in an awake session, its event raised. -/
theorem traffic_changeSupply (st : SupplyState) (k : EventClass) {s : State} (ha : s.session.asleep = false) :
    TrafficAlone
      (if st = .critical then suspended (noted k (supplyEntered st s))
        else if s.supply.state = .critical then resumed (noted k (supplyEntered st s)) else noted k (supplyEntered st s))
      (changeSupply st (some k) s) := by
  obtain ⟨y, hy⟩ : ∃ y, y = supplyEntered st s := ⟨_, rfl⟩
  have hn : TrafficAlone (noted k y) (raiseEvent k (requestStatus y)) :=
    ((traffic_requestStatus y).map (noted_blocks k)).trans (traffic_raiseEvent k (by rw [hy]; exact ha))
  rw [← hy]
  have hc : changeSupply st (some k) s =
      if st = .critical then suspendRun (raiseEvent k (requestStatus y))
      else if s.supply.state = .critical then resumeRun (raiseEvent k (requestStatus y)) else raiseEvent k (requestStatus y) := by
    rw [hy]; rfl
  rw [hc]
  split
  · exact (hn.map suspended_blocks).trans (traffic_suspendRun _)
  · split
    · exact (hn.map resumed_blocks).trans (traffic_resumeRun _)
    · exact hn

theorem traffic_changeSupply_quiet {s : State} (h : s.supply.state ≠ .critical) :
    TrafficAlone { s with supply := { s.supply with state := .normal, recheck := none } } (changeSupply .normal none s) := by
  have hc : changeSupply .normal none s =
      requestStatus { s with supply := { s.supply with state := .normal, recheck := none } } := by
    simp [changeSupply, raiseOptional, h, State.modSupply]
  rw [hc]
  exact traffic_requestStatus _

/-- A sample taken in an awake session is judged as the statements have it, the engine's queue and the port apart. -/
theorem traffic_sampleSupply (battery : Nat) {s : State} (ha : s.session.asleep = false) :
    TrafficAlone (supplyJudged battery s) (sampleSupply battery s) := by
  have hs : sampleSupply battery s =
      let j := judgeSample s.config.settings s.supply.state (min battery 8191)
      if j.1 = s.supply.state then sampled battery s else changeSupply j.1 j.2 (sampled battery s) := rfl
  have hx : (sampled battery s).session.asleep = false := ha
  rw [hs]
  unfold supplyJudged
  cases hst : s.supply.state with
  | normal =>
    simp only [judgeSample]
    split
    · exact traffic_changeSupply .critical .battCrit hx
    · split
      · have ht := traffic_changeSupply .low .battLow hx
        simpa [sampled, hst, supplyEntered] using ht
      · exact .rfl' _
  | low =>
    simp only [judgeSample]
    split
    · exact traffic_changeSupply .critical .battCrit hx
    · split
      · exact traffic_changeSupply_quiet (s := sampled battery s) (by simp [sampled, hst])
      · exact .rfl' _
  | critical =>
    simp only [judgeSample]
    split
    · have ht := traffic_changeSupply .low .battLow hx
      simpa [sampled, hst, supplyEntered] using ht
    · exact .rfl' _

/-! ### A session closes (R115, R120) -/

/-- The session asleep at a close: its kind, its lines, its sleep time (R108, R115). -/
def closedAsleep (kind : SleepKind) (a : State) : State :=
  { a with
    pins :=
      if kind = .off then { a.pins with pwrEn := false, ctrlReset := true, wake := false }
      else { a.pins with pwrEn := true, ctrlReset := false, wake := false }
    session :=
      { a.session with
        state := if kind = .off then .asleepOff else .asleepStandby
        sleepKind := kind, timer := none, sleepTime := some a.tb.elapsed } }

theorem enterSleep_eq (kind : SleepKind) (s : State) : enterSleep kind s = closedAsleep kind s := by
  unfold enterSleep closedAsleep asleepLines asleepState driveLines
  split <;> rfl

theorem closedAsleep_blocks (kind : SleepKind) (s : State) (e : Engine) (q : Port) (p : Path) :
    closedAsleep kind { s with engine := e, port := q, path := p } =
      { closedAsleep kind s with engine := e, port := q, path := p } := rfl

theorem closedAsleep_asleep (kind : SleepKind) (s : State) : (closedAsleep kind s).session.asleep = true := by
  unfold closedAsleep
  cases kind <;> rfl

/-- The deferred alert mark is not among what `Follows` looks at. -/
theorem near_unmark (s : State) : Near s (s.modSession fun x => { x with deferredAlert := false }) :=
  ⟨⟨rfl, rfl, rfl, rfl, rfl, rfl, rfl, rfl, rfl, rfl, rfl, rfl⟩, ⟨rfl, rfl, rfl⟩, rfl, .inl ⟨rfl, rfl⟩, rfl⟩

/-- A deferred alert judged at the close, where the supply is CRITICAL or the holdoff timer runs, or none deferred: the mark is cleared. -/
theorem takeDeferredAlert_near {s : State}
    (h : ¬(s.session.deferredAlert = true ∧ s.supply.state ≠ .critical ∧ s.session.holdoff = none)) :
    Near s (takeDeferredAlert s) := by
  unfold takeDeferredAlert
  split
  · rename_i hd
    have hj : judgeAlert (s.modSession fun x => { x with deferredAlert := false }) =
        s.modSession fun x => { x with deferredAlert := false } := by
      refine if_neg fun hx => h ⟨hd, ?_, ?_⟩
      · simpa using hx.2.1
      · simpa using hx.2.2
    rw [hj]
    exact near_unmark s
  · exact .rfl' s

/-- A deferred alert that begins its wake, the memory in retention. -/
theorem takeDeferredAlert_wakes {s : State} (hd : s.session.deferredAlert = true) (ha : s.session.asleep = true)
    (hs : s.supply.state ≠ .critical) (hh : s.session.holdoff = none) (hr : s.port.retention ≠ .active) :
    TrafficAlone
      (wakeBegun .alert false .memory s.pins
        (s.modSession fun x =>
          { x with
            deferredAlert := false, holdoff := some (expiryAfter s.tb.elapsed s.config.settings.alertHoldoff) }))
      (takeDeferredAlert s) := by
  have hj : takeDeferredAlert s = beginAlertWake (s.modSession fun x => { x with deferredAlert := false }) := by
    unfold takeDeferredAlert judgeAlert
    rw [if_pos hd, if_pos ⟨ha, hs, hh⟩]
  rw [hj]
  exact (traffic_beginWake .alert false _).1 (by exact hr)

/-- No session begins to close in what follows an effect, and a cleared alert mark stays cleared where none closes. -/
def Unmarked (cleared : Bool) (s : State) : Prop :=
  s.session.state ≠ .closing ∧ (cleared = true → s.session.deferredAlert = false)

theorem keptBySettling_unmarked (cleared : Bool) : KeptBySettling (Unmarked cleared) := by
  have blind : ∀ {s t : State}, t.session = s.session → Unmarked cleared s → Unmarked cleared t := fun hs h => by
    unfold Unmarked at *
    rwa [hs]
  have events : KeptByEvents (Unmarked cleared) :=
    { run := fun _ _ _ _ _ h => h
      supply := fun _ _ h => h
      board := fun _ _ _ _ h => h
      engine := fun _ _ _ h => h
      status := fun h => blind (by simp) h
      marks := fun x hstate _ _ _ _ hx h =>
        ⟨by rw [hstate]; exact h.1, fun hc => hx.elim (fun e => e.trans (h.2 hc)) fun e => absurd e.2 h.1⟩
      wake := fun c l _ h => by
        obtain ⟨p, hp⟩ := beginWake_session_eq c l _
        unfold Unmarked
        rw [hp]
        exact ⟨by simp, h.2⟩
      log := fun _ _ h => h }
  exact
    { events with
      retires := fun e o c m g _ h => events.retire (fun _ _ h => h) e o c m g h
      order := fun _ h => blind (by simp) h
      drop := fun _ _ h => events.loseLog h
      serve := fun _ _ _ _ _ _ _ h => blind (by simp [serve]) h
      cache := fun _ _ _ h => h
      fetch := fun _ _ h => blind (by simp) h }

theorem finish_unmarked {cleared : Bool} {s : State} (h : Unmarked cleared s) : Unmarked cleared (finish s) := by
  have hs := (keptBySettling_unmarked cleared).settle h
  unfold Unmarked at *
  rwa [finish, (by simp : (portSettle (settle s)).session = (settle s).session)]

/-! ### The reports (R152, R154) -/

theorem Port.anyWaiting_iff (q : Port) :
    q.anyWaiting = true ↔ q.waitPass.isSome = true ∨ q.waitEngine.isSome = true ∨ q.waitWake = true := by
  simp [Port.anyWaiting, or_assoc]

theorem Session.mayRetain_iff (x : Session) :
    x.mayRetain = true ↔ x.state = .closing ∨ x.state = .asleepOff ∨ x.state = .asleepStandby := by
  unfold Session.mayRetain
  cases x.state <;> simp

theorem finish_of_retention (s : State) (r : Retention) (hr : s.port.retention = r) : (settle s).port.retention = r :=
  (settle_port s).1.trans hr

/-- What follows the RAM's entry into retention: RETAINED, or EXITING with a request. -/
theorem finish_of_retained {s : State} (h : s.port.retention = .retained) :
    (finish s).port.retention = if (finish s).port.anyWaiting then .exiting else .retained := by
  obtain ⟨-, hw, hr⟩ := portSettle_of_retained (finish_of_retention s .retained h)
  rw [finish, hr, hw]

/-- Entry reported with a request waiting, or after a soft reset (R152, R160). -/
theorem entryComplete_exits {s : State} (battery : Nat) (he : s.port.retention = .entering)
    (h : s.port.anyWaiting = true ∨ s.port.exitAfterEntry = true) :
    ∃ t, exec (.retentionEntryComplete battery) s = .next t ∧ Follows s t ∧ t.port.retention = .exiting ∧
      t.port.exitAfterEntry = false := by
  obtain ⟨x, hx⟩ : ∃ x, x = s.modPort fun q => { q with retention := .exiting, exitAfterEntry := false } := ⟨_, rfl⟩
  have hrow : rowEffect (.retentionEntryComplete battery) s = x := by
    simp [rowEffect, guarded, he, entryComplete, h, hx]
  have hn : Near s x := by rw [hx]; exact (traffic_modPort _ s).near
  have hr : x.port.retention = .exiting := by rw [hx]; rfl
  have hs : portSettle (settle x) = settle x := portSettle_of_exiting (finish_of_retention x .exiting hr)
  refine ⟨finish x, by rw [exec_eq, hrow], hn.follows (finish_follows x), ?_, ?_⟩
  · rw [finish, hs]
    exact finish_of_retention x .exiting hr
  · rw [finish, hs, (settle_port x).2.1, hx]
    rfl

/-- A RETAINED port with nothing that follows keeps without a request (R152). -/
theorem finish_stays_retained {s : State} (hr : s.port.retention = .retained) (hw : s.port.anyWaiting = false) (hi : NoIssue s)
    (hf : NoFetch s) (he : s.engine.waiting = [])
    (h : s.session.asleep = false ∨ scheduledReached s = false ∧ idleReached s = false) :
    (finish s).port.retention = .retained := by
  obtain ⟨m, hm⟩ : ∃ m, m = freeBuffer s := ⟨_, rfl⟩
  have hcache : cacheSettle m = m :=
    cacheSettle_of_noFetch (hf.congr (by rw [hm]; constructor <;> simp) (by rw [hm]; simp))
  have hwakes : judgeWakes m = m := by
    rcases h with ha | ⟨h1, h2⟩
    · exact judgeWakes_of_awake (by rw [hm]; simpa using ha)
    · obtain ⟨e1, e2⟩ := reached_congr (a := s) (b := m) (by simp [hm]) (by simp [hm]) (by simp [hm]) (by simp [hm])
      exact judgeWakes_of_unreached (e1.trans h1) (e2.trans h2)
  have hfinish : finish s = portSettle m := by
    rw [finish_of_noIssue hi, ← hm, hcache, hwakes, beginService_of_empty (by rw [hm]; simpa using he)]
  have hport : m.port = s.port := by rw [hm]; simp
  obtain ⟨-, -, hret⟩ := portSettle_of_retained (s := m) (by rw [hport]; exact hr)
  rw [hfinish, hret, hport, hw]
  rfl

/-- The session closed at the RAM's report (R115): asleep of its kind, or waking for a deferred alert. -/
theorem closeSession_closed (battery : Nat) {s : State} (hc : s.session.state = .closing) (hr : s.port.retention ≠ .active) :
    let x := supplyJudged battery s
    let kind := if x.supply.state = .critical then SleepKind.off else s.session.sleepKind
    let alerted := x.session.deferredAlert = true ∧ x.supply.state ≠ .critical ∧ s.session.holdoff = none
    (¬alerted → Near (closedAsleep kind x) (closeSession battery s)) ∧
      (alerted →
        TrafficAlone
            (wakeBegun .alert false .memory (closedAsleep kind x).pins
              ((closedAsleep kind x).modSession fun y =>
                { y with
                  deferredAlert := false, holdoff := some (expiryAfter x.tb.elapsed x.config.settings.alertHoldoff) }))
            (closeSession battery s)) ∧
      (closeSession battery s).session.state ≠ .closing := by
  intro x kind alerted
  have ha : s.session.asleep = false := by simp [Session.asleep, hc]
  obtain ⟨b, hb⟩ : ∃ b, b = sampleSupply battery s := ⟨_, rfl⟩
  have hx : TrafficAlone x b := hb ▸ traffic_sampleSupply battery ha
  have hcourse : x.session.course = s.session.course := supplyJudged_course battery s
  have hsupply : b.supply = x.supply := by rw [hx.1]
  have hkind : closeKind b = kind := by
    have hk : b.session.sleepKind = s.session.sleepKind := by
      rw [hx.1]; exact sleepKind_of_course hcourse
    rw [closeKind, hsupply, hk]
  obtain ⟨y, hy⟩ : ∃ y, y = requestStatus (enterSleep kind b) := ⟨_, rfl⟩
  have hclose : closeSession battery s = takeDeferredAlert y := by
    rw [hy, ← hkind, hb]; rfl
  have hn : TrafficAlone (closedAsleep kind x) y := by
    rw [hy, enterSleep_eq]
    exact (hx.map (closedAsleep_blocks kind)).trans (traffic_requestStatus _)
  have hses : y.session = (closedAsleep kind x).session := by rw [hn.1]
  have hholdoff : x.session.holdoff = s.session.holdoff := holdoff_of_course hcourse
  have hdeferred : y.session.deferredAlert = x.session.deferredAlert := by rw [hses]; rfl
  have hyholdoff : y.session.holdoff = s.session.holdoff := by rw [hses]; exact hholdoff
  have hysupply : y.supply = x.supply := by rw [hn.1]; rfl
  have hyasleep : y.session.asleep = true := by rw [hses]; exact closedAsleep_asleep kind x
  have hport : y.port.retention ≠ .active := by
    have hp : y.port = b.port := by rw [hy]; simp
    rw [hp, hb, (sampleSupply_awake battery ha).2.2]
    exact hr
  rw [hclose]
  have hnone : ¬alerted → Near y (takeDeferredAlert y) := fun h =>
    takeDeferredAlert_near (by rw [hdeferred, hyholdoff, hysupply]; exact h)
  refine ⟨fun h => hn.near.trans (hnone h), fun ⟨hd, hs, hh⟩ => ?_, ?_⟩
  · have hwake := takeDeferredAlert_wakes (s := y) (hdeferred.trans hd) hyasleep (by rwa [hysupply]) (hyholdoff.trans hh) hport
    exact (hn.map (f := fun t => wakeBegun .alert false .memory t.pins
      (t.modSession fun z =>
        { z with deferredAlert := false, holdoff := some (expiryAfter t.tb.elapsed t.config.settings.alertHoldoff) }))
      fun _ _ _ _ => rfl).trans hwake
  · have hopen : Unmarked false y := ⟨fun hk => by simp [Session.asleep, hk] at hyasleep, fun hk => by cases hk⟩
    have hmarked : Unmarked false (takeDeferredAlert y) := by
      unfold takeDeferredAlert
      split
      · exact (keptBySettling_unmarked false).judgeAlert (s := y.modSession fun z => { z with deferredAlert := false })
          ⟨hopen.1, fun hk => by cases hk⟩
      · exact hopen
    exact hmarked.1

/-- An ACTIVE, free port grants the engine where no transaction waits, or at the starvation count's end (R156, R157). -/
theorem grant_engineAccess {s : State} {a : EngineAccess} (hr : s.port.retention = .active) (ha : s.port.access = .noAccess)
    (hw : s.port.waitEngine = some a) (h : s.port.waitPass = none ∨ 4 ≤ s.port.starvation) : grant s = grantEngine a s := by
  unfold grant
  rw [if_pos ⟨hr, ha⟩, hw]
  cases hp : s.port.waitPass with
  | none => rfl
  | some tx =>
    have hs : ¬s.port.starvation < 4 := Nat.not_lt.mpr (h.resolve_left (by simp [hp]))
    simp [hs]

/-- The exit reported (R154): what the port then grants. -/
theorem finish_exit {s x : State} (hx : x.port = { s.port with retention := .active, waitWake := false })
    (hv : x.engine = s.engine) (ha : s.port.access = .noAccess) :
    (finish x).port.waitWake = false ∧
      (finish x).port.retention =
        (if (finish x).session.mayRetain = true ∧ (finish x).engine.waiting = [] ∧ (finish x).engine.service = none ∧
            (finish x).path.held = none ∧ (finish x).port.waitPass = none ∧ (finish x).port.access = .noAccess then .entering
          else .active) ∧
      (NoIssue x →
        (∀ tx, s.port.waitPass = some tx → s.port.starvation < 4 → (finish x).port.access = .pass tx) ∧
          ∀ a, s.port.waitEngine = some a → s.engine.service.isSome = true → s.port.waitPass = none ∨ 4 ≤ s.port.starvation →
            (finish x).port.access = .engine a) := by
  obtain ⟨y, hy⟩ : ∃ y, y = settle x := ⟨_, rfl⟩
  have hfinish : finish x = portSettle y := by rw [hy]; rfl
  have hr : x.port.retention = .active := by rw [hx]
  have hret : y.port.retention = .active := hy ▸ finish_of_retention x .active hr
  have hstands : y.port.access = x.port.access := hy ▸ (settle_port x).2.2
  have haccess : y.port.access = .noAccess := hstands.trans (by rw [hx]; exact ha)
  have hwake : y.port.waitWake = false := hy ▸ settle_waitWake hr (by rw [hx])
  obtain ⟨hport, hactive⟩ := portSettle_of_active hret
  rw [hfinish]
  refine ⟨(portSettle_waitWake y).trans hwake, hactive, fun hi => ?_⟩
  have hquiet := settle_quiet hi
  rw [← hy] at hquiet
  obtain ⟨-, ⟨e, w, hq⟩, hserving⟩ := hquiet
  have hgranted : (portSettle y).port.access = (grant y).port.access := by rw [hport]
  have hpass : y.port.waitPass = s.port.waitPass := by rw [hq, hx]
  have hcount : y.port.starvation = s.port.starvation := by rw [hq, hx]
  refine ⟨fun tx htx hs => ?_, fun a hwait hs hturn => ?_⟩
  · exact hgranted.trans (grant_transaction hret haccess (hpass.trans htx) (hcount ▸ hs))
  · have hwe : y.port.waitEngine = some a := by
      rw [(hserving (by rw [hv]; exact hs)).1, hx]
      exact hwait
    rw [hgranted, grant_engineAccess hret haccess hwe (by rw [hpass, hcount]; exact hturn), grantEngine_access]

theorem closeSession_retention (battery : Nat) {s : State} (hc : s.session.state = .closing) :
    (closeSession battery s).port.retention = s.port.retention := by
  have ha : s.session.asleep = false := by simp [Session.asleep, hc]
  obtain ⟨y, hy⟩ : ∃ y, y = requestStatus (enterSleep (closeKind (sampleSupply battery s)) (sampleSupply battery s)) := ⟨_, rfl⟩
  have hport : y.port = s.port := by
    rw [← (sampleSupply_awake battery ha).2.2, hy]
    simp
  have hp : PortAsks s.port y := ⟨s.port.waitEngine, s.port.waitWake, by rw [hport]⟩
  have hclosed : PortAsks s.port (takeDeferredAlert y) := by
    unfold takeDeferredAlert
    split
    · exact (keptByEvents_portAsks _).judgeAlert (s := y.modSession fun z => { z with deferredAlert := false }) hp
    · exact hp
  have he : closeSession battery s = takeDeferredAlert y := by rw [hy]; rfl
  obtain ⟨e, w, hq⟩ := hclosed
  rw [he, hq]

/-- A function of the state that neither reads nor changes the engine, the port and the path. -/
def TrafficBlind (f : State → State) : Prop :=
  ∀ s e q p, f { s with engine := e, port := q, path := p } = { f s with engine := e, port := q, path := p }

theorem TrafficBlind.comp {f g : State → State} (hf : TrafficBlind f) (hg : TrafficBlind g) : TrafficBlind fun s => f (g s) :=
  fun s e q p => by
    show f (g { s with engine := e, port := q, path := p }) = _
    rw [hg, hf]

theorem sampled_entered_blocks (battery : Nat) (st : SupplyState) : TrafficBlind fun s => supplyEntered st (sampled battery s) :=
  fun _ _ _ _ => rfl

theorem supplyJudged_blocks (battery : Nat) : TrafficBlind (supplyJudged battery) := by
  intro s e q p
  have hcritical := TrafficBlind.comp suspended_blocks
    (TrafficBlind.comp (noted_blocks .battCrit) (sampled_entered_blocks battery .critical))
  have hlow := TrafficBlind.comp (noted_blocks .battLow) (sampled_entered_blocks battery .low)
  have hrecovered := TrafficBlind.comp resumed_blocks hlow
  unfold supplyJudged
  cases hst : s.supply.state with
  | normal =>
    simp only
    split
    · exact hcritical s e q p
    · split
      · exact hlow s e q p
      · rfl
  | low =>
    simp only
    split
    · exact hcritical s e q p
    · split
      · rfl
      · rfl
  | critical =>
    simp only
    split
    · exact hrecovered s e q p
    · rfl

theorem forcedRecovery_of_course {x y : Session} (h : y.course = x.course) : y.forcedRecovery = x.forcedRecovery := by
  have hk : y.course.forcedRecovery = x.course.forcedRecovery := by rw [h]
  exact hk

/-- A session that closes at the RAM's report, as the statements have it. -/
theorem closeSession_row (battery : Nat) {s r : State} (hc : s.session.state = .closing) (hn : TrafficAlone s r)
    (hr : r.port.retention = .retained) :
    let x := supplyJudged battery s
    let off := x.supply.state = .critical ∨ s.session.sleepKind = .off
    let asleep : Session :=
      { x.session with
        state := if off then .asleepOff else .asleepStandby
        sleepKind := if x.supply.state = .critical then .off else s.session.sleepKind
        timer := none
        sleepTime := some s.tb.elapsed }
    let closed := fun y : Session =>
      { x with
        pins :=
          if off then { x.pins with pwrEn := false, ctrlReset := true, wake := false }
          else { x.pins with pwrEn := true, ctrlReset := false, wake := false }
        session := y }
    let alerted := x.session.deferredAlert = true ∧ x.supply.state ≠ .critical ∧ s.session.holdoff = none
    (closed asleep).session.asleep = true ∧
    (¬alerted → Near (closed asleep) (closeSession battery r)) ∧
    (alerted → (closeSession battery r).session.deferredAlert = false ∧
      Near
        (closed
          { asleep with
            state := .waking, late := false, phase := .memory
            cause := if s.session.forcedRecovery then .forcedRecovery else .alert
            holdoff := some (s.tb.elapsed + BitVec.ofNat 48 (s.config.settings.alertHoldoff * 1024)) })
        (closeSession battery r)) := by
  intro x off asleep closed alerted
  have hses : r.session = s.session := by rw [hn.1]
  obtain ⟨kind, hkind⟩ : ∃ kind, kind = if x.supply.state = .critical then SleepKind.off else s.session.sleepKind := ⟨_, rfl⟩
  have hx : TrafficAlone x (supplyJudged battery r) := hn.map (supplyJudged_blocks battery)
  have ha : s.session.asleep = false := by simp [Session.asleep, hc]
  have hsample := traffic_sampleSupply battery ha
  have htb : x.tb = s.tb := by
    have ht : (sampleSupply battery s).tb = x.tb := by rw [hsample.1]
    rw [← ht]; simp
  have hconfig : x.config = s.config := by
    have ht : (sampleSupply battery s).config = x.config := by rw [hsample.1]
    rw [← ht]; simp
  have hforced : x.session.forcedRecovery = s.session.forcedRecovery := forcedRecovery_of_course (supplyJudged_course battery s)
  have hoff : off ↔ kind = .off := by
    rw [hkind]
    by_cases hs : x.supply.state = .critical
    · simp [off, hs]
    · simp [off, hs]
  have hclosed : closed asleep = closedAsleep kind x := by
    simp only [closed, asleep, closedAsleep, hoff, ← hkind, htb]
  obtain ⟨hnone, halerted, -⟩ := closeSession_closed battery (s := r) (by rw [hses]; exact hc) (by rw [hr]; simp)
  have hsupply : (supplyJudged battery r).supply = x.supply := by rw [hx.1]
  have hdeferred : (supplyJudged battery r).session = x.session := by rw [hx.1]
  rw [hsupply, hdeferred, hses] at hnone halerted
  rw [← hkind] at hnone halerted
  refine ⟨by rw [hclosed]; exact closedAsleep_asleep kind x, fun h => ?_, fun h => ?_⟩
  · rw [hclosed]
    exact (hx.map (closedAsleep_blocks kind)).near.trans (hnone h)
  · have hw := (hx.map (f := fun t => wakeBegun .alert false .memory (closedAsleep kind t).pins
      ((closedAsleep kind t).modSession fun y =>
        { y with deferredAlert := false, holdoff := some (expiryAfter t.tb.elapsed t.config.settings.alertHoldoff) }))
      fun _ _ _ _ => rfl).trans (halerted h)
    have hwses : (closeSession battery r).session.deferredAlert = false := by rw [hw.1]; rfl
    refine ⟨hwses, (near_unmark _).trans ?_⟩
    have heq : (closed { asleep with
            state := .waking, late := false, phase := .memory
            cause := if s.session.forcedRecovery then .forcedRecovery else .alert
            holdoff := some (s.tb.elapsed + BitVec.ofNat 48 (s.config.settings.alertHoldoff * 1024)) }).modSession
              (fun y => { y with deferredAlert := false }) =
        wakeBegun .alert false .memory (closedAsleep kind x).pins
          ((closedAsleep kind x).modSession fun y =>
            { y with deferredAlert := false, holdoff := some (expiryAfter x.tb.elapsed x.config.settings.alertHoldoff) }) := by
      simp only [closed, asleep, closedAsleep, wakeBegun, hoff, ← hkind, htb, hconfig, hforced, State.modSession, expiryAfter]
    rw [heq]
    exact hw.near

/-- The wake that waited for the memory goes on to its controller step (R112, R154). -/
theorem exitComplete_lines {s : State} (hw : s.port.waitWake = true) :
    (s.session.sleepKind = .off ∨ s.session.forcedRecovery = true →
      TrafficAlone
        { s with
          pins := { s.pins with pwrEn := true, ctrlReset := true, wake := false }
          session := { s.session with phase := .resetHold } } (exitComplete s)) ∧
      (¬(s.session.sleepKind = .off ∨ s.session.forcedRecovery = true) →
        TrafficAlone
          { s with pins := { s.pins with wake := true }, session := { s.session with phase := .wakePulse } } (exitComplete s)) := by
  obtain ⟨x, hx⟩ : ∃ x, x = s.modPort fun q => { q with retention := .active, waitWake := false } := ⟨_, rfl⟩
  have he : exitComplete s = wakeControllerLines x := by rw [exitComplete, if_pos hw, hx]
  have hses : x.session = s.session := by rw [hx]; rfl
  rw [he, wakeControllerLines, hses]
  refine ⟨fun hc => ?_, fun hc => ?_⟩
  · rw [if_pos hc, hx]
    exact ⟨rfl, rfl, rfl⟩
  · rw [if_neg hc, hx]
    exact ⟨rfl, rfl, rfl⟩

/-- Settles O43: each report is its state of the port, what the session does there, and the port's own part at the end of the row. -/
theorem retentionReports : Obligations.RetentionReports := by
  intro battery s
  refine ⟨⟨s.port.anyWaiting_iff, s.session.mayRetain_iff⟩, entryComplete_exits battery, fun he hw hx => ?_, fun he ha => ?_, fun he => ?_,
    fun he => ?_⟩
  · obtain ⟨r, hr⟩ : ∃ r, r = s.modPort fun q => { q with retention := .retained } := ⟨_, rfl⟩
    have hrport : r.port = { s.port with retention := .retained } := by rw [hr]; rfl
    have hn : TrafficAlone s r := by rw [hr]; exact traffic_modPort _ s
    have hret : r.port.retention = .retained := by rw [hrport]
    have hentry : rowEffect (.retentionEntryComplete battery) s = entryComplete battery s := by
      simp [rowEffect, guarded, he]
    have hrow : rowEffect (.retentionEntryComplete battery) s =
        if s.session.state = .closing then closeSession battery r else r := by
      rw [hentry, entryComplete, if_neg (by simp [hw, hx]), hr]
      rfl
    have hsess : r.session = s.session := by rw [hr]; rfl
    refine ⟨finish (rowEffect (.retentionEntryComplete battery) s), exec_eq _ s, ?_, fun hc => ?_, fun hc => ?_⟩
    · refine finish_of_retained ?_
      rw [hrow]
      split
      · rename_i hc
        rw [closeSession_retention battery (hsess ▸ hc)]
        exact hret
      · exact hret
    · rw [hrow, if_neg hc]
      refine ⟨hn.near.follows (finish_follows r), fun hi hf hwait _ hu => ?_⟩
      obtain ⟨e1, e2⟩ := reached_congr (a := s) (b := r) (by rw [hr]; rfl) (by rw [hr]; rfl) (by rw [hr]; rfl) (by rw [hr]; rfl)
      refine finish_stays_retained hret (by rw [hr]; exact hw) (hi.congr hn.near.run hn.cache) (hf.congr hn.near.run hn.cache)
        (by rw [hr]; exact hwait) ?_
      rw [hsess, e1, e2]
      exact hu
    · rw [hrow, if_pos hc]
      obtain ⟨hasleep, hnone, halerted⟩ := closeSession_row battery hc hn hret
      obtain ⟨-, -, hopen⟩ := closeSession_closed battery (s := r) (by rw [hsess]; exact hc) (by rw [hret]; simp)
      have hleft : Unmarked false (closeSession battery r) := ⟨hopen, fun h => by cases h⟩
      refine ⟨finish_stands (closeSession_stands battery r), (finish_unmarked hleft).1, ?_⟩
      intro x off asleep closed alerted
      refine ⟨fun h => ?_, fun h => ?_⟩
      · have hf := (hnone h).follows (finish_follows _)
        exact ⟨hf, fun hs hreached => (hf.wakes hasleep hs hreached).1⟩
      · obtain ⟨hmark, hnear⟩ := halerted h
        exact ⟨(finish_unmarked (cleared := true) ⟨hopen, fun _ => hmark⟩).2 rfl, hnear.follows (finish_follows _)⟩
  · intro cold
    obtain ⟨x, hx⟩ : ∃ x, x = exitComplete s := ⟨_, rfl⟩
    have hrow : rowEffect .retentionExitComplete s = x := by simp [rowEffect, guarded, exitPossible, he, ha, hx]
    obtain ⟨hwake, hret, hgrant⟩ := finish_exit (s := s) (x := x) (by rw [hx]; exact exitComplete_port s) (by rw [hx]; simp) ha
    refine ⟨finish x, by rw [exec_eq, hrow], hwake, hret, fun hi => hgrant ?_, fun hw => ?_, fun hw hc => ?_, fun hw hc => ?_⟩
    · exact hi.congr (by rw [hx]; constructor <;> simp) (by rw [hx]; simp)
    · have hn : TrafficAlone s x := by
        have hq : x = s.modPort fun q => { q with retention := .active, waitWake := false } := by
          rw [hx]; simp [exitComplete, hw]
        rw [hq]
        exact traffic_modPort _ s
      exact hn.near.follows (finish_follows x)
    · exact (exitComplete_lines hw).1 hc |>.near.follows (hx ▸ finish_follows x)
    · exact (exitComplete_lines hw).2 hc |>.near.follows (hx ▸ finish_follows x)
  · have hrow : rowEffect (.retentionEntryComplete battery) s = s := by simp [rowEffect, guarded, he]
    exact .of_effect (by rw [hrow]; exact .rfl' s)
  · have hrow : rowEffect .retentionExitComplete s = s := by simp [rowEffect, guarded, exitPossible, he]
    exact .of_effect (by rw [hrow]; exact .rfl' s)

end Sys2Proof.Machine
end

section
/-! PROOFS. Arriving transactions (O39): held, waiting and granted. -/

namespace Sys2Proof.Machine

/-! ### Transactions and records (R136, R144) -/

theorem wordAddrs_eq (a : Addr) (n : Nat) :
    wordAddrs a n = (List.range n).map fun k => (a + BitVec.ofNat 24 (4 * k)).toNat := by
  induction n generalizing a with
  | zero => rfl
  | succ n ih =>
    have hnext : ∀ k, a + 4 + BitVec.ofNat 24 (4 * k) = a + BitVec.ofNat 24 (4 * (k + 1)) := fun k => by
      rw [BitVec.add_assoc]
      congr 1
      apply BitVec.eq_of_toNat_eq
      simp [BitVec.toNat_add, Nat.mul_add, Nat.add_comm]
    rw [wordAddrs, ih, List.range_succ_eq_map, List.map_cons, List.map_map]
    congr 1
    · simp
    · exact List.map_congr_left fun k _ => by rw [hnext]; rfl

theorem txIsRead_iff (tx : Transaction) : txIsRead tx = true ↔ ∃ n, tx.transfer = .read n := by
  unfold txIsRead
  cases tx.transfer <;> simp

theorem txTouches_iff (tx : Transaction) (rs : List RecordRange) :
    txTouches tx rs = true ↔
      ∃ k, ((∃ n, tx.transfer = .read n ∧ k < n) ∨ ∃ ws, tx.transfer = .write ws ∧ k < ws.length) ∧
        ∃ r ∈ rs, r.base ≤ (tx.addr + BitVec.ofNat 24 (4 * k)).toNat ∧
          (tx.addr + BitVec.ofNat 24 (4 * k)).toNat < r.base + r.size := by
  have hk : ∀ k, k < txLength tx ↔ (∃ n, tx.transfer = .read n ∧ k < n) ∨ ∃ ws, tx.transfer = .write ws ∧ k < ws.length := fun k => by
    unfold txLength
    cases tx.transfer <;> simp
  simp only [← hk]
  simp [txTouches, wordAddrs_eq, RecordRange.holds, -BitVec.toNat_add]

theorem outstanding_iff (s : State) :
    outstanding s = true ↔
      s.path.held.isSome = true ∨ s.port.waitPass.isSome = true ∨ ∃ tx, s.port.access = .pass tx := by
  unfold outstanding
  cases s.port.access <;> simp

theorem free_of_not_outstanding {s : State} (h : outstanding s = false) :
    s.path.held = none ∧ s.port.waitPass = none ∧ ∀ tx, s.port.access ≠ .pass tx := by
  have hn := mt (outstanding_iff s).mpr (by simp [h])
  simp only [not_or, not_exists, Bool.not_eq_true, Option.isSome_eq_false_iff, Option.isNone_iff_eq_none] at hn
  exact hn

/-! ### An arrival (R136, R145, R122) -/

theorem recordArrival_of_free (tx : Transaction) {s : State} (h : (txIsRead tx && txTouches tx s.path.underWrite) = false)
    (hn : s.path.held = none) :
    recordArrival tx s = s.modPort (fun q => { q with waitPass := some tx }) :=
  judgeHolds_of_waits ⟨rfl, hn, h⟩

/-- A read of a record under write is held (R145). -/
theorem recordArrival_of_touching (tx : Transaction) {s : State} (h : (txIsRead tx && txTouches tx s.path.underWrite) = true)
    (hn : s.path.held = none) (hw : s.port.waitPass = none) :
    recordArrival tx s = s.modPath fun p => { p with held := some tx } := by
  have hq : { s.port with waitPass := none } = s.port := by rw [← hw]
  simp [recordArrival, judgeHolds, hn, h, State.modPath, State.modPort, hq]

theorem raiseEvent_serving (k : EventClass) (s : State) :
    (raiseEvent k s).engine.service.isSome = s.engine.service.isSome := by
  have hm : (requestStatus (keepMark k (countEvent k s))).engine.service.isSome = s.engine.service.isSome := by
    rw [requestStatus_serving]
    simp [keepMark, countEvent]
  have ha : ∀ t : State, (judgeAlert t).engine.service.isSome = t.engine.service.isSome := fun t => by
    unfold judgeAlert beginAlertWake
    split
    · rw [beginWake_serving]; simp
    · rfl
  unfold raiseEvent
  dsimp only
  (repeat' split) <;> simp [ha, hm]

/-- An arrival outside reset: what the path recorded, a stray access counted beside it. -/
theorem arrive_of_running (tx : Transaction) {s : State} (hr : s.pins.inReset = false) :
    let y := recordArrival tx s
    Near (if s.session.asleep then countEvent .busAnomaly s else s) (arrive tx s) ∧ (arrive tx s).path = y.path ∧
      PortAsks y.port (arrive tx s) ∧ (arrive tx s).port.waitEngine = y.port.waitEngine ∧
      (arrive tx s).engine.service.isSome = s.engine.service.isSome := by
  intro y
  have hy : y.session = s.session ∧ y.engine = s.engine := by simp [y, recordArrival]
  have hx : arrive tx s = if s.session.asleep then raiseEvent .busAnomaly y else y := by
    unfold arrive
    rw [if_neg (by simp [hr])]
    rfl
  have hself : PortAsks y.port y := ⟨y.port.waitEngine, y.port.waitWake, rfl⟩
  rw [hx]
  split
  · refine ⟨(near_recordArrival tx s).raiseEvent .busAnomaly, by simp, (keptByEvents_portAsks _).raiseEvent _ hself,
      (raiseEvent_waitEngine _ _).1, ?_⟩
    rw [raiseEvent_serving, hy.2]
  · exact ⟨near_recordArrival tx s, rfl, hself, rfl, by rw [hy.2]⟩

/-! ### The grant (R145, R156, R157) -/

theorem grantEngine_port (a : EngineAccess) (s : State) :
    (grantEngine a s).port.access = .engine a ∧ (grantEngine a s).port.starvation = 0 ∧ (grantEngine a s).port.waitEngine = none := by
  unfold grantEngine
  dsimp only
  (repeat' split) <;> simp [judgeHolds_waitEngine]

/-- A transaction that waits at the grant of an engine access goes on waiting, or is held for the record that the access begins. -/
theorem grantEngine_waiting (a : EngineAccess) {s : State} {tx : Transaction} (hw : s.port.waitPass = some tx) (hn : s.path.held = none) :
    (grantEngine a s).port.waitPass = some tx ∨ (grantEngine a s).path.held = some tx := by
  have hj : ∀ t : State, t.port.waitPass = some tx → t.path.held = none →
      (judgeHolds t).port.waitPass = some tx ∨ (judgeHolds t).path.held = some tx := fun t h1 h2 => by
    unfold judgeHolds
    rw [h2, h1]
    dsimp only
    split
    · exact .inr rfl
    · exact .inl h1
  unfold grantEngine
  dsimp only
  split
  · exact .inl hw
  · split
    · exact .inl hw
    · exact hj _ hw hn

theorem txTouches_append {tx : Transaction} {rs : List RecordRange} (r : RecordRange) (h : txTouches tx rs = true) :
    txTouches tx (rs ++ [r]) = true := by
  simp only [txTouches, List.any_eq_true] at h ⊢
  obtain ⟨a, ha, hr⟩ := h
  exact ⟨a, ha, by simp [hr]⟩

theorem grantEngine_holding (a : EngineAccess) {s : State} {tx : Transaction} (hn : s.path.held = some tx) (hw : s.port.waitPass = none)
    (ht : txTouches tx s.path.underWrite = true) :
    (grantEngine a s).path.held = some tx ∧ (grantEngine a s).port.waitPass = none := by
  unfold grantEngine
  dsimp only
  split
  · exact ⟨hn, hw⟩
  · rename_i r _
    split
    · exact ⟨hn, hw⟩
    · have hj : judgeHolds ((s.modPort fun q => { q with access := .engine a, waitEngine := none, starvation := 0 }).modPath fun p =>
          { p with underWrite := p.underWrite ++ [r] }) =
          (s.modPort fun q => { q with access := .engine a, waitEngine := none, starvation := 0 }).modPath fun p =>
            { p with underWrite := p.underWrite ++ [r] } := by
        simp [judgeHolds, hn, txTouches_append r ht]
      rw [hj]
      exact ⟨hn, hw⟩

/-- A held read stays held at the end of a row. -/
theorem portSettle_holding {s : State} {tx : Transaction} (hn : s.path.held = some tx) (hw : s.port.waitPass = none)
    (ht : txTouches tx s.path.underWrite = true) :
    (portSettle s).path.held = some tx ∧ (portSettle s).port.waitPass = none := by
  have hx : (beginExit s).path = s.path ∧ (beginExit s).port.waitPass = s.port.waitPass := by
    unfold beginExit
    split <;> simp
  have hg : ∀ t : State, t.path.held = some tx → t.port.waitPass = none → txTouches tx t.path.underWrite = true →
      (grant t).path.held = some tx ∧ (grant t).port.waitPass = none := fun t h1 h2 h3 => by
    unfold grant
    rw [h2]
    split
    · split
      · rename_i k _
        cases k
      · rename_i k _
        cases k
      · exact grantEngine_holding _ h1 h2 h3
      · exact ⟨h1, h2⟩
    · exact ⟨h1, h2⟩
  have hgranted := hg (beginExit s) (by rw [hx.1]; exact hn) (by rw [hx.2]; exact hw) (by rw [hx.1]; exact ht)
  rw [portSettle, beginEntry_port, (by simp : (beginEntry (grant (beginExit s))).path = (grant (beginExit s)).path)]
  exact hgranted

theorem grantPass_port (tx : Transaction) (n : Nat) (s : State) :
    (grantPass tx n s).port = { s.port with access := .pass tx, waitPass := none, starvation := n } := rfl

/-- The grant of a waiting transaction (R156), the starvation count raised where the engine waits (R157). -/
theorem grant_pass {s : State} {tx : Transaction} (hr : s.port.retention = .active) (ha : s.port.access = .noAccess)
    (hw : s.port.waitPass = some tx) (hs : s.port.starvation < 4) :
    (grant s).port.access = .pass tx ∧ (grant s).port.waitPass = none ∧
      ∀ a, s.port.waitEngine = some a →
        (grant s).port.starvation = s.port.starvation + 1 ∧ (grant s).port.waitEngine = some a := by
  unfold grant
  rw [if_pos ⟨hr, ha⟩, hw]
  cases he : s.port.waitEngine with
  | none => exact ⟨rfl, rfl, fun a h => by cases h⟩
  | some b =>
    simp only [hs, if_true, grantPass_port]
    exact ⟨trivial, trivial, fun a h => by cases h; exact ⟨trivial, he⟩⟩

/-- What an ACTIVE port has done at the end of a row is its grant, the retention apart. -/
theorem portSettle_granted {s : State} (hr : s.port.retention = .active) :
    (portSettle s).port = { (grant s).port with retention := (portSettle s).port.retention } ∧ (portSettle s).path = (grant s).path := by
  refine ⟨(portSettle_of_active hr).1, ?_⟩
  have hx : beginExit s = s := by simp [beginExit, hr]
  rw [portSettle, hx, (by simp : (beginEntry (grant s)).path = (grant s).path)]

/-- What the waiting of one transaction, or the holding of one, comes to at the end of the row (R145, R156, R157). -/
theorem finish_arrived (tx : Transaction) {s : State} (hr : s.pins.inReset = false) (ho : outstanding s = false) :
    let touches := txIsRead tx = true ∧ txTouches tx s.path.underWrite = true
    let t := finish (arrive tx s)
    (touches → NoIssue s → t.path.held = some tx ∧ t.port.waitPass = none) ∧
      (¬touches → s.port.retention = .active → s.port.access = .noAccess → s.port.starvation < 4 →
        t.port.access = .pass tx ∧ t.port.waitPass = none) ∧
      (NoIssue s → s.engine.service.isSome = true → ∀ a, s.port.waitEngine = some a → s.port.retention = .active →
        s.port.access = .noAccess →
        (¬touches → s.port.starvation < 4 →
          t.port.starvation = s.port.starvation + 1 ∧ t.port.waitEngine = some a) ∧
        (touches ∨ 4 ≤ s.port.starvation →
          t.port.access = .engine a ∧ t.port.starvation = 0 ∧ t.port.waitEngine = none ∧
            (¬touches → t.port.waitPass = some tx ∨ t.path.held = some tx))) ∧
      (¬touches → s.port.retention = .active → ∀ a, s.port.access = .engine a →
        t.port.access = .engine a ∧ t.port.waitPass = some tx ∧ t.path.held = none) ∧
      (¬touches → s.port.retention = .retained → t.port.retention = .exiting ∧ t.port.waitPass = some tx) ∧
      (¬touches → s.port.retention = .entering ∨ s.port.retention = .exiting →
        t.port.retention = s.port.retention ∧ t.port.waitPass = some tx) := by
  intro touches t
  obtain ⟨hheld, hwait, hpass⟩ := free_of_not_outstanding ho
  obtain ⟨x, hx⟩ : ∃ x, x = arrive tx s := ⟨_, rfl⟩
  obtain ⟨hn, hpath, ⟨e, w, hport⟩, hengine, hserving⟩ := arrive_of_running tx hr
  rw [← hx] at hn hpath hport hengine hserving
  obtain ⟨y, hy⟩ : ∃ y, y = settle x := ⟨_, rfl⟩
  have ht : t = portSettle y := by rw [hy, hx]; rfl
  have hrec : (recordArrival tx s).port = { s.port with waitPass := (recordArrival tx s).port.waitPass } := by
    unfold recordArrival
    rw [judgeHolds_port]
    rfl
  have hxport : x.port = { s.port with waitPass := (recordArrival tx s).port.waitPass, waitEngine := e, waitWake := w } := by
    rw [hport, hrec]
  have hxe : x.port.waitEngine = s.port.waitEngine := by rw [hengine, hrec]
  obtain ⟨hret, -, haccess⟩ := settle_port x
  rw [← hy] at hret haccess
  have hyret : y.port.retention = s.port.retention := by rw [hret, hxport]
  have hyaccess : y.port.access = s.port.access := by rw [haccess, hxport]
  have hcount : y.port.starvation ≤ s.port.starvation := hy ▸ settle_starvation (by rw [hxport])
  have hquiet : NoIssue s → y.path = x.path ∧ y.port.waitPass = x.port.waitPass ∧ y.port.starvation = s.port.starvation ∧
      (s.engine.service.isSome = true → y.port.waitEngine = s.port.waitEngine) := by
    intro hi
    have hrun : SameRun s x := by
      have h := hn.run
      split at h <;> exact ⟨h.sched, h.seg, h.expo⟩
    have hcache : x.cache = s.cache := by
      have h := hn.cache
      split at h <;> exact h
    obtain ⟨h1, ⟨e', w', h2⟩, h3⟩ := settle_quiet (hi.congr hrun hcache)
    rw [← hy] at h1 h2 h3
    exact ⟨h1, by rw [h2], by rw [h2, hxport], fun hs => (h3 (by rw [hserving]; exact hs)).1.trans hxe⟩
  rw [ht]
  by_cases hb : (txIsRead tx && txTouches tx s.path.underWrite) = true
  · have htouch : touches := by simpa [touches] using hb
    have hrp := recordArrival_of_touching tx hb hheld hwait
    have hheldx : x.path.held = some tx := by rw [hpath, hrp]; rfl
    have hwaitx : x.port.waitPass = none := by rw [hxport, hrp]; exact hwait
    have hunder : x.path.underWrite = s.path.underWrite := by rw [hpath, hrp]; rfl
    refine ⟨fun _ hi => ?_, fun h => absurd htouch h, fun hi hs a ha hr' hna => ⟨fun h => absurd htouch h, fun _ => ?_⟩,
      fun h => absurd htouch h, fun h => absurd htouch h, fun h => absurd htouch h⟩
    · obtain ⟨h1, h2, -⟩ := hquiet hi
      exact portSettle_holding (by rw [h1]; exact hheldx) (h2.trans hwaitx) (by rw [h1, hunder]; exact htouch.2)
    · obtain ⟨-, h2, -, h3⟩ := hquiet hi
      have hg := grant_engineAccess (hyret.trans hr') (hyaccess.trans hna) ((h3 hs).trans ha) (.inl (h2.trans hwaitx))
      obtain ⟨hp, -⟩ := portSettle_granted (hyret.trans hr')
      rw [hp, hg]
      obtain ⟨g1, g2, g3⟩ := grantEngine_port a y
      exact ⟨g1, g2, g3, fun h => absurd htouch h⟩
  · have hfree : (txIsRead tx && txTouches tx s.path.underWrite) = false := by simpa using hb
    have hnot : ¬touches := fun h => hb (by simpa using h)
    have hrp := recordArrival_of_free tx hfree hheld
    have hwaits : TransactionWaits tx y := hy ▸ settle_transactionWaits
      ⟨by rw [hxport, hrp]; rfl, by rw [hpath, hrp]; exact hheld, by rw [hpath, hrp]; exact hfree⟩
    obtain ⟨hyw, hyh, -⟩ := hwaits
    refine ⟨fun h => absurd h hnot, fun _ hr' hna hs => ?_, fun hi hs a ha hr' hna => ⟨fun _ hlt => ?_, fun h => ?_⟩,
      fun _ hr' a ha => ?_, fun _ hr' => ?_, fun _ hr' => ?_⟩
    · obtain ⟨hp, -⟩ := portSettle_granted (hyret.trans hr')
      obtain ⟨g1, g2, -⟩ := grant_pass (hyret.trans hr') (hyaccess.trans hna) hyw (by omega)
      rw [hp]
      exact ⟨g1, g2⟩
    · obtain ⟨-, -, h3, h4⟩ := hquiet hi
      obtain ⟨hp, -⟩ := portSettle_granted (hyret.trans hr')
      obtain ⟨-, -, hg⟩ := grant_pass (hyret.trans hr') (hyaccess.trans hna) hyw (by rw [h3]; exact hlt)
      obtain ⟨g1, g2⟩ := hg a ((h4 hs).trans ha)
      rw [hp]
      exact ⟨by rw [← h3]; exact g1, g2⟩
    · obtain ⟨-, -, h3, h4⟩ := hquiet hi
      have hfull : 4 ≤ y.port.starvation := by rw [h3]; exact h.resolve_left hnot
      have hg := grant_engineAccess (hyret.trans hr') (hyaccess.trans hna) ((h4 hs).trans ha) (.inr hfull)
      obtain ⟨hp, hq⟩ := portSettle_granted (hyret.trans hr')
      obtain ⟨g1, g2, g3⟩ := grantEngine_port a y
      rw [hp, hq, hg]
      exact ⟨g1, g2, g3, fun _ => grantEngine_waiting a hyw hyh⟩
    · rw [portSettle_of_busy (by rw [hyaccess, ha]; simp)]
      have hb : beginExit y = y := by simp [beginExit, hyret, hr']
      rw [hb]
      exact ⟨hyaccess.trans ha, hyw, hyh⟩
    · have hany : y.port.anyWaiting = true := (Port.anyWaiting_iff _).mpr (.inl (by simp [hyw]))
      obtain ⟨hp, -, hq⟩ := portSettle_of_retained (hyret.trans hr')
      refine ⟨by rw [hq, hany]; rfl, ?_⟩
      rw [hp]
      unfold beginExit
      split <;> simpa using hyw
    · have hp : portSettle y = y := hr'.elim (fun h => portSettle_of_entering (hyret.trans h)) fun h =>
        portSettle_of_exiting (hyret.trans h)
      rw [hp]
      exact ⟨hyret, hyw⟩

theorem issueOwed_of_none {s : State} (h : s.sched.owed = []) : issueOwed s = judgeRun s := by
  have hj : (judgeRun s).sched.owed = [] := by rw [(judgeRun_blocks s).1, ← h]
  unfold issueOwed issueFuel
  rw [Nat.add_succ, makeIssues]
  dsimp only
  rw [hj]
  split <;> rfl

/-- With no issue owed the transactions and the list of records under write stay. -/
theorem settle_unowed {s : State} (h : s.sched.owed = []) : (settle s).path = s.path ∧ PortAsks s.port (settle s) := by
  obtain ⟨m, hm⟩ : ∃ m, m = judgeRun (judgeRun s) := ⟨_, rfl⟩
  have he : settle s = beginService (judgeWakes (cacheSettle (freeBuffer m))) := by
    rw [hm, ← issueOwed_of_none h]
    rfl
  have hx : PortAsks s.port (cacheSettle (freeBuffer m)) := ⟨s.port.waitEngine, s.port.waitWake, by rw [hm]; simp⟩
  rw [he]
  exact ⟨by rw [hm]; simp, beginOnce_portAsks (beginOnce_portAsks (judgeWakes_portAsks hx))⟩

/-- A transaction that the port may grant is not held at the grant. -/
theorem portSettle_pass_path {s : State} {tx : Transaction} (hw : s.port.waitPass = some tx) (hs : s.port.starvation < 4) :
    (portSettle s).path = s.path := by
  have hx : (beginExit s).path = s.path ∧ (beginExit s).port.waitPass = s.port.waitPass ∧
      (beginExit s).port.starvation = s.port.starvation := by
    unfold beginExit
    split <;> simp
  obtain ⟨h1, h2, h3⟩ := hx
  have hg : (grant (beginExit s)).path = (beginExit s).path := by
    unfold grant
    rw [h2, hw, h3]
    split
    · cases (beginExit s).port.waitEngine with
      | none => rfl
      | some a => simp only [hs, if_true]; rfl
    · rfl
  rw [portSettle, (by simp : (beginEntry (grant (beginExit s))).path = (grant (beginExit s)).path), hg, h1]

/-- Settles O39: the arrival records the transaction, held or waiting, and the end of the row grants by the port's state and its
starvation count. -/
theorem arrivalWaitsOrIsHeld : Obligations.ArrivalWaitsOrIsHeld := by
  refine ⟨outstanding_iff, fun tx rs => ⟨txIsRead_iff tx, txTouches_iff tx rs⟩, fun tx s ho => ⟨fun hf => ?_, fun hf => ?_⟩,
    fun tx s hr ho => ?_, fun tx s hr ho howed _ _ _ hs => ?_⟩
  · have hrow : rowEffect (.passThroughArrival tx) s = s.modPath fun p => { p with following := some tx } :=
      makeTransaction_follows tx ho hf
    exact .of_effect (by rw [hrow]; exact .rfl' _)
  · have hrow : rowEffect (.passThroughArrival tx) s = s := makeTransaction_third tx ho hf
    exact .of_effect (by rw [hrow]; exact .rfl' _)
  · intro touches
    have hrow : rowEffect (.passThroughArrival tx) s = arrive tx s := makeTransaction_arrives tx ho
    obtain ⟨hn, -⟩ := arrive_of_running tx hr
    exact ⟨finish (arrive tx s), by rw [exec_eq, hrow], hn.follows (finish_follows _), finish_arrived tx hr ho⟩
  · have hrow : rowEffect (.passThroughArrival tx) s = arrive tx s := makeTransaction_arrives tx ho
    obtain ⟨hheld, -, -⟩ := free_of_not_outstanding ho
    obtain ⟨x, hx⟩ : ∃ x, x = arrive tx s := ⟨_, rfl⟩
    have hxe : x = s.modPort fun q => { q with waitPass := some tx } := by rw [hx, arrive, if_pos hr]
    obtain ⟨hpath, ⟨e, w, hport⟩⟩ := settle_unowed (s := x) (by rw [hxe]; exact howed)
    obtain ⟨y, hy⟩ : ∃ y, y = settle x := ⟨_, rfl⟩
    have ht : finish x = portSettle y := by rw [hy]; rfl
    rw [← hy] at hpath hport
    rw [hxe] at hpath hport
    have hyw : y.port.waitPass = some tx := by rw [hport]; rfl
    have hyret : y.port.retention = s.port.retention := by rw [hport]; rfl
    have hyaccess : y.port.access = s.port.access := by rw [hport]; rfl
    have hcount : y.port.starvation < 4 := by rw [hport]; exact hs
    refine ⟨finish x, by rw [exec_eq, hrow, hx], ?_, ?_, fun hr' hna => ?_, fun hr' => ?_, fun hr' => ?_⟩
    · rw [hx]
      exact (near_arrive tx (.inl hr)).follows (finish_follows _)
    · rw [ht, portSettle_pass_path hyw hcount, hpath]
      exact hheld
    · obtain ⟨g1, g2, -⟩ := grant_pass (hyret.trans hr') (hyaccess.trans hna) hyw hcount
      obtain ⟨hp, -⟩ := portSettle_granted (hyret.trans hr')
      rw [ht, hp]
      exact ⟨g1, g2⟩
    · have hany : y.port.anyWaiting = true := (Port.anyWaiting_iff _).mpr (.inl (by simp [hyw]))
      obtain ⟨hp, -, hq⟩ := portSettle_of_retained (hyret.trans hr')
      rw [ht]
      refine ⟨by rw [hq, hany]; rfl, ?_⟩
      rw [hp]
      unfold beginExit
      split <;> simpa using hyw
    · have hp : portSettle y = y := hr'.elim (fun h => portSettle_of_entering (hyret.trans h)) fun h =>
        portSettle_of_exiting (hyret.trans h)
      rw [ht, hp]
      exact ⟨hyret, hyw⟩

end Sys2Proof.Machine
end

section
/-! PROOFS. Bytes of memory after a write (R136, R150): the byte written where its byte enable is set, every other as it was. -/

namespace Sys2Proof.Machine

/-- The byte that lane `i` of a word leaves at its address. -/
def laneByte (m : List (Nat × RamByte)) (a : Nat) (w : BusWord) (i : Nat) : RamByte :=
  if w.enables.getLsbD i then BitVec.ofBool (w.parity.getLsbD i) ++ (w.data >>> (8 * i)).setWidth 8 else readRam m (a + i)

theorem readRam_writeLane_at {m : List (Nat × RamByte)} (h : ramWf m = true) (a : Nat) (w : BusWord) (i : Nat) :
    readRam (writeLane m a w i) (a + i) = laneByte m a w i := by
  unfold writeLane laneByte
  split
  · exact readRam_writeRam_same h _ _
  · rfl

theorem readRam_writeWord_at {m : List (Nat × RamByte)} (h : ramWf m = true) (a : Nat) (w : BusWord) {i : Nat} (hi : i < 4) :
    readRam (writeWord m a w) (a + i) = laneByte m a w i := by
  have lane : ∀ (n : List (Nat × RamByte)) (j : Nat), j ≠ i → readRam (writeLane n a w j) (a + i) = readRam n (a + i) := fun n j hj =>
    readRam_writeLane_other n w (by omega)
  have same : ∀ n : List (Nat × RamByte), readRam n (a + i) = readRam m (a + i) → laneByte n a w i = laneByte m a w i := fun n hn => by
    unfold laneByte
    rw [hn]
  have h0 := writeLane_wf h a w 0
  have h1 := writeLane_wf h0 a w 1
  have h2 := writeLane_wf h1 a w 2
  unfold writeWord
  rcases (by omega : i = 0 ∨ i = 1 ∨ i = 2 ∨ i = 3) with rfl | rfl | rfl | rfl
  · rw [lane _ 3 (by decide), lane _ 2 (by decide), lane _ 1 (by decide), readRam_writeLane_at h]
  · rw [lane _ 3 (by decide), lane _ 2 (by decide), readRam_writeLane_at h0, same _ (lane _ 0 (by decide))]
  · rw [lane _ 3 (by decide), readRam_writeLane_at h1, same _ ((lane _ 1 (by decide)).trans (lane _ 0 (by decide)))]
  · rw [readRam_writeLane_at h2,
      same _ ((lane _ 2 (by decide)).trans ((lane _ 1 (by decide)).trans (lane _ 0 (by decide))))]

/-- Words at addresses that lie apart. -/
def Apart (as : List Nat) : Prop := as.Pairwise fun a b => a + 4 ≤ b ∨ b + 4 ≤ a

theorem readRam_writeWords_at {m : List (Nat × RamByte)} (h : ramWf m = true) {as : List Nat} {ws : List BusWord} (hd : Apart as)
    {k a i : Nat} {w : BusWord} (ha : as[k]? = some a) (hw : ws[k]? = some w) (hi : i < 4) :
    readRam (writeWords m as ws) (a + i) = laneByte m a w i := by
  induction as generalizing m ws k with
  | nil => simp at ha
  | cons b as ih =>
    cases ws with
    | nil => simp at hw
    | cons v ws =>
      obtain ⟨hb, hrest⟩ := List.pairwise_cons.mp hd
      rw [writeWords]
      cases k with
      | zero =>
        obtain ⟨rfl⟩ : b = a := by simpa using ha
        obtain ⟨rfl⟩ : v = w := by simpa using hw
        rw [readRam_writeWords_other _ _ _ fun y hy => by have := hb y hy; omega, readRam_writeWord_at h _ _ hi]
      | succ k =>
        have ha' : as[k]? = some a := by simpa using ha
        have hw' : ws[k]? = some w := by simpa using hw
        have hmem : a ∈ as := List.mem_of_getElem? ha'
        have hout : readRam (writeWord m b v) (a + i) = readRam m (a + i) :=
          readRam_writeWord_other m v (by have := hb a hmem; omega)
        rw [ih (writeWord_wf h b v) hrest ha' hw']
        unfold laneByte
        rw [hout]

/-- The words of one transfer, at most eight, lie apart wherever it wraps. -/
theorem apart_wordAddrs (a : Addr) {n : Nat} (hn : n ≤ 8) : Apart (wordAddrs a n) := by
  rw [wordAddrs_eq, Apart, List.pairwise_map]
  refine List.Pairwise.imp_of_mem ?_ List.pairwise_lt_range
  intro j k hj hk hlt
  have hk := List.mem_range.mp hk
  have ha := a.isLt
  simp only [BitVec.toNat_add, BitVec.toNat_ofNat]
  omega

theorem getElem?_wordAddrs (a : Addr) {n k : Nat} (hk : k < n) :
    (wordAddrs a n)[k]? = some (a + BitVec.ofNat 24 (4 * k)).toNat := by
  simp [wordAddrs_eq, hk]

/-- A byte of a transfer of at most eight words, after its write. -/
theorem readRam_transfer {m : List (Nat × RamByte)} (h : ramWf m = true) (a : Addr) {n : Nat} (hn : n ≤ 8) {ws : List BusWord} {k : Nat}
    {w : BusWord} (hk : k < n) (hw : ws[k]? = some w) {i : Nat} (hi : i < 4) :
    readRam (writeWords m (wordAddrs a n) ws) ((a + BitVec.ofNat 24 (4 * k)).toNat + i) =
      laneByte m (a + BitVec.ofNat 24 (4 * k)).toNat w i :=
  readRam_writeWords_at h (apart_wordAddrs a hn) (getElem?_wordAddrs a hk) hw hi

end Sys2Proof.Machine
end

section
/-! PROOFS. An engine access completes (O42). -/

namespace Sys2Proof.Machine

/-! ### What the completion of a service leaves of the path, the port and the memory -/

/-- The memory, the list of records under write and the held read are those given, and the port but for the requests at it. -/
structure BusStands (a b : State) : Prop where
  ram        : b.ram = a.ram
  underWrite : b.path.underWrite = a.path.underWrite
  held       : b.path.held = a.path.held
  port       : PortAsks a.port b

theorem BusStands.of_frame {a b : State} (hr : b.ram = a.ram) (hp : b.path = a.path) (hq : b.port = a.port) : BusStands a b :=
  ⟨hr, by rw [hp], by rw [hp], ⟨a.port.waitEngine, a.port.waitWake, hq⟩⟩

theorem BusStands.trans {a b c : State} (h : BusStands a b) (k : BusStands b c) : BusStands a c := by
  obtain ⟨e, w, hp⟩ := h.port
  obtain ⟨e', w', hq⟩ := k.port
  exact ⟨k.ram.trans h.ram, k.underWrite.trans h.underWrite, k.held.trans h.held, ⟨e', w', by rw [hq, hp]⟩⟩

theorem BusStands.requestStatus {a b : State} (h : BusStands a b) : BusStands a (Machine.requestStatus b) :=
  h.trans (.of_frame (by simp) (by simp) (by simp))

theorem BusStands.judgeRun {a b : State} (h : BusStands a b) : BusStands a (Machine.judgeRun b) :=
  h.trans (.of_frame (by simp) (by simp) (by simp))

theorem busStands_raiseEvent (k : EventClass) (s : State) : BusStands s (raiseEvent k s) :=
  ⟨by simp, by simp, by simp, (keptByEvents_portAsks s.port).raiseEvent k ⟨s.port.waitEngine, s.port.waitWake, rfl⟩⟩

theorem busStands_fetchFailed (n : Nat) (r : FaultReason) (s : State) : BusStands s (fetchFailed n r s) := by
  unfold fetchFailed
  generalize hy : setPlanFault n r _ = y
  have hs : BusStands s y := hy ▸ .of_frame rfl rfl rfl
  exact (hs.trans (busStands_raiseEvent .planFault y)).requestStatus

theorem busStands_fetchDone (ws : List BusWord) (s : State) : BusStands s (fetchDone ws s) := by
  unfold fetchDone
  split
  · exact .of_frame rfl rfl rfl
  · have hunfetched : BusStands s (s.modCache fun c => { c with fetch := none }) := .of_frame rfl rfl rfl
    dsimp only
    split
    · exact .of_frame rfl rfl rfl
    · split
      · exact .of_frame rfl rfl rfl
      · split
        · exact .of_frame (by simp) (by simp) (by simp)
        · split
          · exact .of_frame (by simp) (by simp) (by simp)
          · split
            · exact (hunfetched.trans (busStands_fetchFailed _ _ _)).judgeRun
            · exact .of_frame (by simp) (by simp) (by simp)

theorem busStands_decideConfigure (ws : List BusWord) (s : State) : BusStands s (decideConfigure ws s) := by
  unfold decideConfigure
  split
  · exact .of_frame (by simp) (by simp) (by simp)
  · rename_i b _
    have hw : BusStands s (changePlanWindow b.1.plan (decideLong b.2 s)) := by
      unfold changePlanWindow
      split <;> exact .of_frame (by simp) (by simp) (by simp)
    unfold applyConfig
    dsimp only
    generalize hx : State.modConfig _ _ = x
    have hxs : BusStands s x := by
      subst hx
      exact hw.trans ⟨rfl, rfl, rfl, ⟨_, _, rfl⟩⟩
    split
    · exact hxs.trans (.of_frame (by simp) (by simp) (by simp))
    · exact hxs

theorem busStands_statusWritten (sv : Service) (s : State) : BusStands s (statusWritten sv s) := by
  unfold statusWritten
  dsimp only
  (repeat' split) <;> exact .of_frame (by simp) (by simp) (by simp)

theorem busStands_logWritten (s : State) : BusStands s (logWritten s) := by
  unfold logWritten
  split <;> exact .of_frame (by simp) (by simp) (by simp)

theorem busStands_serviceDone (sv : Service) (ws : List BusWord) (s : State) : BusStands s (serviceDone sv ws s) := by
  unfold serviceDone
  split
  · exact .of_frame rfl rfl rfl
  · exact busStands_statusWritten sv s
  · exact busStands_logWritten s
  · exact busStands_fetchDone ws s
  · exact busStands_decideConfigure ws s

/-! ### The access itself (R158) -/

/-- The state once the RAM has done an engine access: memory, the free port, the group's copy. -/
def accessDone (a : EngineAccess) (s : State) : State :=
  { s with
    ram := if a.write then writeWords s.ram a.addrs a.words else s.ram
    port := { s.port with access := .noAccess }
    engine := s.engine.groupWritten a }

/-- The same with a commit access's record out of the list of records under write (R164). -/
def accessCommitted (a : EngineAccess) (s : State) : State :=
  if a.commit then leaveList a.record (accessDone a s) else accessDone a s

theorem groupWritten_service (e : Engine) (a : EngineAccess) :
    (e.groupWritten a).service = e.service ∧ (e.groupWritten a).waiting = e.waiting ∧ (e.groupWritten a).producer = e.producer := by
  unfold Engine.groupWritten
  split <;> exact ⟨rfl, rfl, rfl⟩

theorem leaveList_engine (r : Option RecordRange) (s : State) : (leaveList r s).engine = s.engine := by simp

theorem accessCommitted_engine (a : EngineAccess) (s : State) : (accessCommitted a s).engine = s.engine.groupWritten a := by
  unfold accessCommitted
  split
  · rw [leaveList_engine]; rfl
  · rfl

theorem engineComplete_eq (a : EngineAccess) (s : State) :
    engineComplete a s =
      match s.engine.service with
      | none => accessCommitted a s
      | some sv => serviceAfter sv a (engineWords a s) (accessCommitted a s) := by
  have hd : ((engineRam a s).modPort fun q => { q with access := .noAccess }).modEngine (fun e => e.groupWritten a) = accessDone a s := by
    unfold engineRam accessDone
    split <;> simp [*, State.modRam, State.modPort, State.modEngine]
  have hs : (accessCommitted a s).engine.service = s.engine.service := by
    rw [accessCommitted_engine, (groupWritten_service _ _).1]
  unfold engineComplete
  dsimp only
  rw [hd]
  show (match (accessCommitted a s).engine.service with | none => _ | some sv => _) = _
  rw [hs]
  cases s.engine.service <;> rfl

theorem judgeHolds_underWrite (s : State) : (judgeHolds s).path.underWrite = s.path.underWrite := by
  unfold judgeHolds
  (repeat' split) <;> simp

theorem leaveList_underWrite (r : RecordRange) (s : State) :
    (leaveList (some r) s).path.underWrite = s.path.underWrite.filter (· ≠ r) := by
  show (judgeHolds _).path.underWrite = _
  rw [judgeHolds_underWrite]
  rfl

theorem leaveList_subset {r : RecordRange} {q : Option RecordRange} {s : State} (h : r ∉ s.path.underWrite) :
    r ∉ (leaveList q s).path.underWrite := by
  cases q with
  | none => exact h
  | some p =>
    rw [leaveList_underWrite]
    exact fun hm => h (List.mem_filter.mp hm).1

theorem leaveList_transactionWaits {tx : Transaction} (r : Option RecordRange) {s : State} (h : TransactionWaits tx s) :
    TransactionWaits tx (leaveList r s) := by
  cases r with
  | none => exact h
  | some r =>
    obtain ⟨hw, hn, ht⟩ := h
    have hx : TransactionWaits tx (s.modPath fun p => { p with underWrite := p.underWrite.filter (· ≠ r) }) :=
      ⟨hw, hn, txTouches_filter _ ht⟩
    rw [leaveList, judgeHolds_of_waits hx]
    exact hx

theorem judgeHolds_releases {tx : Transaction} {s : State} (h : s.path.held = some tx) (ht : txTouches tx s.path.underWrite = false) :
    TransactionWaits tx (judgeHolds s) := by
  have hj : judgeHolds s = (s.modPath fun p => { p with held := none }).modPort fun q => { q with waitPass := some tx } := by
    simp [judgeHolds, h, ht]
  rw [hj]
  exact ⟨rfl, rfl, by simp [ht]⟩

/-- A held read that touches no other record is released (R145). -/
theorem leaveList_releases {tx : Transaction} {r : RecordRange} {s : State} (h : s.path.held = some tx)
    (ht : txTouches tx (s.path.underWrite.filter (· ≠ r)) = false) : TransactionWaits tx (leaveList (some r) s) :=
  judgeHolds_releases (s := s.modPath fun p => { p with underWrite := p.underWrite.filter (· ≠ r) }) h ht

theorem BusStands.transactionWaits {a b : State} {tx : Transaction} (h : BusStands a b) (k : TransactionWaits tx a) :
    TransactionWaits tx b := by
  obtain ⟨e, w, hp⟩ := h.port
  obtain ⟨k1, k2, k3⟩ := k
  exact ⟨by rw [hp]; exact k1, h.held.trans k2, by rw [h.underWrite]; exact k3⟩

/-- The port when an engine access is done: free, its retention and its starvation count as they were. -/
def PortFreed (q : Port) (s : State) : Prop :=
  s.port.retention = q.retention ∧ s.port.exitAfterEntry = q.exitAfterEntry ∧ s.port.access = .noAccess ∧ s.port.starvation = q.starvation

theorem PortFreed.leaveList {q : Port} {s : State} (r : Option RecordRange) (h : PortFreed q s) : PortFreed q (leaveList r s) := by
  unfold PortFreed
  rw [leaveList_port]
  exact h

theorem PortFreed.busStands {q : Port} {a b : State} (h : PortFreed q a) (k : BusStands a b) : PortFreed q b := by
  obtain ⟨e, w, hp⟩ := k.port
  unfold PortFreed
  rw [hp]
  exact h

theorem askForAccess_portFreed {q : Port} {s : State} (h : PortFreed q s) : PortFreed q (askForAccess s) := by
  unfold askForAccess
  split <;> exact h

theorem serviceAfter_freed {q : Port} (sv : Service) (a : EngineAccess) (ws : List BusWord) {s : State} (h : PortFreed q s) :
    PortFreed q (serviceAfter sv a ws s) := by
  unfold serviceAfter
  split
  · exact PortFreed.leaveList _ h
  · split
    · exact PortFreed.busStands (a := s.modEngine fun e => { e with service := none }) h (busStands_serviceDone sv _ _)
    · exact askForAccess_portFreed h

theorem accessCommitted_freed (a : EngineAccess) (s : State) : PortFreed s.port (accessCommitted a s) := by
  have h : PortFreed s.port (accessDone a s) := ⟨rfl, rfl, rfl, rfl⟩
  unfold accessCommitted
  split
  · exact h.leaveList _
  · exact h

theorem engineComplete_freed (a : EngineAccess) (s : State) : PortFreed s.port (engineComplete a s) := by
  rw [engineComplete_eq]
  split
  · exact accessCommitted_freed a s
  · exact serviceAfter_freed _ a _ (accessCommitted_freed a s)

/-- What an engine access leaves in memory (R150). -/
theorem engineComplete_ram (a : EngineAccess) (s : State) :
    (engineComplete a s).ram = if a.write then writeWords s.ram a.addrs a.words else s.ram := by
  have hc : (accessCommitted a s).ram = if a.write then writeWords s.ram a.addrs a.words else s.ram := by
    unfold accessCommitted
    split
    · simp [accessDone]
    · rfl
  have ha : ∀ sv ws (t : State), (serviceAfter sv a ws t).ram = t.ram := fun sv ws t => by
    unfold serviceAfter
    split
    · simp
    · split
      · exact (busStands_serviceDone sv _ _).ram
      · simp
  rw [engineComplete_eq]
  split
  · exact hc
  · rw [ha, hc]

/-- The record of a commit access, or of a service that was ended, leaves the list, and the read held for it alone waits at the port. -/
theorem engineComplete_leaves {a : EngineAccess} {s : State} {r : RecordRange} (hr : a.record = some r)
    (h : a.commit = true ∨ ∃ sv, s.engine.service = some sv ∧ sv.ended = true) :
    r ∉ (engineComplete a s).path.underWrite ∧
      ∀ tx, s.path.held = some tx → txTouches tx (s.path.underWrite.filter (· ≠ r)) = false → TransactionWaits tx (engineComplete a s) := by
  have hdone : (accessDone a s).path = s.path := rfl
  have hleft : ∀ t : State, r ∉ (leaveList (some r) t).path.underWrite := fun t => by
    rw [leaveList_underWrite]
    exact fun hm => by simpa using (List.mem_filter.mp hm).2
  rw [engineComplete_eq]
  by_cases hc : a.commit = true
  · have hu : accessCommitted a s = leaveList (some r) (accessDone a s) := by rw [accessCommitted, if_pos hc, hr]
    have hout : r ∉ (accessCommitted a s).path.underWrite := hu ▸ hleft _
    have hwaits : ∀ tx, s.path.held = some tx → txTouches tx (s.path.underWrite.filter (· ≠ r)) = false →
        TransactionWaits tx (accessCommitted a s) := fun tx h1 h2 => hu ▸ leaveList_releases h1 h2
    split
    · exact ⟨hout, hwaits⟩
    · rename_i sv _
      unfold serviceAfter
      split
      · exact ⟨leaveList_subset hout, fun tx h1 h2 => leaveList_transactionWaits _ (hwaits tx h1 h2)⟩
      · split
        · have hb := busStands_serviceDone sv (sv.got ++ engineWords a s)
            ((accessCommitted a s).modEngine fun e => { e with service := none })
          exact ⟨by rw [hb.underWrite]; exact hout, fun tx h1 h2 => hb.transactionWaits (hwaits tx h1 h2)⟩
        · have hp : ∀ t : State, (askForAccess t).path = t.path ∧ (askForAccess t).port.waitPass = t.port.waitPass := fun t => by
            unfold askForAccess
            split <;> exact ⟨rfl, rfl⟩
          refine ⟨by rw [(hp _).1]; exact hout, fun tx h1 h2 => ?_⟩
          obtain ⟨k1, k2, k3⟩ := hwaits tx h1 h2
          exact ⟨by rw [(hp _).2]; exact k1, by rw [(hp _).1]; exact k2, by rw [(hp _).1]; exact k3⟩
  · obtain ⟨sv, hv, he⟩ := h.resolve_left hc
    have hu : accessCommitted a s = accessDone a s := by rw [accessCommitted, if_neg hc]
    rw [hv]
    simp only [serviceAfter, he, if_true, hr, hu]
    exact ⟨hleft _, fun tx h1 h2 => leaveList_releases h1 h2⟩

/-- The service's last access, and one with another to follow (R163). -/
theorem engineComplete_last {a : EngineAccess} {s : State} {sv : Service} (hv : s.engine.service = some sv) (ht : sv.todo = [a])
    (he : sv.ended = false) :
    engineComplete a s =
      serviceDone sv (sv.got ++ engineWords a s) ((accessCommitted a s).modEngine fun e => { e with service := none }) := by
  rw [engineComplete_eq, hv]
  simp [serviceAfter, he, ht]

theorem engineComplete_next {a next : EngineAccess} {rest : List EngineAccess} {s : State} {sv : Service}
    (hv : s.engine.service = some sv) (ht : sv.todo = a :: next :: rest) (he : sv.ended = false) :
    engineComplete a s =
      askForAccess ((accessCommitted a s).modEngine fun e =>
        { e with service := some { sv with todo := next :: rest, got := sv.got ++ engineWords a s } }) := by
  rw [engineComplete_eq, hv]
  simp [serviceAfter, he, ht]

theorem accessCommitted_table (a : EngineAccess) (s : State) : (accessCommitted a s).path.table = s.path.table := by
  unfold accessCommitted
  split <;> simp [accessDone]

theorem log_of_table {p q : Path} (h : q.table = p.table) : q.log = p.log := by
  have hl : q.table.log = p.table.log := by rw [h]
  exact hl

theorem logWritten_of_capacity {s : State} {n : Nat} (h : s.path.capacity = some n) :
    logWritten s = requestStatus (s.modEngine fun e => { e with producer := (e.producer + 1) % n }) := by
  rw [logWritten, h]

theorem requestStatus_producer (s : State) : (requestStatus s).engine.producer = s.engine.producer :=
  congrArg Prod.fst (by simp : (requestStatus s).engine.kept = s.engine.kept)

/-- The commit access of a log record advances the producer index (R169). -/
theorem engineComplete_log {a : EngineAccess} {s : State} {sv : Service} {l : LogContent} {v : Window} (hv : s.engine.service = some sv)
    (hl : sv.request = .log l) (ht : sv.todo = [a]) (he : sv.ended = false) (hw : s.path.log = some v) :
    (engineComplete a s).engine.producer = (s.engine.producer + 1) % min ((v.limit - v.base + 1) / 32) 4096 ∧
      StatusStands (engineComplete a s) := by
  obtain ⟨u, hu⟩ : ∃ u, u = (accessCommitted a s).modEngine fun e => { e with service := none } := ⟨_, rfl⟩
  have hcap : u.path.capacity = some (min ((v.limit - v.base + 1) / 32) 4096) := by
    have hlog : u.path.log = some v := by rw [hu]; exact (log_of_table (accessCommitted_table a s)).trans hw
    simp [Path.capacity, hlog, Window.logCapacity]
  have hproducer : u.engine.producer = s.engine.producer := by
    rw [hu]
    show (accessCommitted a s).engine.producer = _
    rw [accessCommitted_engine, (groupWritten_service _ _).2.2]
  have hx : engineComplete a s = logWritten u := by
    rw [engineComplete_last hv ht he, ← hu]
    simp [serviceDone, hl]
  rw [hx, logWritten_of_capacity hcap]
  refine ⟨?_, requestStatus_stands _⟩
  rw [requestStatus_producer, ← hproducer]
  rfl

theorem askForAccess_engine (s : State) : (askForAccess s).engine = s.engine ∧ (askForAccess s).path = s.path := by
  unfold askForAccess
  split <;> exact ⟨rfl, rfl⟩

/-! ### The list of records under write at the end of a row (R144) -/

theorem grantEngine_underWrite (a : EngineAccess) (s : State) (r : RecordRange) :
    r ∈ (grantEngine a s).path.underWrite ↔ r ∈ s.path.underWrite ∨ a.record = some r := by
  unfold grantEngine
  dsimp only
  cases hr : a.record with
  | none => simp
  | some q =>
    dsimp only
    split
    · rename_i hq
      have hq : q ∈ s.path.underWrite := hq
      refine ⟨fun h => .inl h, fun h => h.elim id fun he => ?_⟩
      obtain ⟨rfl⟩ : q = r := by simpa using he
      exact hq
    · rw [judgeHolds_underWrite]
      simp [eq_comm]

/-- A free port that ends a row has made at most one grant, and an engine grant begins its record. -/
theorem portSettle_underWrite {s : State} (ha : s.port.access = .noAccess) (r : RecordRange) :
    (r ∈ (portSettle s).path.underWrite ↔
      r ∈ s.path.underWrite ∨ ∃ b, (portSettle s).port.access = .engine b ∧ b.record = some r) := by
  have hx : (beginExit s).path = s.path ∧ (beginExit s).port.access = s.port.access := by
    unfold beginExit
    split <;> simp
  obtain ⟨h1, h2⟩ := hx
  have hg : ∀ t : State, t.port.access = .noAccess →
      (r ∈ (grant t).path.underWrite ↔ r ∈ t.path.underWrite ∨ ∃ b, (grant t).port.access = .engine b ∧ b.record = some r) := by
    intro t ht
    have hnone : ∀ tx n, r ∈ (grantPass tx n t).path.underWrite ↔
        r ∈ t.path.underWrite ∨ ∃ b, (grantPass tx n t).port.access = .engine b ∧ b.record = some r := fun tx n => by
      simp [grantPass]
    have hsome : ∀ a, r ∈ (grantEngine a t).path.underWrite ↔
        r ∈ t.path.underWrite ∨ ∃ b, (grantEngine a t).port.access = .engine b ∧ b.record = some r := fun a => by
      rw [grantEngine_underWrite, grantEngine_access]
      simp
    unfold grant
    split
    · split
      · split
        · exact hnone _ _
        · exact hsome _
      · exact hnone _ _
      · exact hsome _
      · simp [ht]
    · simp [ht]
  have hp := beginEntry_port (grant (beginExit s))
  rw [portSettle, hp, (by simp : (beginEntry (grant (beginExit s))).path = (grant (beginExit s)).path),
    hg (beginExit s) (h2.trans ha), h1]

theorem settle_underWrite {r : RecordRange} {s : State} (h : r ∉ s.path.underWrite) : r ∉ (settle s).path.underWrite :=
  (keptBySettling_of_port (P := fun s => r ∉ s.path.underWrite) (fun h _ hp => by rw [hp]; exact h) (fun _ h => h) (fun _ h => h)
    (fun h => h) fun _ h => leaveList_subset h).settle h

/-- Settles O42: the access as the RAM has done it, the service that goes on, and the grant that follows. -/
theorem engineAccessCompletes : Obligations.EngineAccessCompletes := by
  intro s
  refine ⟨fun a => wordAddrs_eq _ _, fun a ha => ?_, fun hn => ?_⟩
  · obtain ⟨x, hx⟩ : ∃ x, x = engineComplete a s := ⟨_, rfl⟩
    have hrow : rowEffect .engineAccessComplete s = x := by simp [rowEffect, engineCompleteNow, ha, hx]
    have hram : (finish x).ram = if a.write then writeWords s.ram a.addrs a.words else s.ram := by
      rw [(finish_fixed x).ram, hx, engineComplete_ram]
    obtain ⟨hret, hexit, hfree, hcount⟩ := engineComplete_freed a s
    rw [← hx] at hret hexit hfree hcount
    obtain ⟨y, hy⟩ : ∃ y, y = settle x := ⟨_, rfl⟩
    have ht : finish x = portSettle y := by rw [hy]; rfl
    obtain ⟨hyret, -, hyaccess⟩ := settle_port x
    rw [← hy] at hyret hyaccess
    have hyfree : y.port.access = .noAccess := hyaccess.trans hfree
    refine ⟨finish x, by rw [exec_eq, hrow], hram, fun hcanon hw hlen k w hk hwk i hi => ?_, fun hr => ?_, fun z hz => ?_,
      fun sv l v hv hl htodo he _ hlog => ?_, fun sv g next rest hv htodo he hg => ?_, fun b hb r hr => ?_, fun r hr hleft => ⟨fun hm => ?_,
      fun tx hheld htouch hract hs => ?_⟩, fun sv next rest hv htodo he hc hi r hm => ?_⟩
    · rw [hram, if_pos hw]
      exact readRam_transfer hcanon _ hlen hk hwk hi
    · rw [ht]
      exact (portSettle_of_active (hyret.trans (hret.trans hr))).2
    · rw [hram]
      split
      · rename_i hw
        exact readRam_writeWords_other _ _ _ (hz hw)
      · rfl
    · obtain ⟨hproducer, hstands⟩ := engineComplete_log hv hl htodo he hlog
      rw [← hx] at hproducer hstands
      have hkept : (finish x).engine.producer = x.engine.producer := congrArg Prod.fst (finish_kept x)
      exact ⟨hkept.trans hproducer, finish_stands hstands⟩
    · have hxe : x.engine.copies = s.engine.copies.set g (some (a.words.map BusWord.data)) ∧ x.engine.dirty = s.engine.dirty.set g false := by
        rw [hx, engineComplete_next hv htodo he, (askForAccess_engine _).1]
        show (accessCommitted a s).engine.copies = _ ∧ (accessCommitted a s).engine.dirty = _
        rw [accessCommitted_engine]
        simp [Engine.groupWritten, hg]
      have hkept := finish_kept x
      have hcopies : (finish x).engine.copies = x.engine.copies := congrArg (fun k => k.2.1) hkept
      have hdirty : (finish x).engine.dirty = x.engine.dirty := congrArg (fun k => k.2.2) hkept
      exact ⟨hcopies.trans hxe.1, hdirty.trans hxe.2⟩
    · rw [ht] at hb ⊢
      exact (portSettle_underWrite hyfree r).mpr (.inr ⟨b, hb, hr⟩)
    · obtain ⟨hout, -⟩ := engineComplete_leaves hr hleft
      rw [ht] at hm ⊢
      exact ((portSettle_underWrite hyfree r).mp hm).resolve_left (hy ▸ settle_underWrite (hx ▸ hout))
    · obtain ⟨-, hwaits⟩ := engineComplete_leaves hr hleft
      have hyw : TransactionWaits tx y := hy ▸ settle_transactionWaits (hx ▸ hwaits tx hheld htouch)
      have hycount : y.port.starvation < 4 := by
        have h := settle_starvation (s := x) (n := s.port.starvation) (by omega)
        rw [← hy] at h
        omega
      obtain ⟨hyp, hyh, -⟩ := hyw
      have hact := hyret.trans (hret.trans hract)
      obtain ⟨hp, hq⟩ := portSettle_granted hact
      obtain ⟨g1, g2, -⟩ := grant_pass hact hyfree hyp hycount
      rw [ht]
      refine ⟨by rw [hp]; exact g1, ?_, by rw [hp]; exact g2⟩
      rw [portSettle_pass_path hyp hycount]
      exact hyh
    · obtain ⟨hpath, hsched, hseg, hexpo, hcache⟩ : x.path = s.path ∧ x.sched = s.sched ∧ x.seg = s.seg ∧ x.expo = s.expo ∧
          x.cache = s.cache := by
        rw [hx, engineComplete_next hv htodo he]
        simp [accessCommitted, hc, accessDone]
      obtain ⟨hq, -⟩ := settle_quiet (hi.congr ⟨hsched, hseg, hexpo⟩ hcache)
      rw [← hy] at hq
      rw [ht]
      exact (portSettle_underWrite hyfree r).mpr (.inl (by rw [hq, hpath]; exact hm))
  · have hrow : rowEffect .engineAccessComplete s = s := by
      unfold rowEffect engineCompleteNow
      cases ha : s.port.access with
      | noAccess => rfl
      | pass tx => rfl
      | engine a => exact absurd ha (hn a)
    exact .of_effect (by rw [hrow]; exact .rfl' s)

end Sys2Proof.Machine
end

section
/-! PROOFS. A burst of STAT words whose last word has no role (O40). -/

namespace Sys2Proof.Machine

/-- The STAT window of the counterexample. -/
def strayStat : Window := { base := 0x10000, limit := 0x10FFF }

/-- A CONFIG_READ waits with no service in hand, a FAULT entry awaits its refetch, and a burst of two words is in progress: the closing word
of STAT, at index 33, and the word behind it, which has no role (R69). -/
def strayBurst : State :=
  { State.reset with
    path := { State.reset.path with stat := some strayStat }
    port :=
      { Port.reset with
        retention := .active, access := .pass { addr := 0x10084, transfer := .write [goodWord 0, goodWord 0] } }
    engine := { Engine.reset with waiting := [.configRead] }
    cache := { PlanCache.reset with entries := [{ newEntry 0 with state := .fault, awaiting := true }] } }

/-- The request whose service an outcome leaves in hand. -/
def servedAfter : Host.Outcome State Fault Refusal → Option Request
  | .next t => t.engine.service.map Service.request
  | _ => none

/-- The completion does what follows the closing word before the word behind it, and the fetch wanted after that word: the CONFIG_READ
is then in service. -/
theorem strayBurst_completion : servedAfter (exec .passThroughCompletion strayBurst) = some .configRead := by decide

/-- The closing word's row, on the state with the words in memory, requests the fetch before the engine chooses. -/
theorem strayBurst_row :
    servedAfter (exec (.statClosingWord (goodWord 0)) (written 0x10084 [goodWord 0, goodWord 0] strayBurst)) =
      some (.planFetch 0 0) := by decide

/-- Refutes O40: a word without a role behind a closing word separates that word's row from the end of the step. The engine chooses at
once (R163) and again after the fetch is requested, so that a CONFIG_READ that waits is served before the PLAN_FETCH; the closing word's
row by itself requests the fetch first, which the engine then prefers. -/
theorem not_passThroughAccessCompletes : ¬ Obligations.PassThroughAccessCompletes := by
  intro h
  obtain ⟨-, -, -, -, -, -, -, hwindows⟩ := h
  have hrow := hwindows 0x10084 [goodWord 0, goodWord 0] strayBurst rfl rfl rfl (by decide)
  obtain ⟨-, hlast, -⟩ := hrow
  obtain ⟨m, hm, he⟩ := hlast [] (.statClosingWord (goodWord 0)) (by decide)
  have hmw : m = written 0x10084 [goodWord 0, goodWord 0] strayBurst := hm
  rw [hmw] at he
  have hserved := congrArg servedAfter he
  rw [strayBurst_completion, strayBurst_row] at hserved
  cases hserved

end Sys2Proof.Machine
end

section
/-! PROOFS. The Record Engine's queue and services (O5). -/

namespace Sys2Proof.Machine

/-! ### Requests and the queue (R161, R162) -/

theorem Engine.inService_of_serving {e : Engine} {sv : Service} (h : e.service = some sv) (he : sv.ended = false) :
    e.inService = some sv.request ∧ e.queued = sv.request :: e.waiting := by
  simp [Engine.queued, Engine.inService, h, he]

theorem Engine.inService_of_free {e : Engine} (h : e.service = none ∨ ∃ sv, e.service = some sv ∧ sv.ended = true) :
    e.inService = none ∧ e.queued = e.waiting := by
  rcases h with h | ⟨sv, h, he⟩
  · simp [Engine.queued, Engine.inService, h]
  · simp [Engine.queued, Engine.inService, h, he]

theorem Request.isStatus_iff (r : Request) : r.isStatus = true ↔ r = .status := by cases r <;> simp [Request.isStatus]

theorem Request.isLog_iff (r : Request) : r.isLog = true ↔ ∃ l, r = .log l := by cases r <;> simp [Request.isLog]

theorem Request.orderContent_iff (r : Request) (c : OrderContent) : r.orderContent? = some c ↔ r = .order c := by
  cases r <;> simp [Request.orderContent?]

theorem Port.engineBusy_iff (q : Port) : q.engineBusy = true ↔ ∃ a, q.access = .engine a := by
  unfold Port.engineBusy
  cases q.access <;> simp

theorem Service.recordRange_eq (sv : Service) : sv.recordRange = sv.todo.head?.bind EngineAccess.record := by
  unfold Service.recordRange
  cases sv.todo <;> rfl

/-! ### An ORDER_WRITE requested (R162) -/

theorem replaceOrder_first {o c : OrderContent} {pre post : List Request} (hc : orderSlot c.frame = orderSlot o.frame)
    (hpre : ∀ x, .order x ∈ pre → ¬orderSlot x.frame = orderSlot o.frame) :
    replaceOrder o (pre ++ .order c :: post) = pre ++ .order o :: post := by
  induction pre with
  | nil => simp [replaceOrder, hc]
  | cons r pre ih =>
    have hrest := ih fun x hx => hpre x (List.mem_cons_of_mem _ hx)
    cases r with
    | order x =>
      have hx : ¬orderSlot x.frame = orderSlot o.frame := hpre x List.mem_cons_self
      simp [replaceOrder, hx, hrest]
    | _ => simp [replaceOrder, hrest]

theorem requestOrder_replaces {o c : OrderContent} {s : State} {pre post : List Request}
    (hw : s.engine.waiting = pre ++ .order c :: post) (hc : orderSlot c.frame = orderSlot o.frame)
    (hpre : ∀ x, .order x ∈ pre → ¬orderSlot x.frame = orderSlot o.frame) :
    requestOrder o s = { s with engine := { s.engine with waiting := pre ++ .order o :: post } } := by
  have hsame : sameSlotWaiting o s.engine.waiting = true := (sameSlotWaiting_iff _ _).mpr ⟨c, by simp [hw], hc⟩
  rw [requestOrder, if_pos hsame, State.modEngine, hw, replaceOrder_first hc hpre]

theorem requestOrder_of_otherSlot {o : OrderContent} {s : State}
    (h : ∀ x, .order x ∈ s.engine.waiting → ¬orderSlot x.frame = orderSlot o.frame) :
    requestOrder o s =
      (if (s.engine.queued.filterMap Request.orderContent?).length < 2 then s else evictOrder s).modEngine fun e =>
        { e with waiting := e.waiting ++ [.order o] } := by
  have hsame : ¬sameSlotWaiting o s.engine.waiting = true := fun hs => by
    obtain ⟨c, hc, he⟩ := (sameSlotWaiting_iff _ _).mp hs
    exact h c hc he
  rw [requestOrder, if_neg hsame]

/-- Of two, the one for the order issued earlier among those not ISSUED gives up its place. -/
theorem orderToEvict_of_two {s : State} {c d : OrderContent}
    (ho : s.engine.queued.filterMap Request.orderContent? = [c, d] ∨ s.engine.queued.filterMap Request.orderContent? = [d, c])
    (hc : orderIssued s.sched.queue c = false)
    (hd : orderIssued s.sched.queue d = true ∨ (s.sched.nextFrame - d.frame).toNat < (s.sched.nextFrame - c.frame).toNat) :
    orderToEvict s = some c := by
  unfold orderToEvict
  dsimp only
  by_cases hi : orderIssued s.sched.queue d = true
  · rcases ho with ho | ho <;> simp [ho, hc, hi, earliestOrder]
  · have hage := hd.resolve_left hi
    have hn : ¬(s.sched.nextFrame - c.frame).toNat < (s.sched.nextFrame - d.frame).toNat := by omega
    have hi : orderIssued s.sched.queue d = false := by simpa using hi
    rcases ho with ho | ho
    · simp only [ho, List.filter_cons, hc, hi, List.filter_nil]
      simp only [earliestOrder, earlierOrder, List.foldl, Bool.not_false, if_true, if_neg hn]
    · simp only [ho, List.filter_cons, hc, hi, List.filter_nil]
      simp only [earliestOrder, earlierOrder, List.foldl, Bool.not_false, if_true, if_pos hage]

theorem orderIssued_iff (q : List Entry) (c : OrderContent) :
    orderIssued q c = true ↔ ∃ e ∈ q, e.frame = c.frame ∧ e.triggered = false := by
  simp [orderIssued]

/-- Where the ORDER_WRITE in service gives up its place, its service ends after the access in progress, or at once. -/
theorem endOrderService_of_serving {s : State} {sv : Service} (h : s.engine.service = some sv) :
    (s.port.engineBusy = true →
      endOrderService s = { s with engine := { s.engine with service := some { sv with ended := true } } }) ∧
    (s.port.engineBusy = false →
      (endOrderService s).engine = { s.engine with service := none } ∧ (endOrderService s).port.waitEngine = none ∧
        (endOrderService s).port.starvation = 0 ∧
        ∀ r, sv.recordRange = some r → r ∉ (endOrderService s).path.underWrite) := by
  refine ⟨fun hb => by simp [endOrderService, h, hb, State.modEngine], fun hb => ?_⟩
  have he : endOrderService s = leaveList sv.recordRange
      ((s.modEngine fun e => { e with service := none }).modPort fun q => { q with waitEngine := none, starvation := 0 }) := by
    simp [endOrderService, h, hb]
  rw [he]
  refine ⟨by simp [State.modEngine], by rw [leaveList_port]; rfl, by rw [leaveList_port]; rfl, fun r hr => ?_⟩
  rw [hr, leaveList_underWrite]
  exact fun hm => by simpa using (List.mem_filter.mp hm).2

/-! ### The choice of a request (R163) -/

/-- The order of the kinds (R163). -/
def Request.rank (r : Request) : Nat :=
  match r with
  | .order _ => 0
  | .status => 1
  | .log _ => 2
  | .planFetch _ _ => 3
  | .configRead => 4

theorem Request.rank_of_order (x : Request) : x.orderContent?.isSome = decide (x.rank = 0) := by cases x <;> rfl

theorem Request.rank_of_status (x : Request) : x.isStatus = decide (x.rank = 1) := by cases x <;> rfl

theorem Request.rank_of_log (x : Request) : x.isLog = decide (x.rank = 2) := by cases x <;> rfl

theorem Request.rank_of_configRead (x : Request) : decide (x ≠ .configRead) = decide (x.rank ≠ 4) := by
  cases x <;> simp [Request.rank]

/-- The choice reads the ranks alone, but for its last resort, the request at the front. -/
theorem chooseRequest_ranks (ws : List Request) :
    chooseRequest ws =
      ((((ws.find? fun x => decide (x.rank = 0)).or (ws.find? fun x => decide (x.rank = 1))).or
        (ws.find? fun x => decide (x.rank = 2))).or (ws.find? fun x => decide (x.rank ≠ 4))).or ws.head? := by
  unfold chooseRequest
  rw [funext Request.rank_of_order, (funext Request.rank_of_status : Request.isStatus = _), (funext Request.rank_of_log : Request.isLog = _),
    funext Request.rank_of_configRead]
  cases ws.find? fun x => decide (x.rank = 0) <;> cases ws.find? fun x => decide (x.rank = 1) <;>
    cases ws.find? fun x => decide (x.rank = 2) <;> cases ws.find? fun x => decide (x.rank ≠ 4) <;> rfl

theorem chooseRequest_preferred {pre post : List Request} {r : Request} (hpre : ∀ x ∈ pre, r.rank < x.rank)
    (hpost : ∀ x ∈ post, r.rank ≤ x.rank) : chooseRequest (pre ++ r :: post) = some r := by
  have hnone : ∀ k, k < r.rank → (pre ++ r :: post).find? (fun x => decide (x.rank = k)) = none := fun k hk => by
    refine List.find?_eq_none.mpr fun x hx hxk => ?_
    have hxk := of_decide_eq_true hxk
    rcases List.mem_append.mp hx with hx | hx
    · have := hpre x hx; omega
    · rcases List.mem_cons.mp hx with rfl | hx
      · omega
      · have := hpost x hx; omega
  have hfirst : ∀ p : Nat → Bool, p r.rank = true → (∀ k, r.rank < k → k < 5 → p k = false) →
      (pre ++ r :: post).find? (fun x => p x.rank) = some r := fun p h1 h2 => by
    have hno : pre.find? (fun x => p x.rank) = none := List.find?_eq_none.mpr fun x hx hpx => by
      have hlt : x.rank < 5 := by cases x <;> simp [Request.rank]
      rw [h2 _ (hpre x hx) hlt] at hpx
      cases hpx
    rw [List.find?_append, hno]
    simp [h1]
  have heq : ∀ k, r.rank = k → (pre ++ r :: post).find? (fun x => decide (x.rank = k)) = some r := fun k hk =>
    hfirst (fun n => decide (n = k)) (by simp [hk]) fun n hn _ => by simp; omega
  rw [chooseRequest_ranks]
  cases hr : r with
  | order c => rw [← hr, heq 0 (by rw [hr]; rfl)]; rfl
  | status => rw [← hr, hnone 0 (by simp [hr, Request.rank]), heq 1 (by rw [hr]; rfl)]; rfl
  | log l => rw [← hr, hnone 0 (by simp [hr, Request.rank]), hnone 1 (by simp [hr, Request.rank]), heq 2 (by rw [hr]; rfl)]; rfl
  | planFetch n a =>
    have hf := hfirst (fun n => decide (n ≠ 4)) (by rw [hr]; rfl) fun n hn h5 => by
      rw [hr] at hn
      have hn : 3 < n := hn
      simp
      omega
    rw [← hr, hnone 0 (by simp [hr, Request.rank]), hnone 1 (by simp [hr, Request.rank]), hnone 2 (by simp [hr, Request.rank]), hf]
    rfl
  | configRead =>
    have hempty : pre = [] := List.eq_nil_iff_forall_not_mem.mpr fun x hx => by
      have hlt : x.rank < 5 := by cases x <;> simp [Request.rank]
      have hx := hpre x hx
      rw [hr] at hx
      have hx : 4 < x.rank := hx
      omega
    have hall : (pre ++ r :: post).find? (fun x => decide (x.rank ≠ 4)) = none := List.find?_eq_none.mpr fun x hx => by
      have hlt : x.rank < 5 := by cases x <;> simp [Request.rank]
      have hge : r.rank ≤ x.rank := by
        rw [hempty] at hx
        rcases List.mem_cons.mp hx with rfl | hx
        · exact le_rfl
        · exact hpost x hx
      rw [hr] at hge
      have hge : 4 ≤ x.rank := hge
      simp
      omega
    rw [← hr, hnone 0 (by simp [hr, Request.rank]), hnone 1 (by simp [hr, Request.rank]), hnone 2 (by simp [hr, Request.rank]), hall, hempty]
    rfl

/-! ### What a service reads or writes (R164 to R169) -/

theorem beginService_of_chosen {s : State} {r : Request} (hn : s.engine.service = none) (hc : chooseRequest s.engine.waiting = some r) :
    beginService s = beginOnce (beginRequest r (s.modEngine fun e => { e with waiting := e.waiting.erase r })) := by
  have ho : beginOnce s = beginRequest r (s.modEngine fun e => { e with waiting := e.waiting.erase r }) := by
    simp [beginOnce, hn, hc]
  rw [beginService, ho]

/-- A service begun stays in hand. -/
theorem beginService_serves {s x : State} {r : Request} {todo : List EngineAccess} {opens : Bool} {shown : BitVec 8}
    (hn : s.engine.service = none) (hc : chooseRequest s.engine.waiting = some r)
    (hb : beginRequest r (s.modEngine fun e => { e with waiting := e.waiting.erase r }) = serve r todo opens shown x) :
    beginService s = serve r todo opens shown x := by
  rw [beginService_of_chosen hn hc, hb]
  exact beginOnce_of_serving (by simp [serve, askForAccess])

/-- The service that `serve` begins. -/
theorem serve_begins (r : Request) (todo : List EngineAccess) (opens : Bool) (shown : BitVec 8) (s : State) :
    (serve r todo opens shown s).engine.service =
        some { request := r, todo := todo, rewrite := false, ended := false, got := [], opens := opens, shown := shown } ∧
      (serve r todo opens shown s).engine.waiting = s.engine.waiting ∧
      (serve r todo opens shown s).engine.updateCount = s.engine.updateCount ∧
      (serve r todo opens shown s).port.waitEngine = todo.head? := by
  simp [serve, askForAccess]

theorem fourBits (a b c d : Bool) :
    let x : BitVec 4 := BitVec.ofBool a ++ BitVec.ofBool b ++ BitVec.ofBool c ++ BitVec.ofBool d
    x.getLsbD 0 = d ∧ x.getLsbD 1 = c ∧ x.getLsbD 2 = b ∧ x.getLsbD 3 = a := by
  revert a b c d
  decide

theorem goodWord_good (w : Word) : (goodWord w).good = true := by
  obtain ⟨h0, h1, h2, h3⟩ := fourBits (oddParityBit (byteOf w 3)) (oddParityBit (byteOf w 2)) (oddParityBit (byteOf w 1))
    (oddParityBit (byteOf w 0))
  simp only [goodWord, Sys2Proof.BusWord.good, byteGood, goodParity, h0, h1, h2, h3]
  simp

theorem maskedWord_good (w : Word) : (maskedWord w).good = true := by
  simp [maskedWord, Sys2Proof.BusWord.good]

/-- The two accesses of an order slot or a log record (R164). -/
theorem recordAccesses_two (r : RecordRange) {ws : List Word} (h : ws.length = 8) :
    ∃ b k : EngineAccess,
      recordAccesses r ws = [b, k] ∧ b.words.map BusWord.data = ws ∧ b.words.map BusWord.enables = 0 :: List.replicate 7 15 ∧
        k.words.map BusWord.data = [ws.headD 0] ∧ k.words.map BusWord.enables = [15] ∧ b.length = 8 ∧ k.length = 1 ∧
        b.commit = false ∧ k.commit = true ∧
        ∀ a ∈ [b, k], a.write = true ∧ a.addr = r.base ∧ a.record = some r ∧ a.group = none ∧ ∀ w ∈ a.words, w.good = true := by
  obtain ⟨w, l, rfl⟩ : ∃ w l, ws = w :: l := List.exists_cons_of_ne_nil (by intro hn; simp [hn] at h)
  have hl : l.length = 7 := by simpa using h
  refine ⟨_, _, rfl, ?_, ?_, rfl, rfl, rfl, rfl, rfl, rfl, fun a ha => ?_⟩
  · simp [dataBurst, maskedWord, goodWord, Function.comp_def]
  · simp [dataBurst, maskedWord, goodWord, Function.comp_def, hl]
  · rcases List.mem_cons.mp ha with rfl | ha
    · refine ⟨rfl, rfl, rfl, rfl, fun w hw => ?_⟩
      simp only [dataBurst, List.mem_cons, List.mem_map] at hw
      rcases hw with rfl | ⟨v, -, rfl⟩
      · exact maskedWord_good _
      · exact goodWord_good v
    · obtain rfl := List.mem_singleton.mp ha
      refine ⟨rfl, rfl, rfl, rfl, fun w hw => ?_⟩
      obtain rfl := List.mem_singleton.mp hw
      exact goodWord_good _

/-! ### The status record (R165) -/

theorem statusWords_length (s : State) (count : Word) : (statusWords s count).length = 32 := rfl

theorem statusGroup_length {ws : List Word} (h : ws.length = 32) {i : Nat} (hi : i < 4) : (statusGroup ws i).length = 8 := by
  simp [statusGroup, h]
  omega

/-- The write of a group holds its words, word 0 of the record disabled. -/
theorem statusGroupAccess_words {r : RecordRange} {ws : List Word} (h : ws.length = 32) {i : Nat} (hi : i < 4) :
    (statusGroupAccess r ws i).words.map BusWord.data = statusGroup ws i ∧
      (statusGroupAccess r ws i).words.map BusWord.enables = (if i = 0 then 0 :: List.replicate 7 15 else List.replicate 8 15) ∧
      ∀ w ∈ (statusGroupAccess r ws i).words, w.good = true := by
  have hlen := statusGroup_length h hi
  unfold statusGroupAccess
  dsimp only
  split
  · rename_i h0
    subst h0
    obtain ⟨w, l, hl⟩ : ∃ w l, statusGroup ws 0 = w :: l := List.exists_cons_of_ne_nil (by intro hn; simp [hn] at hlen)
    rw [hl] at hlen ⊢
    have h7 : l.length = 7 := by simpa using hlen
    refine ⟨by simp [dataBurst, maskedWord, goodWord, Function.comp_def], by simp [dataBurst, maskedWord, goodWord, Function.comp_def, h7],
      fun v hv => ?_⟩
    simp only [dataBurst, List.mem_cons, List.mem_map] at hv
    rcases hv with rfl | ⟨u, -, rfl⟩
    · exact maskedWord_good _
    · exact goodWord_good u
  · refine ⟨by simp [goodWord, Function.comp_def], by simp [goodWord, Function.comp_def, hlen], fun v hv => ?_⟩
    obtain ⟨u, -, rfl⟩ := List.mem_map.mp hv
    exact goodWord_good u

theorem groupNeeded_iff (e : Engine) (ws : List Word) (i : Nat) :
    e.groupNeeded ws i = true ↔
      e.dirty.getD i false = true ∨ e.copies.getD i none = none ∨
        ∃ c, e.copies.getD i none = some c ∧ (i = 0 → c.tail ≠ (statusGroup ws 0).tail) ∧ (i ≠ 0 → c ≠ statusGroup ws i) := by
  unfold Engine.groupNeeded
  rw [Bool.or_eq_true]
  refine or_congr_right ?_
  cases e.copies.getD i none with
  | none => simp
  | some c =>
    by_cases h0 : i = 0
    · simp [h0]
    · simp [h0]

/-! ### A log record lost (R169) -/

theorem logLost_counted (s : State) :
    (loseLog s).session.counts.logLost = min 65535 (s.session.counts.logLost + 1) := by
  obtain ⟨x, hx⟩ : ∃ x, x = s.modEngine fun e => { e with lost := saturatingAdd max32 e.lost 1 } := ⟨_, rfl⟩
  have hses : (loseLog s).session = (raiseEvent .logLost x).session := by rw [hx]; simp [loseLog]
  have hcounts : (raiseEvent .logLost x).session.counts = (countEvent .logLost x).session.counts := by
    by_cases hw : AlertWakes .logLost x
    · obtain ⟨p, hp⟩ := raiseEvent_alert_session hw
      rw [hp]
    · rw [(raiseEvent_quiet hw).2]
  rw [hses, hcounts, hx]
  rfl

/-- After a log record is lost the STATUS_WRITE that it requests is preferred to every other. -/
theorem beginOnce_after_loss {s : State} (h : .status ∈ s.engine.waiting) :
    (beginOnce s).engine.lost = s.engine.lost ∧ (beginOnce s).session = s.session := by
  unfold beginOnce
  split
  · exact ⟨rfl, rfl⟩
  · split
    · exact ⟨rfl, rfl⟩
    · rename_i r hr
      have hlog : r.isLog = false := by
        cases r with
        | log l =>
          unfold chooseRequest at hr
          have hsome : (s.engine.waiting.find? Request.isStatus).isSome = true := List.find?_isSome.mpr ⟨_, h, rfl⟩
          obtain ⟨x, hx⟩ := Option.isSome_iff_exists.mp hsome
          have hxs := List.find?_some hx
          split at hr
          · rename_i y hy
            obtain rfl : y = .log l := by simpa using hr
            have := List.find?_some hy
            simp [Request.orderContent?] at this
          · rw [hx] at hr
            obtain rfl : x = .log l := by simpa using hr
            simp [Request.isStatus] at hxs
        | _ => rfl
      exact ⟨beginRequest_lost hlog _, beginRequest_session hlog _⟩

theorem requestStatus_waits {s : State} (hn : s.engine.service = none) : .status ∈ (requestStatus s).engine.waiting := by
  unfold requestStatus
  simp only [State.modEngine_engine, hn]
  split
  · rename_i h
    obtain ⟨r, hr, hs⟩ := List.any_eq_true.mp h
    exact (Request.isStatus_iff r).mp hs ▸ hr
  · simp

theorem beginService_loses {s : State} {l : LogContent} (hn : s.engine.service = none)
    (hc : chooseRequest s.engine.waiting = some (.log l))
    (h : s.path.log = none ∨ ∃ v, s.path.log = some v ∧
      (s.engine.producer + 1) % min ((v.limit - v.base + 1) / 32) 4096 = s.path.consumer.getD 0) :
    (beginService s).engine.lost = min 4294967295 (s.engine.lost + 1) ∧
      (beginService s).session.counts.logLost = min 65535 (s.session.counts.logLost + 1) ∧ StatusStands (beginService s) := by
  obtain ⟨x, hx⟩ : ∃ x, x = s.modEngine fun e => { e with waiting := e.waiting.erase (.log l) } := ⟨_, rfl⟩
  have hb : beginRequest (.log l) x = loseLog x := by
    have hpath : x.path = s.path := by rw [hx]; rfl
    have hproducer : x.engine.producer = s.engine.producer := by rw [hx]; rfl
    show serveLog l x = _
    unfold serveLog
    rw [hpath, hproducer]
    rcases h with h | ⟨v, hv, hf⟩
    · rw [h]
    · have hfull : ringFull s.engine.producer v.logCapacity s.path.consumer = true := decide_eq_true hf
      rw [hv]
      simp [hfull]
  have hserving : (raiseEvent .logLost (x.modEngine fun e => { e with lost := saturatingAdd max32 e.lost 1 })).engine.service = none := by
    have hs := raiseEvent_serving .logLost (x.modEngine fun e => { e with lost := saturatingAdd max32 e.lost 1 })
    rw [hx] at hs ⊢
    simpa [hn] using hs
  have hwaits : .status ∈ (loseLog x).engine.waiting := requestStatus_waits hserving
  obtain ⟨hlost, hses⟩ := beginOnce_after_loss hwaits
  have he : beginService s = beginOnce (loseLog x) := by rw [beginService_of_chosen hn hc, ← hx, hb]
  rw [he]
  refine ⟨?_, ?_, beginOnce_stands (loseLog_stands x)⟩
  · rw [hlost, loseLog_lost, hx]
    rfl
  · rw [hses, logLost_counted, hx]
    rfl

theorem serveLog_of_room {s : State} {l : LogContent} {v : Window} (hv : s.path.log = some v)
    (h : (s.engine.producer + 1) % min ((v.limit - v.base + 1) / 32) 4096 ≠ s.path.consumer.getD 0) :
    serveLog l s = serve (.log l) (recordAccesses (logRange v s.engine.producer) l.words) false 0 s := by
  have hfree : ringFull s.engine.producer v.logCapacity s.path.consumer = false := decide_eq_false h
  simp [serveLog, hv, hfree]

theorem any_isStatus_iff (ws : List Request) : ws.any Request.isStatus = true ↔ .status ∈ ws := by
  simp [List.any_eq_true, Request.isStatus_iff]

/-- A STATUS_WRITE enters where none is in service; a waiting one stands for it (R162). -/
theorem requestStatus_of_otherService {s : State} (h : ∀ sv, s.engine.service = some sv → sv.request ≠ .status) :
    requestStatus s =
      s.modEngine fun e => if e.waiting.any Request.isStatus then e else { e with waiting := e.waiting ++ [.status] } := by
  unfold requestStatus State.modEngine
  dsimp only
  split
  · rename_i sv hs
    simp only [if_neg fun ht => h sv hs ((Request.isStatus_iff _).mp ht)]
  · rfl

/-- A service begun, as the statement tells it: its request, its accesses and what is left waiting. -/
theorem begun_of_serve {s x : State} {r : Request} {todo : List EngineAccess} {opens : Bool} {shown : BitVec 8}
    (hn : s.engine.service = none) (hc : chooseRequest s.engine.waiting = some r)
    (hb : beginRequest r (s.modEngine fun e => { e with waiting := e.waiting.erase r }) = serve r todo opens shown x)
    (hx : x.engine.waiting = s.engine.waiting.erase r) :
    ∃ sv, (beginService s).engine.service = some sv ∧ sv.request = r ∧
      (sv.todo = todo ∧ sv.opens = opens ∧ sv.shown = shown) ∧ sv.rewrite = false ∧ sv.ended = false ∧ sv.got = [] ∧
      (beginService s).engine.waiting = s.engine.waiting.erase r ∧ (beginService s).port.waitEngine = sv.todo.head? := by
  obtain ⟨hserv, hwait, -, hask⟩ := serve_begins r todo opens shown x
  rw [beginService_serves hn hc hb]
  exact ⟨_, hserv, rfl, ⟨rfl, rfl, rfl⟩, rfl, rfl, rfl, by rw [hwait, hx], hask⟩

/-- The groups to be written, each once and in increasing order. -/
theorem statusGroups_pairwise (e : Engine) (r : RecordRange) (ws : List Word) :
    (((([0, 1, 2, 3].filter fun i => e.groupNeeded ws i).map (statusGroupAccess r ws))).map EngineAccess.group).Pairwise
      (fun i j => i.getD 4 < j.getD 4) := by
  rw [List.map_map, List.pairwise_map]
  have hp : ([0, 1, 2, 3] : List Nat).Pairwise (· < ·) := by decide
  exact (hp.filter _).imp fun {i j} hij => by simpa [statusGroupAccess] using hij

theorem mem_statusGroups (e : Engine) (r : RecordRange) (ws : List Word) {i : Nat} (hi : i < 4) :
    some i ∈ (([0, 1, 2, 3].filter fun i => e.groupNeeded ws i).map (statusGroupAccess r ws)).map EngineAccess.group ↔
      e.groupNeeded ws i = true := by
  simp only [List.map_map, List.mem_map, List.mem_filter, Function.comp_def, statusGroupAccess, Option.some.injEq]
  constructor
  · rintro ⟨j, ⟨-, hj⟩, rfl⟩
    exact hj
  · intro h
    refine ⟨i, ⟨?_, h⟩, rfl⟩
    interval_cases i <;> simp

/-- Settles O5: the rules of the queue, of the choice and of each service, kind by kind. -/
theorem recordEngineServesRequests : Obligations.RecordEngineServesRequests := by
  refine ⟨fun e => ⟨fun sv h he => Engine.inService_of_serving h he, Engine.inService_of_free⟩,
    fun r => ⟨r.isStatus_iff, r.isLog_iff, r.orderContent_iff⟩, fun _ => rfl, Port.engineBusy_iff, Service.recordRange_eq, ?_, ?_, ?_,
    fun s hs => ?_, ?_⟩
  · intro o s slot orders issued age
    refine ⟨fun pre c post hw hc hpre => requestOrder_replaces hw hc hpre, fun hother => ⟨fun hlt => ?_, fun c d ho hc hd => ?_⟩⟩
    · rw [requestOrder_of_otherSlot hother, if_pos hlt]
      rfl
    · have hci : orderIssued s.sched.queue c = false := by
        rw [← Bool.not_eq_true, orderIssued_iff]
        exact hc
      have hevict : orderToEvict s = some c := orderToEvict_of_two ho hci (hd.imp_left (orderIssued_iff _ _).mpr)
      have hfull : ¬(s.engine.queued.filterMap Request.orderContent?).length < 2 := by
        rcases ho with ho | ho <;> (rw [show s.engine.queued.filterMap Request.orderContent? = _ from ho]; simp)
      have hreq := requestOrder_of_otherSlot hother
      rw [if_neg hfull] at hreq
      refine ⟨fun hn => ?_, fun sv hv he hr => ⟨fun hb => ?_, fun hb => ?_⟩⟩
      · rw [hreq]
        simp only [evictOrder, hevict, if_neg hn]
        rfl
      · have hin : s.engine.inService = some (.order c) := by rw [(Engine.inService_of_serving hv he).1, hr]
        rw [hreq]
        simp only [evictOrder, hevict, if_pos hin, (endOrderService_of_serving hv).1 hb]
        rfl
      · have hin : s.engine.inService = some (.order c) := by rw [(Engine.inService_of_serving hv he).1, hr]
        obtain ⟨h1, h2, h3, h4⟩ := (endOrderService_of_serving hv).2 hb
        intro t
        have ht : t = (endOrderService s).modEngine fun e => { e with waiting := e.waiting ++ [.order o] } := by
          show requestOrder o s = _
          rw [hreq]
          simp only [evictOrder, hevict, if_pos hin]
        rw [ht]
        exact ⟨by rw [State.modEngine_engine, h1], h2, h3, h4⟩
  · intro s
    refine ⟨fun sv hv hr => ?_, fun hn => ⟨fun hm => ?_, fun hm => ?_⟩⟩
    · simp [requestStatus, hv, hr, Request.isStatus, State.modEngine]
    · rw [requestStatus_of_otherService hn, State.modEngine, if_pos ((any_isStatus_iff _).mpr hm)]
    · rw [requestStatus_of_otherService hn, State.modEngine, if_neg fun h => hm ((any_isStatus_iff _).mp h)]
  · intro rank pre r post hpre hpost
    exact chooseRequest_preferred hpre hpost
  · rw [beginService, beginOnce_of_serving hs, beginOnce_of_serving hs]
  · intro s r hn hc t begun twoAccesses
    have htwo : ∀ (range : RecordRange) (words : List Word) (sv : Service), range.size = 32 → words.length = 8 →
        sv.todo = recordAccesses range words → twoAccesses range.base words sv := by
      rintro ⟨base, size⟩ words sv hsize hlen htodo
      obtain rfl : size = 32 := hsize
      obtain ⟨b, k, heq, hrest⟩ := recordAccesses_two ⟨base, 32⟩ hlen
      exact ⟨b, k, htodo.trans heq, hrest⟩
    refine ⟨?_, ?_, ?_, ?_, ?_, ?_⟩
    · rintro c rfl
      obtain ⟨sv, h1, h2, ⟨ht, -, -⟩, h3⟩ := begun_of_serve hn hc rfl rfl
      obtain ⟨h3, h4, h5, h6, h7⟩ := h3
      exact ⟨sv, h1, h2, htwo _ _ sv rfl rfl ht, h3, h4, h5, h6, h7⟩
    · rintro l v rfl hv hroom
      obtain ⟨sv, h1, h2, ⟨ht, -, -⟩, h3, h4, h5, h6, h7⟩ := begun_of_serve hn hc (serveLog_of_room (l := l) hv hroom) rfl
      exact ⟨sv, h1, h2, htwo _ _ sv rfl rfl ht, h3, h4, h5, h6, h7⟩
    · rintro l rfl hfull
      exact beginService_loses hn hc hfull
    · rintro rfl
      obtain ⟨sv, h1, h2, ⟨ht, hopens, hshown⟩, h3, h4, h5, h6, h7⟩ := begun_of_serve hn hc rfl rfl
      refine ⟨?_, sv, h1, h2, ?_, h3, h4, h5, h6, h7⟩
      · show (beginService s).engine.updateCount = _
        rw [beginService_serves hn hc rfl, (serve_begins _ _ _ _ _).2.2.1]
        rfl
      refine ⟨hshown, by rw [hopens, Bool.and_eq_true, decide_eq_true_iff, decide_eq_true_iff]; rfl, _, _, ht, statusGroups_pairwise _ _ _, fun i hi => ?_, fun a ha => ?_, rfl, rfl, rfl, rfl, rfl,
        rfl, rfl, fun a ha => ?_⟩
      · exact (mem_statusGroups _ _ _ hi).trans (groupNeeded_iff _ _ _)
      · obtain ⟨i, hi, rfl⟩ := List.mem_map.mp ha
        have hi : i < 4 := by
          have := (List.mem_filter.mp hi).1
          simp at this
          omega
        obtain ⟨hd, he, -⟩ := statusGroupAccess_words (r := s.path.statusRange) (statusWords_length s (s.engine.updateCount + 1)) hi
        exact ⟨rfl, rfl, rfl, i, hi, rfl, rfl, hd, he⟩
      · rcases List.mem_append.mp ha with ha | ha
        · obtain ⟨i, hi, rfl⟩ := List.mem_map.mp ha
          have hi : i < 4 := by
            have := (List.mem_filter.mp hi).1
            simp at this
            omega
          exact ⟨rfl, (statusGroupAccess_words (statusWords_length s (s.engine.updateCount + 1)) hi).2.2⟩
        · obtain rfl := List.mem_singleton.mp ha
          refine ⟨rfl, fun w hw => ?_⟩
          obtain rfl := List.mem_singleton.mp hw
          exact goodWord_good _
    · rintro slot addr rfl
      obtain ⟨sv, h1, h2, ⟨ht, -, -⟩, h3, h4, h5, h6, h7⟩ := begun_of_serve hn hc rfl rfl
      exact ⟨sv, h1, h2, ⟨_, ht, rfl, rfl, rfl, rfl⟩, h3, h4, h5, h6, h7⟩
    · rintro rfl
      obtain ⟨sv, h1, h2, ⟨ht, -, -⟩, h3, h4, h5, h6, h7⟩ := begun_of_serve hn hc rfl rfl
      refine ⟨sv, h1, h2, ⟨by rw [ht]; rfl, fun a ha => ?_⟩, h3, h4, h5, h6, h7⟩
      rw [ht] at ha
      obtain ⟨i, -, rfl⟩ := List.mem_map.mp ha
      exact ⟨rfl, rfl, rfl⟩

end Sys2Proof.Machine
end

section
/-! PROOFS. A transition's settle kind applied to the queue, and the issue that follows it, by what they leave of the run (R62 to R67). -/

namespace Sys2Proof.Machine

/-! ### Orders voided (R65) -/

theorem near_voidEntry {a b : State} (h : Near a b) (e : Entry) : Near (retired e .voided a) (voidEntry e b) :=
  ((h.retired e .voided).trans (near_retire e .voided .noCause none false b)).trans
    ((traffic_requestOrder _ _).near.trans (near_beginService _))

/-- The ISSUED entries of a list retired VOIDED, head first. -/
def voidedAll (l : List Entry) (s : State) : State :=
  (l.filter fun y => !y.triggered).foldl (fun s e => retired e .voided s) s

theorem near_voidIssued {a b : State} (h : Near a b) (l : List Entry) : Near (voidedAll l a) (voidIssued l b) := by
  induction l generalizing a b with
  | nil => exact h
  | cons e l ih =>
    cases ht : e.triggered with
    | true => simpa [voidedAll, voidIssued, ht] using ih h
    | false => simpa [voidedAll, voidIssued, ht] using ih (near_voidEntry h e)

/-- The scheduler once the entries `v` of its queue, all its ISSUED ones, have retired VOIDED. -/
def Scheduler.voiding (v : List Entry) (q : Scheduler) : Scheduler :=
  { q with
    queue := q.queue.filter fun y => y.triggered
    lastRetired := (v.getLast?.map Entry.frame).or q.lastRetired
    voids := if v = [] then q.voids else min 4294967295 (q.voids + v.length)
    owed := q.owed ++ v.map fun y => .retirement y.frame false }

theorem retired_voided {s : State} (hc : s.sched.runState.capturing = true) (e : Entry) :
    retired e .voided s =
      { s with
        sched :=
          { s.sched with
            queue := s.sched.queue.erase e, lastRetired := some e.frame, voids := min 4294967295 (s.sched.voids + 1)
            owed := s.sched.owed ++ [.retirement e.frame false] } } := by
  rw [retired_of_not_metered (by decide)]
  simp [retired, hc]

theorem Scheduler.voiding_cons {e : Entry} {pre l v : List Entry} {q : Scheduler} (hq : q.queue = pre ++ e :: l)
    (hpre : ∀ x ∈ pre, x.triggered = true) (he : e.triggered = false) :
    ({ q with
        queue := q.queue.erase e, lastRetired := some e.frame, voids := min 4294967295 (q.voids + 1)
        owed := q.owed ++ [.retirement e.frame false] } : Scheduler).voiding v = q.voiding (e :: v) := by
  have hnot : e ∉ pre := fun hm => by simp [hpre e hm] at he
  have herase : q.queue.erase e = pre ++ l := by
    rw [hq, List.erase_append_right _ hnot, List.erase_cons_head]
  have hlast : ((e :: v).getLast?.map Entry.frame) = (v.getLast?.map Entry.frame).or (some e.frame) := by
    cases v <;> simp [List.getLast?_cons]
  have hvoids : (if v = [] then min 4294967295 (q.voids + 1) else min 4294967295 (min 4294967295 (q.voids + 1) + v.length)) =
      min 4294967295 (q.voids + (v.length + 1)) := by
    split
    · rename_i h
      simp [h]
    · omega
  simp only [Scheduler.voiding, herase, hlast, hvoids]
  simp [hq, he]

theorem voidedAll_eq {s : State} {pre l : List Entry} (hc : s.sched.runState.capturing = true) (hq : s.sched.queue = pre ++ l)
    (hpre : ∀ x ∈ pre, x.triggered = true) :
    voidedAll l s = { s with sched := s.sched.voiding (l.filter fun y => !y.triggered) } := by
  induction l generalizing s pre with
  | nil =>
    have hall : s.sched.queue.filter (fun y => y.triggered) = s.sched.queue := by
      rw [List.filter_eq_self, hq]
      simpa using hpre
    simp [voidedAll, Scheduler.voiding, hall]
  | cons e l ih =>
    cases ht : e.triggered with
    | true =>
      have h := ih (pre := pre ++ [e]) hc (by simpa using hq) (by
        intro x hx
        rcases List.mem_append.mp hx with hx | hx
        · exact hpre x hx
        · rw [List.mem_singleton.mp hx, ht])
      simpa [voidedAll, ht] using h
    | false =>
      have hstep : voidedAll (e :: l) s = voidedAll l (retired e .voided s) := by simp [voidedAll, ht]
      have hv := retired_voided hc e
      have hcap : (retired e .voided s).sched.runState.capturing = true := by rw [hv]; exact hc
      have hnot : e ∉ pre := fun hm => by simp [hpre e hm] at ht
      have herase : (retired e .voided s).sched.queue = pre ++ l := by
        rw [hv]
        show s.sched.queue.erase e = _
        rw [hq, List.erase_append_right _ hnot, List.erase_cons_head]
      rw [hstep, ih hcap herase hpre, hv]
      have hcons := Scheduler.voiding_cons (v := l.filter fun y => !y.triggered) hq hpre ht
      simp [ht, hcons]

/-! ### The settle kind (R64 to R66) -/

/-- The entries that the settle kind voids. -/
def Settle.voided (k : Settle) (l : List Entry) : List Entry := if k = .void then l.filter fun y => !y.triggered else []

/-- The entries that the settle kind leaves, those TRIGGERED discounted. -/
def Settle.kept (k : Settle) (l : List Entry) : List Entry :=
  if k = .void then (l.filter fun y => y.triggered).map fun y => { y with discounted := true } else l

/-- The latest order not voided of a queue whose ISSUED entries are voided. -/
def Scheduler.standing (q : Scheduler) : Option (Time × Nat) := (q.queue.filter fun y => y.triggered).foldl laterKept q.latestKept

/-- What the settle kind leaves of the run. -/
def Settle.settled (k : Settle) (s : State) : State :=
  { s with
    sched :=
      { s.sched with
        queue := k.kept s.sched.queue
        chainBase := if k.voided s.sched.queue = [] then s.sched.chainBase else (s.sched.standing.map Prod.fst).or s.sched.chainBase
        lastRetired := ((k.voided s.sched.queue).getLast?.map Entry.frame).or s.sched.lastRetired
        voids :=
          if k.voided s.sched.queue = [] then s.sched.voids
          else min 4294967295 (s.sched.voids + (k.voided s.sched.queue).length)
        owed := s.sched.owed ++ (k.voided s.sched.queue).map fun y => .retirement y.frame false }
    expo :=
      { s.expo with
        el := if k.voided s.sched.queue = [] then s.expo.el else (s.sched.standing.map Prod.snd).getD s.expo.el } }

theorem near_returnToStanding {a b : State} (h : Near a b) :
    Near
      { a with
        sched := { a.sched with chainBase := ((latestStanding a).map Prod.fst).or a.sched.chainBase }
        expo := { a.expo with el := ((latestStanding a).map Prod.snd).getD a.expo.el } }
      (returnToStanding b) := by
  have hl : latestStanding b = latestStanding a := by rw [latestStanding, latestStanding, h.run.sched]
  unfold returnToStanding
  rw [hl]
  cases latestStanding a with
  | none => exact h
  | some x => exact ((h.modSched fun q => { q with chainBase := some x.1 }).modExpo fun y => { y with el := x.2 }).requestStatus

theorem discounted_filter (l : List Entry) :
    (l.filter fun y => y.triggered).map (fun e => if e.triggered then { e with discounted := true } else e) =
      (l.filter fun y => y.triggered).map fun y => { y with discounted := true } :=
  List.map_congr_left fun e he => if_pos (by simpa using (List.mem_filter.mp he).2)

theorem near_settleQueue {a b : State} (h : Near a b) (hc : a.sched.runState.capturing = true) (k : Settle) :
    Near (k.settled a) (settleQueue k b) := by
  have hq : b.sched.queue = a.sched.queue := by rw [h.run.sched]
  cases k with
  | keep =>
    have hs : Settle.keep.settled a = a := by simp [Settle.settled, Settle.kept, Settle.voided]
    rw [hs]
    exact h
  | void =>
    unfold settleQueue
    dsimp only
    rw [hq]
    by_cases hv : (a.sched.queue.filter fun y => !y.triggered) = []
    · have hall : ∀ x ∈ a.sched.queue, x.triggered = true := by simpa using hv
      have hany : ¬(a.sched.queue.any fun e => !e.triggered) = true := by simpa using hall
      have hkeep : (a.sched.queue.filter fun y => y.triggered) = a.sched.queue := List.filter_eq_self.mpr hall
      have hs : Settle.void.settled a = discountTriggered a := by
        have hd := discounted_filter a.sched.queue
        rw [hkeep] at hd
        simp [Settle.settled, Settle.kept, Settle.voided, hv, hkeep, discountTriggered, State.modSched, hd]
      rw [if_neg hany, hs]
      exact h.modSched _
    · have hany : (a.sched.queue.any fun e => !e.triggered) = true := by
        rw [List.any_eq_true]
        obtain ⟨x, hx⟩ := List.exists_mem_of_ne_nil _ hv
        exact ⟨x, (List.mem_filter.mp hx).1, (List.mem_filter.mp hx).2⟩
      rw [if_pos hany]
      have hn := near_returnToStanding (near_voidIssued h a.sched.queue)
      rw [voidedAll_eq (pre := []) hc rfl (by simp)] at hn
      have hd := hn.modSched fun q =>
        { q with queue := q.queue.map fun e => if e.triggered then { e with discounted := true } else e }
      have hs : Settle.void.settled a = _ := rfl
      refine Eq.mp ?_ hd
      congr 1
      simp only [Settle.settled, Settle.kept, Settle.voided, if_true, if_neg hv, State.modSched, Scheduler.voiding, discounted_filter]
      rfl

/-! ### The issue after it -/

/-- Steps 3 to 6 of an issue read nothing else of the state than what `Near` compares. -/
theorem orderOf_near {a b : State} (h : Near a b) (k : IssueKind) (c : Segment) : orderOf k c b = orderOf k c a ∧ issueDue k b c = issueDue k a c := by
  have h1 := h.run.sched
  have h2 := h.run.seg
  have h3 := h.run.expo
  have h4 := h.fixed.tb
  have h5 := h.fixed.supply
  have h6 := h.fixed.config
  obtain ⟨⟩ := a
  obtain ⟨⟩ := b
  dsimp only at h1 h2 h3 h4 h5 h6
  subst h1 h2 h3 h4 h5 h6
  cases k with
  | start x => cases x <;> exact ⟨rfl, rfl⟩
  | faultHold => exact ⟨rfl, rfl⟩
  | resumption => exact ⟨rfl, rfl⟩
  | ordinary m x => exact ⟨rfl, rfl⟩

theorem near_completeIssue {a b : State} (h : Near a b) {k : IssueKind} (hk : k.isStart = false) (c : Segment) :
    Near (appended k c a) (completeIssue k c b) ∧ StatusStands (completeIssue k c b) ∧
      Request.order (orderContent (orderOf k c a) false) ∈ (completeIssue k c b).engine.queued := by
  obtain ⟨hn, hs, ho⟩ := completeIssue_near k c b
  obtain ⟨he, hd⟩ := orderOf_near h k c
  rw [hk, if_neg Bool.false_ne_true] at hn
  rw [he] at ho
  refine ⟨Near.trans ?_ hn, hs, ho⟩
  have hx := ((h.modSched fun q =>
    { q with
      queue := q.queue ++ [orderOf k c a], nextFrame := q.nextFrame + 1, chainBase := some (orderOf k c a).due
      skips := min 4294967295 (q.skips + (issueDue k a c).skips), owed := q.owed.tail, heldCopy := none
      startRequest := none }).modExpo fun x => { x with el := (orderOf k c a).el }).modSeg fun g =>
    { g with
      bias := c.biasAt g.frames, frames := min 65535 (g.frames + 1)
      entryTime := some (g.entryTime.getD (orderOf k c a).due) }
  rw [appended_eq, appended_eq, he, hd]
  exact hx

end Sys2Proof.Machine
end

section
/-! PROOFS. A decided exit: the end of the plan, the transition and its first order, the wait, or FAULT_HOLD (O47). -/

namespace Sys2Proof.Machine

/-! ### The ORDER_WRITE requests in the queue (R161, R162) -/

/-- At most so many ORDER_WRITE requests are in the queue. -/
def OrdersAtMost (n : Nat) (s : State) : Prop := s.engine.kinds.count .order ≤ n

theorem ordersAtMost_requestStatus {n : Nat} {s : State} (h : OrdersAtMost n s) : OrdersAtMost n (requestStatus s) := by
  unfold OrdersAtMost at h ⊢
  rcases requestStatus_kinds s with hk | ⟨-, hk⟩
  · rwa [hk]
  · simpa [hk] using h

theorem OrdersAtMost.of_queued {n : Nat} {a b : State} (h : OrdersAtMost n a) (hq : b.engine.queued = a.engine.queued) :
    OrdersAtMost n b := by
  unfold OrdersAtMost Engine.kinds at h ⊢
  rwa [hq]

theorem keptByEvents_ordersAtMost (n : Nat) : KeptByEvents (OrdersAtMost n) where
  run _ _ _ _ _ h := h
  supply _ _ h := h
  board _ _ _ _ h := h
  engine _ he _ h := h.of_queued he
  status h := ordersAtMost_requestStatus h
  marks _ _ _ _ _ _ _ h := h
  wake _ _ _ h := ordersAtMost_requestStatus (h.of_queued (by simp))
  log := fun {s} l _ h => by
    have hk : (s.modEngine fun e => { e with waiting := e.waiting ++ [.log l] }).engine.kinds = s.engine.kinds ++ [.log] := by
      simp [Engine.kinds, Engine.queued, Engine.inService, Request.kind]
    unfold OrdersAtMost at h ⊢
    rw [hk]
    simpa using h

theorem ordersAtMost_beginOnce {n : Nat} {s : State} (h : OrdersAtMost n s) : OrdersAtMost n (beginOnce s) := by
  unfold beginOnce
  split
  · exact h
  · rename_i hn
    have hn : s.engine.service = none := by simpa using hn
    split
    · exact h
    · rename_i r hr
      have hm := chooseRequest_mem hr
      have hserve : ∀ todo b v, OrdersAtMost n (serve r todo b v (s.modEngine fun e => { e with waiting := e.waiting.erase r })) :=
        fun todo b v => by
          unfold OrdersAtMost at h ⊢
          rwa [(serve_kinds todo b v hn hm).count_eq]
      cases r with
      | order c => exact hserve _ _ _
      | status =>
        refine OrdersAtMost.of_queued (hserve [] false 0) ?_
        simp [beginRequest, serveStatus, serve, askForAccess, Engine.queued, Engine.inService]
      | planFetch m a => exact hserve _ _ _
      | configRead => exact hserve _ _ _
      | log l =>
        have hlose : OrdersAtMost n (loseLog (s.modEngine fun e => { e with waiting := e.waiting.erase (.log l) })) := by
          refine (keptByEvents_ordersAtMost n).loseLog (le_trans ?_ h)
          exact (((List.erase_sublist).append_left _).map _).count_le _
        show OrdersAtMost n (serveLog l _)
        unfold serveLog
        repeat' split
        · exact hlose
        · exact hlose
        · exact hserve _ _ _

theorem ordersAtMost_beginService {n : Nat} {s : State} (h : OrdersAtMost n s) : OrdersAtMost n (beginService s) :=
  ordersAtMost_beginOnce (ordersAtMost_beginOnce h)

theorem ordersAtMost_requestOrder {n : Nat} {s : State} (h : OrdersAtMost n s) (o : OrderContent) : OrdersAtMost (n + 1) (requestOrder o s) := by
  unfold OrdersAtMost at h ⊢
  rcases requestOrder_kinds o s with hk | ⟨-, hk⟩
  · rw [hk.count_eq]
    omega
  · simp [hk]
    omega

theorem replaceOrder_keeps {r : Request} {o : OrderContent} {l : List Request} (hr : r ∈ l)
    (hs : ∀ c, r = .order c → orderSlot c.frame ≠ orderSlot o.frame) : r ∈ replaceOrder o l := by
  induction l with
  | nil => cases hr
  | cons x l ih =>
    rcases List.mem_cons.mp hr with rfl | hm
    · cases r with
      | order c => simp [replaceOrder, hs c rfl]
      | _ => simp [replaceOrder]
    · cases x with
      | order c =>
        unfold replaceOrder
        split
        · exact List.mem_cons_of_mem _ hm
        · exact List.mem_cons_of_mem _ (ih hm)
      | _ => exact List.mem_cons_of_mem _ (ih hm)

/-- A request in the queue stays there beside an ORDER_WRITE of another slot for which there is room. -/
theorem requestOrder_keeps {r : Request} {o : OrderContent} {s : State} (hr : r ∈ s.engine.queued)
    (hs : ∀ c, r = .order c → orderSlot c.frame ≠ orderSlot o.frame) (h : OrdersAtMost 1 s) : r ∈ (requestOrder o s).engine.queued := by
  have hlt : (s.engine.queued.filterMap Request.orderContent?).length < 2 := by
    rw [length_filterMap_order]
    exact Nat.lt_succ_of_le h
  by_cases hw : ∀ x, .order x ∈ s.engine.waiting → ¬orderSlot x.frame = orderSlot o.frame
  · rw [requestOrder_of_otherSlot hw, if_pos hlt]
    rcases List.mem_append.mp hr with hr | hr
    · exact List.mem_append_left _ hr
    · exact List.mem_append_right _ (List.mem_append_left _ hr)
  · have hsame : sameSlotWaiting o s.engine.waiting = true := by
      rw [sameSlotWaiting_iff]
      simpa using hw
    rw [requestOrder, if_pos hsame]
    rcases List.mem_append.mp hr with hr | hr
    · exact List.mem_append_left _ hr
    · exact List.mem_append_right _ (replaceOrder_keeps hr hs)

/-! ### A single order voided -/

theorem voidIssued_eq (l : List Entry) (s : State) :
    voidIssued l s = (l.filter fun y => !y.triggered).foldl (fun s e => voidEntry e s) s := by
  induction l generalizing s with
  | nil => rfl
  | cons e l ih => cases ht : e.triggered <;> simp [voidIssued, ht, ih]

/-- An order voided with no ORDER_WRITE standing: its slot's rewrite is the one that stands. -/
theorem voidEntry_order {s : State} (h : OrdersAtMost 0 s) (e : Entry) :
    Request.order (orderContent e true) ∈ (voidEntry e s).engine.queued ∧ OrdersAtMost 1 (voidEntry e s) := by
  have hr : OrdersAtMost 0 (retire e .voided .noCause none false s) := (keptByEvents_ordersAtMost 0).retire (fun _ _ h => h) _ _ _ _ _ h
  unfold voidEntry
  generalize retire e .voided .noCause none false s = x at hr ⊢
  exact ⟨beginService_queued rfl (requestOrder_queued _ _), ordersAtMost_beginService (ordersAtMost_requestOrder hr _)⟩

theorem returnToStanding_queued (s : State) : QueueKept s (returnToStanding s) := by
  unfold returnToStanding
  split
  · exact fun _ h => h
  · exact fun _ h => requestStatus_queued _ _ h

theorem ordersAtMost_returnToStanding {n : Nat} {s : State} (h : OrdersAtMost n s) : OrdersAtMost n (returnToStanding s) := by
  unfold returnToStanding
  split
  · exact h
  · exact ordersAtMost_requestStatus h

theorem settleQueue_order {s : State} {k : Settle} {y : Entry} (h : OrdersAtMost 0 s) (hv : k.voided s.sched.queue = [y]) :
    Request.order (orderContent y true) ∈ (settleQueue k s).engine.queued ∧ OrdersAtMost 1 (settleQueue k s) := by
  cases k with
  | keep => simp [Settle.voided] at hv
  | void =>
    have hv : (s.sched.queue.filter fun y => !y.triggered) = [y] := by simpa [Settle.voided] using hv
    have hany : (s.sched.queue.any fun e => !e.triggered) = true := by
      rw [List.any_eq_true]
      have hm : y ∈ s.sched.queue.filter fun y => !y.triggered := by simp [hv]
      exact ⟨y, (List.mem_filter.mp hm).1, (List.mem_filter.mp hm).2⟩
    obtain ⟨hq, hn⟩ := voidEntry_order h y
    have hone : voidIssued s.sched.queue s = voidEntry y s := by rw [voidIssued_eq, hv]; rfl
    have hreturn := And.intro (returnToStanding_queued _ _ hq) (ordersAtMost_returnToStanding hn)
    unfold settleQueue
    dsimp only
    rw [if_pos hany, hone]
    generalize returnToStanding (voidEntry y s) = x at hreturn ⊢
    exact hreturn

/-! ### The transition taken, or refused -/

/-- The state that an attempt at an issue goes on from, the copy it has read kept. -/
def State.withCopy (cp : Option Segment) (s : State) : State := { s with seg := { s.seg with copyRead := cp } }

/-- The state that a transition's first order is made in: the settle kind applied, the segment entered. -/
def transitionTaken (left : Segment) (n : Nat) (d : Segment) (s : State) : State :=
  enterSegment n (some d) (left.settle.settled s)

/-- The state that an issue is made in whose transition is refused. -/
def transitionRefused (s : State) : State :=
  { s with sched := { s.sched with runState := .faultHold }, seg := { s.seg with decided := none } }

theorem takeTransition_near {s : State} (hc : s.sched.runState.capturing = true) (m : Option Word) (left : Segment) (n : Nat) (d : Segment) :
    let t := takeTransition m left n d s
    Near (appended (.ordinary m true) d (transitionTaken left n d s)) t ∧ StatusStands t ∧
      Request.order (orderContent (orderOf (.ordinary m true) d (transitionTaken left n d s)) false) ∈ t.engine.queued := by
  have h := near_settleQueue (.rfl' s) hc left.settle
  exact near_completeIssue (k := .ordinary m true) ((h.modSeg _).modCache _) rfl d

/-- A request in the queue stays there beside the order of an issue, of another slot. -/
theorem completeIssue_keeps {s : State} {r : Request} (m : Option Word) (b : Bool) (c : Segment) (hl : r.isLog = false)
    (hr : r ∈ s.engine.queued) (h : OrdersAtMost 1 s)
    (hs : ∀ o, r = .order o → orderSlot o.frame ≠ orderSlot s.sched.nextFrame) :
    r ∈ (completeIssue (.ordinary m b) c s).engine.queued := by
  obtain ⟨x, hx⟩ : ∃ x, x = appended (.ordinary m b) c s := ⟨_, rfl⟩
  have hq : x.engine = s.engine := by rw [hx, appended_eq]
  have ho : (orderContent (orderOf (.ordinary m b) c s) false).frame = s.sched.nextFrame := rfl
  have heq : completeIssue (.ordinary m b) c s =
      beginService (requestStatus (requestOrder (orderContent (orderOf (.ordinary m b) c s) false) x)) := by
    rw [hx]
    rfl
  rw [heq]
  refine beginService_queued hl (requestStatus_queued _ _ (requestOrder_keeps (by rwa [hq]) (by rwa [ho]) (h.of_queued (by rw [hq]))))

/-- The voided order's rewrite stands beside the first order's, of another slot. -/
theorem takeTransition_order {s : State} (hc : s.sched.runState.capturing = true) (m : Option Word) {left : Segment} (n : Nat) (d : Segment)
    {y : Entry} (h : OrdersAtMost 0 s) (hv : left.settle.voided s.sched.queue = [y]) (hslot : orderSlot y.frame ≠ orderSlot s.sched.nextFrame) :
    Request.order (orderContent y true) ∈ (takeTransition m left n d s).engine.queued := by
  obtain ⟨hq, hn⟩ := settleQueue_order h hv
  have hnext : (settleQueue left.settle s).sched.nextFrame = s.sched.nextFrame := by
    rw [(near_settleQueue (.rfl' s) hc left.settle).run.sched]
    rfl
  obtain ⟨x, hx⟩ : ∃ x, x = settleQueue left.settle s := ⟨_, rfl⟩
  rw [← hx] at hq hn hnext
  have ht : takeTransition m left n d s = completeIssue (.ordinary m true) d (enterSegment n (some d) x) := by rw [hx]; rfl
  rw [ht]
  refine completeIssue_keeps m true d rfl hq hn ?_
  rintro c hcq
  obtain rfl : orderContent y true = c := by simpa using hcq
  have hnx : (enterSegment n (some d) x).sched.nextFrame = x.sched.nextFrame := rfl
  rwa [hnx, hnext]

theorem continueFaultHold_near (c : Segment) (s : State) :
    let t := continueFaultHold c s
    Near (appended .faultHold c (transitionRefused s)) t ∧ StatusStands t ∧
      Request.order (orderContent (orderOf .faultHold c (transitionRefused s)) false) ∈ t.engine.queued := by
  refine near_completeIssue (k := .faultHold) ?_ rfl c
  by_cases hf : s.sched.runState = .faultHold
  · have hs : setRunState .faultHold (s.modSeg fun g => { g with decided := none }) = s.modSeg fun g => { g with decided := none } := by
      simp [setRunState, hf]
    rw [hs]
    have ha : transitionRefused s = s.modSeg fun g => { g with decided := none } := by
      rw [transitionRefused, ← hf]
      rfl
    rw [ha]
    exact .rfl' _
  · exact near_setRunState (.rfl' (s.modSeg fun g => { g with decided := none })) hf

/-- The end of the plan (R6). -/
theorem endOfPlan_near (s : State) :
    Near
      { s with
        sched :=
          { s.sched with
            runState := .stopped, finish := .finished, queue := [], owed := [], heldCopy := none, startRequest := none
            lastRetired := (s.sched.queue.getLast?.map Entry.frame).or s.sched.lastRetired
            latestKept := s.sched.queue.foldl laterKept s.sched.latestKept }
        seg := { s.seg with decided := none }
        stats := { s.stats with latched := none } }
      (endOfPlan s) ∧ StatusStands (endOfPlan s) := by
  have hd := (near_abandonAll (.rfl' s) s.sched.queue).dropIssues
  rw [dropIssues_abandoned] at hd
  exact ⟨(hd.modSched fun q => { q with runState := .stopped, finish := .finished }).requestStatus, requestStatus_stands _⟩

/-! ### The wait for an entry (R45, R46, R63) -/

theorem keepsEntry_iff (s : State) (z : CacheEntry) :
    keepsEntry s z = true ↔ s.seg.current = some z.slot ∨ s.cache.loaded = some z.slot ∨
      s.cache.fetch = some { slot := z.slot, orphan := false } := by
  simp only [keepsEntry, Bool.or_eq_true, beq_iff_eq, fetching_eq_some, or_assoc]

theorem lazyCreate_of_room {s : State} (h : s.cache.entries.length < 32) (n : Nat) :
    (lazyCreate n s).cache = { s.cache with entries := s.cache.entries ++ [newEntry n] } := by
  simp [lazyCreate, makeRoom, h, State.modCache]

/-- A full cache gives up the first entry that may be removed. -/
theorem lazyCreate_of_full {s : State} {pre post : List CacheEntry} {y : CacheEntry} (h : 32 ≤ s.cache.entries.length)
    (he : s.cache.entries = pre ++ y :: post) (hpre : ∀ z ∈ pre, keepsEntry s z = true) (hy : keepsEntry s y = false) (n : Nat) :
    (lazyCreate n s).cache =
      { s.cache with entries := (s.cache.entries.filter fun z => z.slot ≠ y.slot) ++ [newEntry n] } := by
  have hfind : s.cache.entries.find? (fun e => !keepsEntry s e) = some y := by
    rw [he]
    exact find?_of_first (fun z hz => by simp [hpre z hz]) (by simp [hy])
  simp only [lazyCreate, makeRoom, if_neg (Nat.not_lt.mpr h), hfind]
  rfl

end Sys2Proof.Machine
end

section
/-! PROOFS. O47 assembled: what an attempt at an issue does where its exit is decided. -/

namespace Sys2Proof.Machine

/-! ### How the attempt goes on -/

theorem meteredFrame_of_owed {o : Origin} {frame : Word} {metered : Bool}
    (h : o = .retirement frame metered ∨ (o = .resumption false ∧ metered = false)) :
    o.meteredFrame = if metered then some frame else none := by
  rcases h with rfl | ⟨rfl, rfl⟩
  · cases metered <;> rfl
  · rfl

theorem attemptIssue_of_decided {o : Origin} {frame : Word} {metered : Bool} {c : Segment} {s : State}
    (ho : o = .retirement frame metered ∨ (o = .resumption false ∧ metered = false)) (hr : s.sched.runState = .running)
    (hw : s.sched.heldCopy = none ∨ s.seg.decided = none) (hc : readableCopy s.cache s.seg.current = some c)
    (hx : exitDecided s.seg c (provisionalDue s c) = true) :
    (c.next = none → attemptIssue o s = { state := endOfPlan (s.withCopy (some c)), made := true }) ∧
      ∀ n, c.next = some n →
        attemptIssue o s = judgeTransition (if metered then some frame else none) c n (s.withCopy (some c)) := by
  have h := (attemptIssue_of_copy o hw hc).trans (issueUnder_running (s := s.withCopy (some c)) c hr ho)
  exact ⟨fun hn => h.trans (ordinaryIssue_ends _ hx hn), fun n hn => h.trans (ordinaryIssue_judged _ hx hn)⟩

theorem withCopy_self (s : State) : s.withCopy s.seg.copyRead = s := rfl

theorem judgeTransition_fault {s : State} {n : Nat} {x : CacheEntry} (m : Option Word) (left : Segment) (he : s.cache.entry? n = some x)
    (hx : x.state = .fault) : judgeTransition m left n s = { state := continueFaultHold left s, made := true } := by
  simp [judgeTransition, he, hx]

theorem judgeTransition_absent {s : State} {n : Nat} (m : Option Word) (left : Segment) (he : s.cache.entry? n = none) :
    judgeTransition m left n s = { state := lazyCreate n (waiting left n s), made := false } := by
  simp [judgeTransition, he, waiting]

theorem attemptIssue_fixed (o : Origin) (s : State) : Fixed s (attemptIssue o s).state := by
  constructor <;> simp

/-- What waiting with the transition decided leaves of the run, an entry created among it. -/
theorem lazyCreate_waiting (left : Segment) (n : Nat) (s : State) :
    let t := lazyCreate n (waiting left n s)
    t.expo = s.expo ∧ t.stats = s.stats ∧ t.sched = { s.sched with heldCopy := some left } ∧
      t.seg = { s.seg with decided := some n } := by
  simp [waiting]

/-- Settles O47: the transition judged by the next slot's entry, each outcome by what it leaves of the run. -/
theorem decidedExitTakesTheTransition : Obligations.DecidedExitTakesTheTransition := by
  intro o frame metered rest c s howed ho a decides written waited copy held
  -- an issue that goes on under the copy kept, in FAULT_HOLD
  have holds : a = { state := continueFaultHold c (s.withCopy copy), made := true } → held := fun ha => by
    obtain ⟨hn, hst, hor⟩ := continueFaultHold_near c (s.withCopy copy)
    rw [appended_eq] at hn
    have he := orderOf_blocks .faultHold c (transitionRefused (s.withCopy copy))
    dsimp only at he
    have htail : s.sched.owed.tail = rest := by rw [howed]; rfl
    generalize orderOf .faultHold c _ = e at *
    have hstate : a.state = continueFaultHold c (s.withCopy copy) := by rw [ha]
    rw [← hstate] at hn hst hor
    subst he
    exact ⟨_, by rw [ha], hst, rfl, rfl, rfl, rfl, rfl, rfl, rfl, rfl, rfl, by rw [hn.run.sched, ← htail]; rfl, hn.run.expo, hn.run.seg,
      hn.cache, hn.stats, hor⟩
  have held_of : ∀ n, s.sched.runState = .faultHold → waited n → held := fun n hf hw => by
    obtain ⟨hh, hd⟩ := hw
    have hcopy : copy = s.seg.copyRead := by
      show (match s.sched.heldCopy, s.seg.decided with
        | some _, some _ => s.seg.copyRead
        | _, _ => some c) = _
      rw [hh, hd]
    refine holds ?_
    rw [hcopy, withCopy_self]
    show attemptIssue o s = _
    simp [attemptIssue, hh, hd, hf]
  have judged : ∀ n, s.sched.runState = .running → (decides ∧ c.next = some n) ∨ waited n →
      a = judgeTransition (if metered then some frame else none) c n (s.withCopy copy) := fun n hr h => by
    rcases h with ⟨⟨hw, hc, hx⟩, hn⟩ | ⟨hh, hd⟩
    · have hcopy : copy = some c := by
        show (match s.sched.heldCopy, s.seg.decided with
          | some _, some _ => s.seg.copyRead
          | _, _ => some c) = some c
        rcases hw with hw | hw
        · rw [hw]
        · rw [hw]
          cases s.sched.heldCopy <;> rfl
      rw [hcopy]
      exact (attemptIssue_of_decided ho hr hw hc hx).2 n hn
    · have hcopy : copy = s.seg.copyRead := by
        show (match s.sched.heldCopy, s.seg.decided with
          | some _, some _ => s.seg.copyRead
          | _, _ => some c) = _
        rw [hh, hd]
      rw [hcopy, withCopy_self, ← meteredFrame_of_owed ho]
      exact attemptIssue_of_waiting o hh hd (by rw [hr]; decide)
  refine ⟨attemptIssue_fixed o s, attemptIssue_undisturbed o s, fun hr hd hn => ?_, held_of, fun n hr h => ⟨?_, ?_, ?_⟩⟩
  · obtain ⟨hw, hc, hx⟩ := hd
    have ha : a = { state := endOfPlan (s.withCopy (some c)), made := true } := (attemptIssue_of_decided ho hr hw hc hx).1 hn
    obtain ⟨hnear, hst⟩ := endOfPlan_near (s.withCopy (some c))
    rw [ha]
    exact ⟨rfl, hst, hnear.run.expo, hnear.stats, hnear.run.sched, hnear.run.seg⟩
  · intro x d hx hv hd voided kept standing base chain held' bias level due
    have ha := (judged n hr h).trans (judgeTransition_valid (s := s.withCopy copy) _ c hx hv hd)
    have hcap : (s.withCopy copy).sched.runState.capturing = true := by
      show s.sched.runState.capturing = true
      rw [hr]
      rfl
    obtain ⟨hnear, hst, hor⟩ := takeTransition_near hcap (if metered then some frame else none) c n d
    have hvoid := fun y => takeTransition_order hcap (if metered then some frame else none) (left := c) n d (y := y)
    rw [appended_eq] at hnear
    have he := orderOf_blocks (.ordinary (if metered then some frame else none) true) d
      (transitionTaken c n d (s.withCopy copy))
    dsimp only at he
    rw [levelKind_of_metered] at he
    generalize orderOf (.ordinary (if metered then some frame else none) true) d _ = e at *
    have hstate : a.state = takeTransition (if metered then some frame else none) c n d (s.withCopy copy) := by rw [ha]
    rw [← hstate] at hnear hst hor hvoid
    have hbias : d.biasAt (transitionTaken c n d (s.withCopy copy)).seg.frames = bias := by
      show clampInt (-512) 512 (d.biasStart + d.biasRate * (0 : Nat)) = clampInt (-512) 512 d.biasStart
      simp
    have htail : (transitionTaken c n d (s.withCopy copy)).sched.owed.tail = rest ++ voided.map fun y => .retirement y.frame false := by
      show (s.sched.owed ++ voided.map fun y => Origin.retirement y.frame false).tail = _
      rw [howed]
      rfl
    rw [hbias] at he hnear
    rw [htail] at hnear
    subst he
    refine ⟨_, by rw [ha], hst, rfl, rfl, rfl, rfl, rfl, rfl, rfl, rfl, rfl, rfl, rfl, rfl, rfl, rfl, rfl, rfl, rfl, hnear.run.sched,
      hnear.run.expo, hnear.run.seg, hnear.cache, hnear.stats, hor, fun y hy hno hslot => ?_⟩
    refine hvoid y ?_ hy hslot
    have hnone : (s.engine.queued.filterMap Request.orderContent?) = [] := List.filterMap_eq_nil_iff.mpr hno
    have hcount := length_filterMap_order s.engine.queued
    rw [hnone] at hcount
    exact hcount.ge
  · intro hw
    have hj := judged n hr h
    cases hn : s.cache.entry? n with
    | some x =>
      have hx := hw x hn
      have ha := hj.trans (judgeTransition_of_stale (s := s.withCopy copy) (if metered then some frame else none) c hn
        (by rcases hx with hx | hx <;> simp [hx]) (by rcases hx with hx | hx <;> simp [hx]))
      rw [ha]
      exact ⟨rfl, rfl, rfl, rfl, rfl, fun _ => rfl, fun hno => absurd hno (by simp), fun _ _ _ hno => absurd hno (by simp)⟩
    | none =>
      have ha := hj.trans (judgeTransition_absent (s := s.withCopy copy) (if metered then some frame else none) c hn)
      obtain ⟨h1, h2, h3, h4⟩ := lazyCreate_waiting c n (s.withCopy copy)
      rw [ha]
      refine ⟨rfl, h1, h2, h3, h4, fun hsome => absurd hsome (by simp), fun _ hlt => ?_, fun pre y post _ hfull he => ?_⟩
      · exact lazyCreate_of_room (s := waiting c n (s.withCopy copy)) hlt n
      · intro stays hpre hy
        exact lazyCreate_of_full (s := waiting c n (s.withCopy copy)) hfull he (fun z hz => (keepsEntry_iff _ z).mpr (hpre z hz))
          (by rw [← Bool.not_eq_true, keepsEntry_iff]; exact hy) n
  · exact fun x hx hf => holds ((judged n hr h).trans (judgeTransition_fault (s := s.withCopy copy) _ _ hx hf))

end Sys2Proof.Machine
end

section
/-! PROOFS. The fields of words: what a field of a sum of placed fields reads (R180). -/

namespace Sys2Proof.Machine

/-! ### Fields of a word -/

theorem field_lt (w : Word) (lo n : Nat) : field w lo n < 2 ^ n := Nat.mod_lt _ (Nat.two_pow_pos n)

theorem signedField_eq (w : Word) (lo n : Nat) :
    signedField w lo (n + 1) =
      (if field w lo (n + 1) < 2 ^ n then (field w lo (n + 1) : Int) else field w lo (n + 1) - 2 ^ (n + 1)) := by
  simp [signedField]

theorem field_wordOf (x lo n : Nat) : field (wordOf x) lo n = x % 4294967296 / 2 ^ lo % 2 ^ n := by
  rw [field, wordOf, BitVec.toNat_ofNat]

theorem toNat_wordOf (x : Nat) : (wordOf x).toNat = x % 4294967296 := by rw [wordOf, BitVec.toNat_ofNat]

theorem bitOf_iff {w : Word} {i : Nat} {b : Bool} : bitOf w i = b ↔ field w i 1 = b.toNat := by
  have h := field_lt w i 1
  rw [bitOf]
  cases b
  · rw [decide_eq_false_iff_not, Bool.toNat_false]
    omega
  · rw [decide_eq_true_iff, Bool.toNat_true]

/-! ### Values placed in a word -/

theorem place_of_lt {v n : Nat} (h : v < 2 ^ n) (lo : Nat) : place v lo n = v * 2 ^ lo := by rw [place, Nat.mod_eq_of_lt h]

theorem placeBit_eq (b : Bool) (i : Nat) : placeBit b i = b.toNat * 2 ^ i := by cases b <;> simp [placeBit]

/-- The number that stands for a signed value in a field of `n + 1` bits. -/
def twosComplement (v : Int) (n : Nat) : Nat := (v % (2 ^ n : Nat)).toNat

theorem placeSigned_eq (v : Int) (lo n : Nat) : placeSigned v lo n = twosComplement v n * 2 ^ lo := rfl

theorem twosComplement_lt (v : Int) (n : Nat) : twosComplement v n < 2 ^ n := by
  have hp : (0 : Int) < (2 ^ n : Nat) := by exact_mod_cast Nat.two_pow_pos n
  have h0 := Int.emod_nonneg v hp.ne'
  have h1 := Int.emod_lt_of_pos v hp
  unfold twosComplement
  omega

/-- A signed value within its field is read back. -/
theorem signedField_of_placed {w : Word} {v : Int} {lo n : Nat} (h : field w lo (n + 1) = twosComplement v (n + 1))
    (hlo : -(2 ^ n : Nat) ≤ v) (hhi : v < (2 ^ n : Nat)) : signedField w lo (n + 1) = v := by
  have hpow : (2 : Nat) ^ (n + 1) = 2 * 2 ^ n := by ring
  rw [signedField, h, twosComplement, Nat.add_sub_cancel, hpow]
  generalize 2 ^ n = p at *
  by_cases hv : 0 ≤ v
  · have hm : v % ((2 * p : Nat) : Int) = v := Int.emod_eq_of_lt hv (by push_cast; omega)
    rw [hm]
    split <;> omega
  · have hm : v % ((2 * p : Nat) : Int) = v + (2 * p : Nat) := by
      rw [← Int.add_emod_right, Int.emod_eq_of_lt (by push_cast; omega) (by omega)]
    rw [hm]
    split <;> (push_cast at *; omega)

/-! ### Codes -/

theorem Mode.code_lt (m : Mode) : m.code < 2 ^ 2 := by cases m <;> decide

theorem Settle.code_lt (k : Settle) : k.code < 2 ^ 2 := by cases k <;> decide

theorem ExitKind.code_lt (k : ExitKind) : k.code < 2 ^ 3 := by cases k <;> decide

theorem modeOfCode_code (m : Mode) : modeOfCode m.code = some m := by cases m <;> rfl

theorem settleOfCode_code (k : Settle) : settleOfCode k.code = some k := by cases k <;> rfl

theorem exitOfCode_code (k : ExitKind) : exitOfCode k.code = some k := by cases k <;> rfl

theorem modeOfCode_some {n : Nat} {m : Mode} (h : modeOfCode n = some m) : n = m.code := by
  unfold modeOfCode at h
  split at h <;> cases h <;> rfl

theorem settleOfCode_some {n : Nat} {k : Settle} (h : settleOfCode n = some k) : n = k.code := by
  unfold settleOfCode at h
  split at h <;> cases h <;> rfl

theorem exitOfCode_some {n : Nat} {k : ExitKind} (h : exitOfCode n = some k) : n = k.code := by
  unfold exitOfCode at h
  split at h <;> cases h <;> rfl

theorem slotCode_eq (o : Option Nat) : slotCode o = o.getD 127 := by cases o <;> rfl

theorem slotOfCode_slotCode {o : Option Nat} (h : ∀ n, o = some n → n < 127) : slotOfCode (slotCode o) = o := by
  cases o with
  | none => rfl
  | some n => simp [slotCode, slotOfCode, (h n rfl).ne]

theorem slotOfCode_getD (n : Nat) : (slotOfCode n).getD 127 = n ∧ slotOfCode n ≠ some 127 := by
  unfold slotOfCode
  split
  · rename_i h
    simp [h]
  · rename_i h
    simp [h]

/-! ### The command word (R180) -/

theorem codeAssigned_iff (code : BitVec 8) : codeAssigned code = true ↔ 1 ≤ code.toNat ∧ code.toNat ≤ 11 := by
  simp [codeAssigned]

theorem commandOfCode_unassigned {code : BitVec 8} (h : codeAssigned code = false) : commandOfCode code = .unassigned code :=
  commandOfCode_codeOfCommand (c := .unassigned code) fun k hk => by
    obtain rfl : code = k := by simpa using hk
    exact h

/-! ### The segment record (R180) -/

/-- The fields of word 0 of a segment record written. -/
theorem segmentWord0 {c : Segment} (hn : ∀ n, c.next = some n → n < 127) (hs : c.stretch ≤ 16) :
    let w := (encodeSegment c).getD 0 0
    field w 0 8 = 3 ∧ field w 8 2 = c.mode.code ∧ field w 10 2 = c.settle.code ∧ field w 12 3 = c.exitKind.code ∧
      field w 16 7 = slotCode c.next ∧ field w 24 5 = c.stretch := by
  have h1 := c.mode.code_lt
  have h2 := c.settle.code_lt
  have h3 := c.exitKind.code_lt
  have h4 : slotCode c.next < 2 ^ 7 := by
    rw [slotCode_eq]
    cases hx : c.next with
    | none => simp
    | some n =>
      have := hn n hx
      simp
      omega
  simp only [encodeSegment, List.getD_cons_zero, place_of_lt h1, place_of_lt h2, place_of_lt h3, place_of_lt h4,
    place_of_lt (show c.stretch < 2 ^ 5 by omega), field_wordOf]
  omega

/-- The fields of words 1 to 3: exit, interval, margin and dwell, gain and weights. -/
theorem segmentWords123 {c : Segment} (hp : c.exitParam < 2 ^ 17) (hg : c.guardZones ≤ 64) (hh : c.holdCount ≤ 255)
    (hi : c.interval ≤ 88473600) (hm : c.readoutMargin ≤ 65535) (hd : c.minDwell ≤ 255) (hn : c.gainNum ≤ 16) (hw : c.weightSet ≤ 3) :
    let w := fun i => (encodeSegment c).getD i 0
    (field (w 1) 0 17 = c.exitParam ∧ field (w 1) 17 7 = c.guardZones ∧ field (w 1) 24 8 = c.holdCount) ∧
      field (w 2) 0 32 = c.interval ∧
      field (w 3) 0 16 = c.readoutMargin ∧ field (w 3) 16 8 = c.minDwell ∧ field (w 3) 24 5 = c.gainNum ∧
      field (w 3) 29 2 = c.weightSet := by
  simp only [encodeSegment, List.getD_cons_zero, List.getD_cons_succ, field_wordOf, place]
  refine ⟨?_, ?_, ?_⟩ <;> omega

/-- The fields of words 4 to 6: levels, shutter and gain, target and slew. -/
theorem segmentWords456 {c : Segment} (h1 : c.elMin ≤ 1663) (h2 : c.elMax ≤ 1663) (h3 : c.shutterMax ≤ 1279) (h4 : c.gainMax ≤ 384)
    (h5 : c.guardStep ≤ 127) (h6 : c.target ≤ 4095) (h7 : c.deadband ≤ 63) (h8 : c.slew ≤ 255) :
    let w := fun i => (encodeSegment c).getD i 0
    (field (w 4) 0 11 = c.elMin ∧ field (w 4) 16 11 = c.elMax) ∧
      (field (w 5) 0 11 = c.shutterMax ∧ field (w 5) 16 9 = c.gainMax ∧ field (w 5) 25 7 = c.guardStep) ∧
      field (w 6) 0 12 = c.target ∧ field (w 6) 12 6 = c.deadband ∧ field (w 6) 18 8 = c.slew := by
  simp only [encodeSegment, List.getD_cons_zero, List.getD_cons_succ, field_wordOf, place]
  refine ⟨?_, ?_, ?_⟩ <;> omega

/-- The signed fields of word 7. -/
theorem segmentWord7 {c : Segment} (h1 : -255 ≤ c.rampRate ∧ c.rampRate ≤ 255) (h2 : -512 ≤ c.biasStart ∧ c.biasStart ≤ 512)
    (h3 : -64 ≤ c.biasRate ∧ c.biasRate ≤ 64) :
    let w := (encodeSegment c).getD 7 0
    signedField w 0 9 = c.rampRate ∧ signedField w 10 11 = c.biasStart ∧ signedField w 21 8 = c.biasRate := by
  have k1 := twosComplement_lt c.rampRate 9
  have k2 := twosComplement_lt c.biasStart 11
  have k3 := twosComplement_lt c.biasRate 8
  have hf : field ((encodeSegment c).getD 7 0) 0 9 = twosComplement c.rampRate 9 ∧
      field ((encodeSegment c).getD 7 0) 10 11 = twosComplement c.biasStart 11 ∧
      field ((encodeSegment c).getD 7 0) 21 8 = twosComplement c.biasRate 8 := by
    simp only [encodeSegment, List.getD_cons_zero, List.getD_cons_succ, field_wordOf, placeSigned_eq]
    omega
  exact ⟨signedField_of_placed hf.1 (by norm_num; omega) (by norm_num; omega),
    signedField_of_placed hf.2.1 (by norm_num; omega) (by norm_num; omega),
    signedField_of_placed hf.2.2 (by norm_num; omega) (by norm_num; omega)⟩

theorem decodeSegment_encode {c : Segment} (hr : c.inRange = true) (hp : c.exitParam < 2 ^ 17) (hn : ∀ n, c.next = some n → n < 127) :
    decodeSegment (encodeSegment c) = some c := by
  obtain ⟨-, -, hold, -, dwell, -, interval, -, stretch, margin, elMin, elMax, shutter, gain, -, target, weight, -, num, dead, -, slew,
    r1, r2, b1, b2, d1, d2, zones, step, -⟩ := (inRange_iff c).mp hr
  obtain ⟨w00, w01, w02, w03, w04, w05⟩ := segmentWord0 hn stretch
  obtain ⟨⟨w10, w11, w12⟩, w20, w30, w31, w32, w33⟩ := segmentWords123 hp zones hold interval margin dwell num weight
  obtain ⟨⟨w40, w41⟩, ⟨w50, w51, w52⟩, w60, w61, w62⟩ := segmentWords456 elMin elMax shutter gain step target dead slew
  obtain ⟨w70, w71, w72⟩ := segmentWord7 ⟨r1, r2⟩ ⟨b1, b2⟩ ⟨d1, d2⟩
  unfold decodeSegment
  simp only [w00, w01, w02, w03, w04, w05, w10, w11, w12, w20, w30, w31, w32, w33, w40, w41, w50, w51, w52, w60, w61, w62, w70, w71, w72,
    modeOfCode_code, settleOfCode_code, exitOfCode_code, slotOfCode_slotCode hn, if_true]

/-- A segment that passes RANGE, BOUNDS, RATE and LINK passes the check of its record. -/
theorem checkSegment_encode {c : Segment} {slots : Nat} (hd : decodeSegment (encodeSegment c) = some c) (hr : c.inRange = true)
    (hb : c.elMin ≤ c.hi) (hs : c.rampRate.natAbs ≤ c.slew) (hl : c.linkIn slots = true) :
    checkSegment slots ((encodeSegment c).map goodWord) = .ok c := by
  have hgood : ((encodeSegment c).map goodWord).all BusWord.good = true := by simp [goodWord_good]
  have hdata : ((encodeSegment c).map goodWord).map BusWord.data = encodeSegment c := by simp [goodWord, Function.comp_def]
  rw [checkSegment_of_decoded hgood (by rw [hdata, hd])]
  simp [hr, hl, Nat.not_lt.mpr hb, Nat.not_lt.mpr hs]

/-- The fields that a record decoded holds. -/
theorem decodeSegment_fields {ws : List Word} {c : Segment} (h : decodeSegment ws = some c) :
    let w := fun i => ws.getD i 0
    field (w 0) 0 8 = 3 ∧
      ∃ mode settle exitKind, field (w 0) 8 2 = mode.code ∧ field (w 0) 10 2 = settle.code ∧ field (w 0) 12 3 = exitKind.code ∧
        c =
          { mode := mode, settle := settle, exitKind := exitKind,
            exitParam := field (w 1) 0 17, holdCount := field (w 1) 24 8, minDwell := field (w 3) 16 8,
            next := slotOfCode (field (w 0) 16 7), interval := field (w 2) 0 32, stretch := field (w 0) 24 5,
            readoutMargin := field (w 3) 0 16, elMin := field (w 4) 0 11, elMax := field (w 4) 16 11,
            shutterMax := field (w 5) 0 11, gainMax := field (w 5) 16 9, target := field (w 6) 0 12,
            weightSet := field (w 3) 29 2, gainNum := field (w 3) 24 5, deadband := field (w 6) 12 6,
            slew := field (w 6) 18 8, rampRate := signedField (w 7) 0 9, biasStart := signedField (w 7) 10 11,
            biasRate := signedField (w 7) 21 8, guardZones := field (w 1) 17 7, guardStep := field (w 5) 25 7 } := by
  unfold decodeSegment at h
  dsimp only at h
  split at h
  · rename_i hformat
    split at h
    · rename_i mode settle exitKind hm hk he
      exact ⟨hformat, mode, settle, exitKind, modeOfCode_some hm, settleOfCode_some hk, exitOfCode_some he, (Option.some.inj h).symm⟩
    · cases h
  · cases h

end Sys2Proof.Machine
end

section
/-! PROOFS. The words of an order slot, a log record and the status record, field by field (O4). -/

namespace Sys2Proof.Machine

theorem seconds_lt (x : Time) : x.seconds < 2 ^ 32 := by
  have h := x.isLt
  unfold Time.seconds
  omega

theorem tick_lt (x : Time) : x.tick < 2 ^ 10 := Nat.mod_lt _ (by decide)

/-! ### The order slot (R180) -/

theorem orderWord2 {o : OrderContent} (h : o.slot < 128) :
    let w := o.words.getD 2 0
    field w 0 16 = o.due.tick ∧ bitOf w 16 = o.void ∧ bitOf w 17 = o.first ∧ bitOf w 18 = o.stretched ∧ bitOf w 19 = o.deferred ∧
      field w 20 4 = 0 ∧ field w 24 8 = o.slot := by
  have ht := tick_lt o.due
  have h1 := o.void.toNat_le
  have h2 := o.first.toNat_le
  have h3 := o.stretched.toNat_le
  have h4 := o.deferred.toNat_le
  simp only [OrderContent.words, List.getD_cons_zero, List.getD_cons_succ, bitOf_iff, field_wordOf, OrderContent.flagBits, placeBit_eq, place]
  omega

theorem orderWords_fields {o : OrderContent} (h1 : o.el < 2048) (h2 : o.gainCode < 2048) (h4 : o.shutterUs < 2 ^ 32)
    (h5 : o.skipped < 65536) :
    let w := fun i => o.words.getD i 0
    (w 1).toNat = o.due.seconds ∧ field (w 3) 0 16 = o.el ∧ field (w 3) 16 16 = o.gainCode ∧ (w 4).toNat = o.shutterUs ∧
      (w 5).toNat = o.skipped := by
  have hs := seconds_lt o.due
  simp only [OrderContent.words, List.getD_cons_zero, List.getD_cons_succ, toNat_wordOf, field_wordOf, place]
  omega

/-! ### The log record (R180, R182) -/

theorem FrameOutcome.code_lt (o : FrameOutcome) : o.code < 8 := by cases o <;> decide

theorem Cause.code_lt (c : Cause) : c.code < 8 := by cases c <;> decide

theorem logWord2 {l : LogContent} (h : l.entry.slot < 128) :
    let w := l.words.getD 2 0
    field w 0 12 = l.entry.due.tick ∧ field w 12 4 = l.outcome.code ∧ field w 16 8 = l.cause.code ∧ field w 24 8 = l.entry.slot := by
  have ht := tick_lt l.entry.due
  have h1 := l.outcome.code_lt
  have h2 := l.cause.code_lt
  simp only [LogContent.words, List.getD_cons_zero, List.getD_cons_succ, field_wordOf, place]
  omega

theorem logWord5 {l : LogContent} (hb : ∀ b, l.bl = some b → b < 1024) (h1 : -2048 ≤ l.error) (h2 : l.error ≤ 2047) :
    let w := l.words.getD 5 0
    field w 0 16 = l.bl.getD 1023 ∧ signedField w 16 12 = l.error ∧ field w 28 4 = 0 := by
  have hbl : l.bl.getD 1023 < 1024 := by
    cases h : l.bl with
    | none => decide
    | some b => exact hb b h
  have he := twosComplement_lt l.error 12
  have hf : field (l.words.getD 5 0) 0 16 = l.bl.getD 1023 ∧ field (l.words.getD 5 0) 16 12 = twosComplement l.error 12 ∧
      field (l.words.getD 5 0) 28 4 = 0 := by
    simp only [LogContent.words, List.getD_cons_zero, List.getD_cons_succ, field_wordOf, placeSigned_eq, place]
    omega
  exact ⟨hf.1, signedField_of_placed hf.2.1 (by norm_num; omega) (by norm_num; omega), hf.2.2⟩

theorem logWord6 {l : LogContent} (h : l.sample < 8192) :
    let w := l.words.getD 6 0
    bitOf w 0 = decide (l.entry.limit = .high) ∧ bitOf w 1 = decide (l.entry.limit = .low) ∧
      bitOf w 2 = decide (l.cause = .settling) ∧ bitOf w 3 = l.degraded ∧ bitOf w 4 = l.entry.stretched ∧
      bitOf w 5 = l.entry.deferred ∧ bitOf w 6 = l.gap ∧ bitOf w 7 = l.entry.first ∧ field w 8 8 = 0 ∧ field w 16 16 = l.sample := by
  have h1 := (decide (l.entry.limit = .high)).toNat_le
  have h2 := (decide (l.entry.limit = .low)).toNat_le
  have h3 := (decide (l.cause = .settling)).toNat_le
  have h4 := l.degraded.toNat_le
  have h5 := l.entry.stretched.toNat_le
  have h6 := l.entry.deferred.toNat_le
  have h7 := l.gap.toNat_le
  have h8 := l.entry.first.toNat_le
  have k1 : (l.entry.limit == .high) = decide (l.entry.limit = .high) := rfl
  have k2 : (l.entry.limit == .low) = decide (l.entry.limit = .low) := rfl
  have k3 : (l.cause == .settling) = decide (l.cause = .settling) := rfl
  simp only [LogContent.words, List.getD_cons_zero, List.getD_cons_succ, bitOf_iff, field_wordOf, LogContent.flagBits, placeBit_eq, place,
    k1, k2, k3]
  generalize (decide (l.entry.limit = .high)).toNat = b1 at *
  generalize (decide (l.entry.limit = .low)).toNat = b2 at *
  generalize (decide (l.cause = .settling)).toNat = b3 at *
  omega

theorem logWords_fields {l : LogContent} (h1 : l.entry.el < 2048) (h2 : l.entry.gainCode < 2048) (h3 : l.entry.shutterUs < 2 ^ 32)
    (h4 : l.entry.skipped < 65536) :
    let w := fun i => l.words.getD i 0
    (w 1).toNat = l.entry.due.seconds ∧ field (w 3) 0 16 = l.entry.el ∧ field (w 3) 16 16 = l.entry.gainCode ∧
      (w 4).toNat = l.entry.shutterUs ∧ (w 7).toNat = l.entry.skipped := by
  have hs := seconds_lt l.entry.due
  simp only [LogContent.words, List.getD_cons_zero, List.getD_cons_succ, toNat_wordOf, field_wordOf, place]
  omega

/-! ### The status record (R180, R182) -/

theorem statusWord1_fields (s : State) (count : Word) :
    let w := (statusWords s count).getD 1 0
    field w 0 4 = s.sched.runState.code ∧ field w 4 4 = s.sched.finish.code ∧ field w 8 4 = s.session.state.code ∧
      field w 12 3 = s.session.cause.code ∧ bitOf w 15 = s.session.late ∧ field w 16 2 = s.session.sleepKind.code ∧
      field w 18 2 = s.supply.state.code ∧ field w 20 1 = s.tb.source.code ∧ field w 21 11 = s.cmd.resetCause.code := by
  have h1 : s.sched.runState.code < 8 := by cases s.sched.runState <;> decide
  have h2 : s.sched.finish.code < 4 := by cases s.sched.finish <;> decide
  have h3 : s.session.state.code < 8 := by cases s.session.state <;> decide
  have h4 : s.session.cause.code < 8 := by cases s.session.cause <;> decide
  have h5 := s.session.late.toNat_le
  have h6 : s.session.sleepKind.code < 4 := by cases s.session.sleepKind <;> decide
  have h7 : s.supply.state.code < 4 := by cases s.supply.state <;> decide
  have h8 : s.tb.source.code < 2 := by cases s.tb.source <;> decide
  have h9 : s.cmd.resetCause.code < 2 := by cases s.cmd.resetCause <;> decide
  simp only [statusWords, List.getD_cons_zero, List.getD_cons_succ, bitOf_iff, field_wordOf, statusWord1, placeBit_eq, place]
  omega

theorem statusFlagWord_eq (s : State) :
    statusFlagWord s =
      placeBit s.session.cold 0 + placeBit s.tb.unset 1 + placeBit s.tb.degraded 2 + placeBit s.cache.loaded.isSome 3 +
        placeBit s.cache.fault.isSome 4 + s.stats.flags.bits + place s.session.pendingSet.toNat 16 8 +
        placeBit s.sched.lastRetired.isNone 24 + place ((s.cache.fault.map fun f => f.2.code).getD 0) 28 3 := by
  unfold statusFlagWord
  cases s.cache.fault <;> rfl

theorem statusWord6_eq (s : State) :
    statusWord6 s =
      place s.expo.el 0 11 + place s.sched.queue.length 12 2 + place (s.seg.current.getD 127) 16 7 +
        place ((s.cache.fault.map Prod.fst).getD 127) 24 7 := by
  unfold statusWord6
  rw [slotCode_eq]
  cases s.cache.fault <;> rfl

theorem faultCode_lt (f : Option (Nat × FaultReason)) : (f.map fun f => f.2.code).getD 0 < 8 := by
  cases f with
  | none => decide
  | some f =>
    have h : f.2.code < 8 := by cases f.2 <;> decide
    exact h

theorem statusWord2_fields (s : State) (count : Word) :
    let w := (statusWords s count).getD 2 0
    bitOf w 0 = s.session.cold ∧ bitOf w 1 = s.tb.unset ∧ bitOf w 2 = s.tb.degraded ∧
    bitOf w 3 = s.cache.loaded.isSome ∧ bitOf w 4 = s.cache.fault.isSome ∧ field w 5 3 = 0 ∧
    bitOf w 8 = s.stats.flags.overrun ∧ bitOf w 9 = s.stats.flags.gap ∧
    bitOf w 10 = s.stats.flags.mismatch ∧ bitOf w 11 = s.stats.flags.parity ∧
    bitOf w 12 = s.stats.flags.late ∧ bitOf w 13 = s.stats.flags.unknown ∧
    bitOf w 14 = s.stats.flags.restart ∧ bitOf w 15 = false ∧
    field w 16 8 = s.session.pendingSet.toNat ∧ bitOf w 24 = s.sched.lastRetired.isNone ∧
    field w 25 3 = 0 ∧ field w 28 4 = (s.cache.fault.map fun f => f.2.code).getD 0 := by
  have h1 := s.session.cold.toNat_le
  have h2 := s.tb.unset.toNat_le
  have h3 := s.tb.degraded.toNat_le
  have h4 := s.cache.loaded.isSome.toNat_le
  have h5 := s.cache.fault.isSome.toNat_le
  have k1 := s.stats.flags.overrun.toNat_le
  have k2 := s.stats.flags.gap.toNat_le
  have k3 := s.stats.flags.mismatch.toNat_le
  have k4 := s.stats.flags.parity.toNat_le
  have k5 := s.stats.flags.late.toNat_le
  have k6 := s.stats.flags.unknown.toNat_le
  have k7 := s.stats.flags.restart.toNat_le
  have h6 := s.session.pendingSet.isLt
  have h7 := s.sched.lastRetired.isNone.toNat_le
  have h8 := faultCode_lt s.cache.fault
  simp only [statusWords, List.getD_cons_zero, List.getD_cons_succ, bitOf_iff, field_wordOf, statusFlagWord_eq, StickyFlags.bits, placeBit_eq,
    place, Bool.toNat_false]
  omega

theorem statusWord5_fields (s : State) (count : Word) :
    let w := (statusWords s count).getD 5 0
    field w 0 8 = (s.cmd.lastDecided.map fun d => d.1.toNat).getD 0 ∧ field w 8 8 = (s.cmd.lastDecided.map fun d => d.2.code).getD 0 ∧
    field w 16 8 = (s.cmd.busy.map fun b => b.1.toNat).getD 0 ∧ bitOf w 24 = s.cmd.busy.isSome ∧
    bitOf w 25 = s.cmd.lastDecided.isSome ∧ field w 26 6 = (s.cmd.busy.map fun b => b.2.code).getD 0 := by
  simp only [statusWords, List.getD_cons_zero, List.getD_cons_succ, bitOf_iff, field_wordOf, statusWord5]
  have hd : ∀ d : BitVec 8 × Result, d.1.toNat < 256 ∧ d.2.code < 16 := fun d => ⟨d.1.isLt, by cases d.2 <;> decide⟩
  have hb : ∀ b : BitVec 8 × LongKind, b.1.toNat < 256 ∧ b.2.code < 4 := fun b => ⟨b.1.isLt, by cases b.2 <;> decide⟩
  cases s.cmd.lastDecided with
  | none =>
    cases s.cmd.busy with
    | none => decide
    | some b =>
      have := hb b
      simp only [placeBit_eq, place, Option.map_some, Option.map_none, Option.getD_some, Option.getD_none, Option.isSome_some,
        Option.isSome_none, Bool.toNat_true, Bool.toNat_false]
      omega
  | some d =>
    have := hd d
    cases s.cmd.busy with
    | none =>
      simp only [placeBit_eq, place, Option.map_some, Option.map_none, Option.getD_some, Option.getD_none, Option.isSome_some,
        Option.isSome_none, Bool.toNat_true, Bool.toNat_false]
      omega
    | some b =>
      have := hb b
      simp only [placeBit_eq, place, Option.map_some, Option.getD_some, Option.isSome_some, Bool.toNat_true]
      omega

theorem statusWord6_fields {s : State} (count : Word) (h1 : s.expo.el < 2048) (h2 : s.sched.queue.length < 4)
    (h3 : ∀ n, s.seg.current = some n → n < 128) (h4 : ∀ f, s.cache.fault = some f → f.1 < 128) :
    let w := (statusWords s count).getD 6 0
    field w 0 12 = s.expo.el ∧ field w 12 4 = s.sched.queue.length ∧ field w 16 8 = s.seg.current.getD 127 ∧
      field w 24 8 = (s.cache.fault.map Prod.fst).getD 127 := by
  have hcurrent : s.seg.current.getD 127 < 128 := by
    cases hx : s.seg.current with
    | none => decide
    | some n => exact h3 n hx
  have hfault : (s.cache.fault.map Prod.fst).getD 127 < 128 := by
    cases hx : s.cache.fault with
    | none => decide
    | some f => exact h4 f hx
  simp only [statusWords, List.getD_cons_zero, List.getD_cons_succ, field_wordOf, statusWord6_eq, place]
  omega

theorem headFrame_eq (q : List Entry) : headFrame q = (q.head?.map Entry.frame).getD 0 := by cases q <;> rfl

theorem tailFrame_eq (q : List Entry) : tailFrame q = (q.getLast?.map Entry.frame).getD 0 := by
  rw [tailFrame, headFrame_eq, List.head?_reverse]

/-- The event counts, two in a word. -/
theorem statusCounts {s : State} (count : Word) (h : ∀ k, s.session.counts.get k < 65536) (k : EventClass) :
    field ((statusWords s count).getD (12 + k.index / 2) 0) (16 * (k.index % 2)) 16 = s.session.counts.get k := by
  have h1 : s.session.counts.battLow < 65536 := h .battLow
  have h2 : s.session.counts.battCrit < 65536 := h .battCrit
  have h3 : s.session.counts.planFault < 65536 := h .planFault
  have h4 : s.session.counts.statsError < 65536 := h .statsError
  have h5 : s.session.counts.timeDegraded < 65536 := h .timeDegraded
  have h6 : s.session.counts.logLost < 65536 := h .logLost
  have h7 : s.session.counts.forcedSleep < 65536 := h .forcedSleep
  have h8 : s.session.counts.busAnomaly < 65536 := h .busAnomaly
  cases k <;>
    simp only [EventClass.index, PerClass.get, statusWords, List.getD_cons_zero, List.getD_cons_succ, field_wordOf, place, Nat.reduceDiv,
      Nat.reduceAdd, Nat.reduceMod, Nat.reduceMul] <;>
    omega

/-- The words past the counters hold nothing. -/
theorem statusWords_rest (s : State) (count : Word) {i : Nat} (h : 21 ≤ i) : (statusWords s count).getD i 0 = 0 := by
  obtain ⟨j, rfl⟩ := Nat.exists_eq_add_of_le h
  have hdrop : (statusWords s count).drop 21 = List.replicate 11 0 := rfl
  have hget : (statusWords s count).getD (21 + j) 0 = ((statusWords s count).drop 21).getD j 0 := by
    simp [List.getD_eq_getElem?_getD, List.getElem?_drop]
  rw [hget, hdrop]
  simp only [List.getD_eq_getElem?_getD, List.getElem?_replicate]
  split <;> rfl

end Sys2Proof.Machine
end

section
/-! PROOFS. O4 assembled: the layouts of the records, part by part. -/

namespace Sys2Proof.Machine

theorem encodeCommandWord_high (high : BitVec 16) (c : CommandName) (seq : BitVec 8) :
    field (encodeCommandWord high c seq) 16 16 = high.toNat := by
  have h1 := high.isLt
  have h2 := seq.isLt
  have h3 := (codeOfCommand c).isLt
  rw [field, encodeCommandWord_toNat]
  omega

/-- The command that each code names. -/
theorem decodeCommandWord_codes (w : Word) :
    let code := field w 0 8
    let c := (decodeCommandWord w).1
    (decodeCommandWord w).2.toNat = field w 8 8 ∧
    (code = 1 → c = .configure) ∧ (code = 2 → c = .setTime) ∧ (code = 3 → c = .trimTime) ∧ (code = 4 → c = .loadPlan) ∧
    (code = 5 → c = .setEv) ∧ (code = 6 → c = .start) ∧ (code = 7 → c = .stop) ∧ (code = 8 → c = .arm) ∧
    (code = 9 → c = .sleep) ∧ (code = 10 → c = .clear) ∧ (code = 11 → c = .resetPart) ∧
    (code = 0 ∨ 11 < code → c = .unassigned (BitVec.ofNat 8 code)) := by
  intro code c
  have hc : c = commandOfCode (BitVec.ofNat 8 code) := rfl
  have hlt : code < 256 := field_lt w 0 8
  have hseq : (decodeCommandWord w).2.toNat = field w 8 8 := by
    show (BitVec.ofNat 8 (field w 8 8)).toNat = _
    rw [BitVec.toNat_ofNat, Nat.mod_eq_of_lt (field_lt w 8 8)]
  refine ⟨hseq, ?_, ?_, ?_, ?_, ?_, ?_, ?_, ?_, ?_, ?_, ?_, fun h => ?_⟩
  case refine_12 =>
    rw [hc]
    refine commandOfCode_unassigned ?_
    rw [← Bool.not_eq_true, codeAssigned_iff, BitVec.toNat_ofNat, Nat.mod_eq_of_lt hlt]
    omega
  all_goals
    intro h
    rw [hc, h]
    rfl

theorem wakeLevels_decoded (ws : List Word) (k : EventClass) :
    (decodeConfig ws).settings.wakeLevels.get k = field (ws.getD 12 0) (4 * k.index) 3 := by cases k <;> rfl

theorem weights_decoded (ws : List Word) {set zone : Nat} (hs : set < 4) (hz : zone < 64) :
    (decodeConfig ws).tuning.weight set zone = field (ws.getD (32 + 8 * set + zone / 8) 0) (4 * (zone % 8)) 4 := by
  have hlt : 8 * set + zone / 8 < 32 := by omega
  have hget : ((ws.drop 32).take 32).getD (8 * set + zone / 8) 0 = ws.getD (32 + 8 * set + zone / 8) 0 := by
    simp [List.getD_eq_getElem?_getD, hlt, List.getElem?_drop, Nat.add_assoc]
  show field (((ws.drop 32).take 32).getD (8 * set + zone / 8) 0) (4 * (zone % 8)) 4 = _
  rw [hget]

theorem whole_field (w : Word) : field w 0 32 = w.toNat := by
  have h := w.isLt
  rw [field]
  omega

/-- The value of a class stands at the class's number. -/
theorem perClass_get (p : PerClass) (k : EventClass) :
    p.get k =
      [p.battLow, p.battCrit, p.planFault, p.statsError, p.timeDegraded, p.logLost, p.forcedSleep, p.busAnomaly].getD k.index 0 := by
  cases k <;> rfl

/-- Settles O4: each record's words by the fields placed in them, read back bit by bit. -/
theorem recordLayouts : Obligations.RecordLayouts := by
  refine ⟨fun w lo n => ⟨rfl, bitOf_eq_getLsbD w lo, signedField_eq w lo n, rfl, rfl, goodWord_good w⟩,
    fun x => ⟨?_, tick_lt x⟩, decodeCommandWord_codes, codeAssigned_iff, encodeCommandWord_high,
    fun high c seq h => decodeCommandWord_encode high seq h, fun c slots hr hp hn => ?_, fun ws c h => ?_, fun ws => ?_,
    fun _ _ _ => rfl, fun o h1 h2 h3 h4 h5 => ?_, fun l h1 h2 h3 h4 h5 hb he1 he2 hs => ?_, ?_, ?_⟩
  · show x.toNat = x.toNat / 1024 * 1024 + x.toNat % 1024
    omega
  · have hd := decodeSegment_encode hr hp hn
    exact ⟨hd, checkSegment_encode hd hr⟩
  · obtain ⟨hf, mode, settle, exitKind, hm, hk, he, rfl⟩ := decodeSegment_fields h
    obtain ⟨h1, h2⟩ := slotOfCode_getD (field (ws.getD 0 0) 16 7)
    exact ⟨hf, hm, hk, he, h1.symm, rfl, rfl, rfl, rfl, (whole_field _).symm, rfl, rfl, rfl, rfl, rfl, rfl, rfl, rfl, rfl, rfl, rfl,
      rfl, rfl, rfl, rfl, h2⟩
  · exact ⟨rfl, rfl, rfl, rfl, rfl, rfl, rfl, rfl, rfl, rfl, rfl, rfl, rfl, rfl, rfl, whole_field _, whole_field _,
      wakeLevels_decoded ws, rfl, rfl, rfl, rfl, rfl, rfl, fun set hs zone hz => weights_decoded ws hs hz⟩
  · obtain ⟨a1, a3, a4, a5, a6⟩ := orderWords_fields h1 h2 h4 h5
    obtain ⟨b1, b2, b3, b4, b5, b6, b7⟩ := orderWord2 h3
    exact ⟨rfl, rfl, a1, b1, b2, b3, b4, b5, b6, b7, a3, a4, a5, a6, rfl, rfl⟩
  · obtain ⟨a1, a3, a4, a5, a7⟩ := logWords_fields h1 h2 h4 h5
    obtain ⟨b1, b2, b3, b4⟩ := logWord2 h3
    obtain ⟨c1, c2, c3⟩ := logWord5 hb he1 he2
    obtain ⟨d1, d2, d3, d4, d5, d6, d7, d8, d9, d10⟩ := logWord6 hs
    exact ⟨rfl, rfl, a1, b1, b2, b3, b4, a3, a4, a5, c1, c2, c3, d1, d2, d3, d4, d5, d6, d7, d8, d9, d10, a7⟩
  · intro s count hel hsample hqueue hcurrent hfault hproducer hlost hcounts htriggers hmisses hvoids hunmetered hskips w
    obtain ⟨a1, a2, a3, a4, a5, a6, a7, a8, a9⟩ := statusWord1_fields s count
    obtain ⟨b1, b2, b3, b4, b5, b6, b7, b8, b9, b10, b11, b12, b13, b14, b15, b16, b17, b18⟩ := statusWord2_fields s count
    obtain ⟨c1, c2, c3, c4, c5, c6⟩ := statusWord5_fields s count
    obtain ⟨d1, d2, d3, d4⟩ := statusWord6_fields count hel hqueue hcurrent hfault
    have hseconds : (w 3).toNat = s.tb.time.seconds := (toNat_wordOf _).trans (Nat.mod_eq_of_lt (seconds_lt _))
    have hword4 : field (w 4) 0 16 = s.tb.time.tick ∧ field (w 4) 16 16 = s.supply.lastSample := by
      have ht := tick_lt s.tb.time
      show field (wordOf _) 0 16 = _ ∧ field (wordOf _) 16 16 = _
      rw [field_wordOf, field_wordOf, place, place]
      omega
    have hword10 : (w 10).toNat = s.engine.producer := by
      show (wordOf (place s.engine.producer 0 12)).toNat = _
      rw [toNat_wordOf, place]
      omega
    have hcounter : ∀ x : Nat, x < 2 ^ 32 → (wordOf x).toNat = x := fun x hx => (toNat_wordOf x).trans (Nat.mod_eq_of_lt hx)
    exact ⟨rfl, rfl, a1, a2, a3, a4, a5, a6, a7, a8, a9, b1, b2, b3, b4, b5, b6, b7, b8, b9, b10, b11, b12, b13, b14, b15, b16, b17, b18,
      hseconds, hword4.1, hword4.2, c1, c2, c3, c4, c5, c6, d1, d2, d3, d4, headFrame_eq _, tailFrame_eq _, rfl, hword10,
      hcounter _ hlost, statusCounts count hcounts, hcounter _ htriggers, hcounter _ hmisses, hcounter _ hvoids, hcounter _ hunmetered,
      hcounter _ hskips, fun i hi => statusWords_rest s count hi⟩
  · exact ⟨rfl, rfl, rfl, rfl, rfl, rfl, rfl, rfl, rfl, rfl, rfl, rfl, rfl, rfl, rfl, rfl, perClass_get, rfl, rfl⟩

end Sys2Proof.Machine
end
